-- ==== Sys2Proof/Word.lean ====
section
/-! DEFINITION. The word types of the W4: an instruction word of four bytes (R44), the 64-bit
g register (R85), the 128-bit v register (R85) and the byte. -/

namespace Sys2Proof

/-- One byte of memory or of a register. -/
abbrev Byte := BitVec 8

/-- An instruction word: four bytes, little-endian (R8, R44). -/
abbrev Word := BitVec 32

/-- The 64 bits of a g register (R85). -/
abbrev DWord := BitVec 64

/-- The 128 bits of a v register (R85). -/
abbrev VWord := BitVec 128

end Sys2Proof
end

