-- ==== Sys2Proof/Machine/Bits.lean ====
section
/-! DEFINITION. Bit fields, sign extension and byte order (R8, R44, R46). -/

namespace Sys2Proof

/-- Bits [lo + n - 1 : lo] of a word. -/
def bits {w : Nat} (x : BitVec w) (lo n : Nat) : BitVec n := x.extractLsb' lo n

/-- Bit `i` of a word. -/
def bit {w : Nat} (x : BitVec w) (i : Nat) : Bool := x.getLsbD i

/-- `x` with bits [lo + n - 1 : lo] replaced by `v`; positions above the width are dropped. -/
def setBits {w n : Nat} (x : BitVec w) (lo : Nat) (v : BitVec n) : BitVec w :=
  (x &&& ~~~((BitVec.allOnes n).setWidth w <<< lo)) ||| (v.setWidth w <<< lo)

/-- `x` with bit `i` set to `b`. -/
def setBit {w : Nat} (x : BitVec w) (i : Nat) (b : Bool) : BitVec w :=
  setBits x i (BitVec.ofBool b)

/-- Sign extension (or truncation) to another width. -/
def sext {n : Nat} (m : Nat) (x : BitVec n) : BitVec m := x.signExtend m

/-- The value of little-endian bytes (R8): the first byte lies at the lowest address. -/
def bytesToNat : List Byte → Nat
  | [] => 0
  | b :: bs => b.toNat + 256 * bytesToNat bs

/-- The `n` little-endian bytes of a value, lowest first. -/
def natToBytes : Nat → Nat → List Byte
  | 0, _ => []
  | n + 1, v => BitVec.ofNat 8 v :: natToBytes n (v / 256)

/-- Little-endian bytes as a bit vector. -/
def ofBytes (w : Nat) (bs : List Byte) : BitVec w := BitVec.ofNat w (bytesToNat bs)

/-- The little-endian bytes of a bit vector, `n` of them. -/
def toBytes {w : Nat} (n : Nat) (x : BitVec w) : List Byte := natToBytes n x.toNat

/-- Lane `i` of width `n` of a packed register (R72). -/
def lane {w : Nat} (x : BitVec w) (n i : Nat) : BitVec n := bits x (n * i) n

/-- `x` with lane `i` of width `n` replaced. -/
def setLane {w n : Nat} (x : BitVec w) (i : Nat) (v : BitVec n) : BitVec w := setBits x (n * i) v

/-- Is `a` a multiple of `n`? -/
def aligned (a n : Nat) : Bool := a % n == 0

/-- The first multiple of `n` at or above `a`. -/
def alignUp (a n : Nat) : Nat := (a + n - 1) / n * n

/-- The ceiling of a quotient. -/
def ceilDiv (a b : Nat) : Nat := (a + b - 1) / b

end Sys2Proof
end

