-- ==== Sys2Proof/Machine/Flags.lean ====
section
/-! DEFINITION. The exception flags of RCB.EXC (R65) and the saturation and rounding modes of RCB.FMT (R64, R73). -/

namespace Sys2Proof

/-- The six sticky flags of RCB.EXC (R65). -/
structure Flags where
  sat : Bool := false
  nv : Bool := false
  dz : Bool := false
  of : Bool := false
  uf : Bool := false
  nx : Bool := false
  deriving DecidableEq, Repr

namespace Flags

/-- No flag raised. -/
def none : Flags := {}

/-- The flags of two results: flags are ORed (R65, R77). -/
def or (a b : Flags) : Flags :=
  ⟨a.sat || b.sat, a.nv || b.nv, a.dz || b.dz, a.of || b.of, a.uf || b.uf, a.nx || b.nx⟩

/-- NV when `b` holds. -/
def nvIf (b : Bool) : Flags := { nv := b }

/-- The flags at their places in EXC: [5] SAT, [4] NV, [3] DZ, [2] OF, [1] UF, [0] NX (R65). -/
def toBits (f : Flags) : BitVec 6 :=
  BitVec.ofBool f.sat ++ BitVec.ofBool f.nv ++ BitVec.ofBool f.dz ++ BitVec.ofBool f.of ++
    BitVec.ofBool f.uf ++ BitVec.ofBool f.nx

/-- The OR of the flags of a list of results (R77). -/
def orAll (l : List Flags) : Flags := l.foldl or none

end Flags

/-- The rounding modes (R73). -/
inductive Mode where
  | rne | rtz | rup | rdn | rna
  deriving DecidableEq, Repr

/-- The mode a code of FMT.RND or of RNDX names: 0 RNE, 1 RTZ, 2 RUP, 3 RDN, 4 RNA. Codes 5-7 are refused
before any rounding (R64, R425). -/
def modeOf (c : Nat) : Mode :=
  match c with
  | 1 => .rtz
  | 2 => .rup
  | 3 => .rdn
  | 4 => .rna
  | _ => .rne

/-- Does the mode round a value of this sign away from zero when it overflows (R73)? -/
def Mode.away (m : Mode) (neg : Bool) : Bool :=
  match m with
  | .rne => true
  | .rna => true
  | .rup => !neg
  | .rdn => neg
  | .rtz => false

/-- FMT.SAT and FMT.FTZ together with the mode in force: what a rounding depends on besides its format. -/
structure RoundCtl where
  mode : Mode
  sat : Bool
  ftz : Bool
  deriving DecidableEq, Repr

/-- RNE, SAT and FTZ off: the rounding of AFADD, QFADD and memory-side arithmetic (R312). -/
def RoundCtl.rne : RoundCtl := ⟨.rne, false, false⟩

end Sys2Proof
end

