-- ==== Sys2Proof/Machine/Numbers.lean ====
section
/-! DEFINITION. The number formats and arithmetic rules (R64-R84): the floating formats, exact values, Round with
its overflow and underflow rules, sums of exact terms, conversions, minimum and maximum. -/

namespace Sys2Proof

/-- What special encodings a floating format has (R66). -/
inductive FmtKind where
  | ieee | e4 | plain
  deriving DecidableEq, Repr

/-- A floating format: exponent and fraction widths, bias, special encodings, and whether FMT.SAT reaches it
(R66, R73). -/
structure FFmt where
  eb : Nat
  fb : Nat
  bias : Nat
  kind : FmtKind
  narrow : Bool
  deriving DecidableEq, Repr

/-- FP64 (R66). -/
def FFmt.f64 : FFmt := ⟨11, 52, 1023, .ieee, false⟩
/-- FP32 (R66). -/
def FFmt.f32 : FFmt := ⟨8, 23, 127, .ieee, false⟩
/-- BF16 (R66). -/
def FFmt.bf16 : FFmt := ⟨8, 7, 127, .ieee, false⟩
/-- H16 (R66). -/
def FFmt.h16 : FFmt := ⟨5, 10, 15, .ieee, false⟩
/-- E5 (R66). -/
def FFmt.e5 : FFmt := ⟨5, 2, 15, .ieee, true⟩
/-- E4 (R66): no infinity; 0x7F and 0xFF are NaN. -/
def FFmt.e4 : FFmt := ⟨4, 3, 7, .e4, true⟩
/-- F6 (R66): no infinity, no NaN. -/
def FFmt.f6 : FFmt := ⟨3, 2, 3, .plain, true⟩
/-- F4 (R66): no infinity, no NaN. -/
def FFmt.f4 : FFmt := ⟨2, 1, 1, .plain, true⟩

namespace FFmt

/-- The width of the format. -/
def width (f : FFmt) : Nat := 1 + f.eb + f.fb

/-- The exponent of the smallest normal value. -/
def emin (f : FFmt) : Int := 1 - (f.bias : Int)

/-- The magnitude bits of the largest finite value (R66). -/
def maxBits (f : FFmt) : Nat :=
  match f.kind with
  | .ieee => (2 ^ f.eb - 1) * 2 ^ f.fb - 1
  | .e4 => 2 ^ (f.eb + f.fb) - 2
  | .plain => 2 ^ (f.eb + f.fb) - 1

/-- The canonical NaN (R66); the formats without NaN write +0 for it (R75). -/
def nanBits (f : FFmt) : Nat :=
  match f.kind with
  | .ieee => (2 ^ f.eb - 1) * 2 ^ f.fb + 2 ^ (f.fb - 1)
  | .e4 => 2 ^ (f.eb + f.fb) - 1
  | .plain => 0

/-- Magnitude bits with a sign. -/
def withSign (f : FFmt) (neg : Bool) (mag : Nat) : Nat :=
  if neg then mag + 2 ^ (f.eb + f.fb) else mag

end FFmt

/-- A value of a floating format or an exact result: NaN (signalling or quiet), an infinity, or the exact number
(-1)^neg · m · 2^e; a zero has m = 0 and keeps its sign. -/
inductive FVal where
  | nan (signalling : Bool)
  | inf (neg : Bool)
  | fin (neg : Bool) (m : Nat) (e : Int)
  deriving DecidableEq, Repr

/-- The value of an encoding (R66). An E4 NaN has no quiet form, so reading one counts as signalling (R67). -/
def FFmt.read (f : FFmt) (x : Nat) : FVal :=
  let x := x % 2 ^ f.width
  let neg := x / 2 ^ (f.eb + f.fb) == 1
  let mag := x % 2 ^ (f.eb + f.fb)
  let ef := mag / 2 ^ f.fb
  let fr := mag % 2 ^ f.fb
  let num : FVal :=
    if ef == 0 then .fin neg fr (f.emin - f.fb)
    else .fin neg (fr + 2 ^ f.fb) (f.emin - f.fb + (ef - 1 : Nat))
  match f.kind with
  | .ieee =>
    if ef == 2 ^ f.eb - 1 then
      if fr == 0 then .inf neg else .nan (fr < 2 ^ (f.fb - 1))
    else num
  | .e4 => if mag == 2 ^ (f.eb + f.fb) - 1 then .nan true else num
  | .plain => num

/-- The value an instruction reads: with FTZ a subnormal input is a zero of the same sign, without a flag (R74). -/
def FFmt.readFtz (f : FFmt) (ftz : Bool) (x : Nat) : FVal :=
  match f.read x with
  | .fin neg m e =>
    if ftz && x % 2 ^ (f.eb + f.fb) / 2 ^ f.fb == 0 then .fin neg 0 e else .fin neg m e
  | v => v

/-- Is the value a NaN? -/
def FVal.isNan : FVal → Bool
  | .nan _ => true
  | _ => false

/-- Is the value a signalling NaN (R67)? -/
def FVal.isSig : FVal → Bool
  | .nan s => s
  | _ => false

/-- Is the value a zero? -/
def FVal.isZero : FVal → Bool
  | .fin _ m _ => m == 0
  | _ => false

/-- The value with its sign inverted. -/
def FVal.negate : FVal → FVal
  | .nan s => .nan s
  | .inf n => .inf (!n)
  | .fin n m e => .fin (!n) m e

/-- The sign of a value; a NaN counts as positive. -/
def FVal.isNeg : FVal → Bool
  | .nan _ => false
  | .inf n => n
  | .fin n _ _ => n

/-- The number of bits of a natural number. -/
def bitLen (n : Nat) : Nat := if n == 0 then 0 else n.log2 + 1

/-- Should the kept part be incremented? `odd` is its low bit, `rem` the dropped part out of `full` (R73). -/
def roundUp (mode : Mode) (neg odd : Bool) (rem full : Nat) : Bool :=
  match mode with
  | .rne => full < 2 * rem || (2 * rem == full && odd)
  | .rna => full ≤ 2 * rem
  | .rtz => false
  | .rup => !neg && rem != 0
  | .rdn => neg && rem != 0

/-- m · 2^e in units of 2^q, rounded under the mode, and whether the result is inexact (R73). -/
def roundAt (mode : Mode) (neg : Bool) (m : Nat) (e q : Int) : Nat × Bool :=
  if q ≤ e then (m * 2 ^ (e - q).toNat, false)
  else
    let full := 2 ^ (q - e).toNat
    let k := m / full
    let r := m % full
    (if roundUp mode neg (k % 2 == 1) r full then k + 1 else k, r != 0)

/-- The overflow result of a format (R73). -/
def FFmt.overflow (f : FFmt) (c : RoundCtl) (neg : Bool) : Nat × Flags :=
  if c.sat && f.narrow then (f.withSign neg f.maxBits, { sat := true, nx := true })
  else
    let fl : Flags := { of := true, nx := true }
    match f.kind with
    | .ieee =>
      if c.mode.away neg then (f.withSign neg ((2 ^ f.eb - 1) * 2 ^ f.fb), fl)
      else (f.withSign neg f.maxBits, fl)
    | .e4 => if c.mode.away neg then (f.nanBits, fl) else (f.withSign neg f.maxBits, fl)
    | .plain => (f.withSign neg f.maxBits, fl)

/-- An infinite value written in a format: E5 with SAT gives the largest finite value and raises SAT; E4, F6 and F4
follow the row of the overflow rule for rounding away from zero (R73). -/
def FFmt.infinity (f : FFmt) (c : RoundCtl) (neg : Bool) : Nat × Flags :=
  match f.kind with
  | .ieee =>
    if c.sat && f.narrow then (f.withSign neg f.maxBits, { sat := true })
    else (f.withSign neg ((2 ^ f.eb - 1) * 2 ^ f.fb), Flags.none)
  | _ => f.overflow { c with mode := .rna } neg

/-- Round of a finite exact value into a format (R73, R74): first to unbounded exponent, then the overflow rule, then
the tininess rule. A value whose lowest bits stand for a non-zero remainder carries it in its last bit. -/
def FFmt.roundFin (f : FFmt) (c : RoundCtl) (neg : Bool) (m : Nat) (e : Int) : Nat × Flags :=
  if m == 0 then (f.withSign neg 0, Flags.none)
  else
    let top : Int := e + (bitLen m : Int) - 1
    let q := top - f.fb
    let (k, inx) := roundAt c.mode neg m e q
    -- k · 2^q is the value rounded to unbounded exponent; k may be 2^(fb+1)
    let (k, q) : Nat × Int := if k == 2 ^ (f.fb + 1) then (2 ^ f.fb, q + 1) else (k, q)
    if q + f.fb < f.emin then
      if c.ftz then (f.withSign neg 0, { uf := true, nx := true })
      else
        let (k2, inx2) := roundAt c.mode neg m e (f.emin - f.fb)
        (f.withSign neg k2, { uf := inx2, nx := inx2 })
    else
      let ef := (q + f.fb - f.emin).toNat + 1
      let mag := (ef - 1) * 2 ^ f.fb + k
      if f.maxBits < mag then f.overflow c neg
      else (f.withSign neg mag, { nx := inx })

/-- Round of an exact result into a format (R67, R73-R75): a NaN is the canonical NaN; the formats without NaN write +0
and raise NV. -/
def FFmt.write (f : FFmt) (c : RoundCtl) (v : FVal) : Nat × Flags :=
  match v with
  | .nan _ => (f.nanBits, Flags.nvIf (f.kind == .plain))
  | .inf neg => f.infinity c neg
  | .fin neg m e => f.roundFin c neg m e

/-- The exact product; 0 × ∞ is invalid (R67). The flag says so. -/
def FVal.mul (a b : FVal) : FVal × Flags :=
  match a, b with
  | .nan _, _ => (.nan false, Flags.none)
  | _, .nan _ => (.nan false, Flags.none)
  | .inf n, .inf n' => (.inf (n != n'), Flags.none)
  | .inf n, .fin n' m _ => if m == 0 then (.nan false, { nv := true }) else (.inf (n != n'), Flags.none)
  | .fin n m _, .inf n' => if m == 0 then (.nan false, { nv := true }) else (.inf (n != n'), Flags.none)
  | .fin n m e, .fin n' m' e' => (.fin (n != n') (m * m') (e + e'), Flags.none)

/-- The least exponent of the finite terms. -/
def minExp (l : List FVal) : Int :=
  l.foldl (fun acc v => match v with | .fin _ _ e => min acc e | _ => acc) 0

/-- One finite term in units of 2^e0, as an integer; other terms count nothing. -/
def FVal.scaled (e0 : Int) : FVal → Int
  | .fin n m e =>
    let k : Int := (m * 2 ^ (e - e0).toNat : Nat)
    if n then -k else k
  | _ => 0

/-- Are all terms zeros of the sign `neg`? -/
def allZero (neg : Bool) (l : List FVal) : Bool := l.all (fun v => v.isZero && v.isNeg == neg)

/-- The exact sum of the terms that take part (R73, R81): infinities of both signs (invalid, NV), or a NaN, give NaN; an
exact zero has the sign of R73; a sum with no term is +0. -/
def sumExact (mode : Mode) (l : List FVal) : FVal × Flags :=
  let p := l.any (fun v => v == .inf false)
  let n := l.any (fun v => v == .inf true)
  if p && n then (.nan false, { nv := true })
  else if l.any FVal.isNan then (.nan false, Flags.none)
  else
    if p then (.inf false, Flags.none)
    else if n then (.inf true, Flags.none)
    else
      let e0 := minExp l
      let s : Int := (l.map (FVal.scaled e0)).foldl (· + ·) 0
      if s == 0 then
        if l.isEmpty then (.fin false 0 0, Flags.none)
        else if allZero true l then (.fin true 0 0, Flags.none)
        else if allZero false l then (.fin false 0 0, Flags.none)
        else (.fin (mode == .rdn) 0 0, Flags.none)
      else (.fin (decide (s < 0)) s.natAbs e0, Flags.none)

/-- NV for a signalling NaN among the inputs (R67). -/
def sigFlags (l : List FVal) : Flags := Flags.nvIf (l.any FVal.isSig)

/-- Round(sum of the terms and of the products), fused (R81): the products and terms are exact, one rounding to the
destination format. Flags of signalling inputs and invalid products included. -/
def fusedSum (f : FFmt) (c : RoundCtl) (terms : List FVal) (prods : List (FVal × FVal)) : Nat × Flags :=
  let ps := prods.map (fun (a, b) => a.mul b)
  let inFl := (sigFlags terms).or (sigFlags (prods.foldl (fun acc (a, b) => a :: b :: acc) []))
  let pFl := Flags.orAll (ps.map (·.2))
  let (s, sFl) := sumExact c.mode (terms ++ ps.map (·.1))
  let (r, rFl) := f.write c s
  (r, ((inFl.or pFl).or sFl).or rFl)

/-- Round(a + b) in a format. -/
def fAdd (f : FFmt) (c : RoundCtl) (a b : FVal) : Nat × Flags := fusedSum f c [a, b] []

/-- Round(a − b) in a format. -/
def fSub (f : FFmt) (c : RoundCtl) (a b : FVal) : Nat × Flags := fusedSum f c [a, b.negate] []

/-- Round(a × b) in a format: a product alone keeps the sign that multiplication gives it. -/
def fMul (f : FFmt) (c : RoundCtl) (a b : FVal) : Nat × Flags :=
  let (p, pFl) := a.mul b
  let (r, rFl) := f.write c p
  (r, ((sigFlags [a, b]).or pFl).or rFl)

/-- A quotient of naturals scaled so that at least `k` bits are kept, the remainder folded into the last bit. -/
def divSticky (m m' k : Nat) : Nat × Int :=
  let sh := k + bitLen m'
  let q := m * 2 ^ sh / m'
  let r := m * 2 ^ sh % m'
  (2 * q + (if r == 0 then 0 else 1), -(sh : Int) - 1)

/-- Round(a / b) (R67, R359): 0/0 and ∞/∞ are invalid; a finite non-zero value by zero gives an infinity and DZ. -/
def fDiv (f : FFmt) (c : RoundCtl) (a b : FVal) : Nat × Flags :=
  let sg := sigFlags [a, b]
  let inv : Nat × Flags := (f.nanBits, { nv := true })
  match a, b with
  | .nan _, _ => (f.nanBits, sg)
  | _, .nan _ => (f.nanBits, sg)
  | .inf _, .inf _ => inv
  | .inf n, .fin n' _ _ => f.infinity c (n != n')
  | .fin n _ _, .inf n' => (f.withSign (n != n') 0, Flags.none)
  | .fin n m e, .fin n' m' e' =>
    if m' == 0 then
      if m == 0 then inv
      else ((f.infinity c (n != n')).1, { dz := true })
    else if m == 0 then (f.withSign (n != n') 0, Flags.none)
    else
      let (q, k) := divSticky m m' (f.fb + 4)
      f.roundFin c (n != n') q (e - e' + k)

/-- The integer square root, one result bit for each unit of fuel, from bit `k - 1` down. -/
def isqrtGo : Nat → Nat → Nat → Nat
  | 0, _, r => r
  | k + 1, n, r =>
    let r' := r + 2 ^ k
    if r' * r' ≤ n then isqrtGo k n r' else isqrtGo k n r

/-- The integer square root. -/
def isqrt (n : Nat) : Nat := isqrtGo (bitLen n / 2 + 1) n 0

/-- √(m · 2^e) with at least `k` bits, a remainder folded into the last bit. -/
def sqrtSticky (m : Nat) (e : Int) (k : Nat) : Nat × Int :=
  let sh := 2 * k + (if (e % 2 == 0) then 0 else 1)
  let n := m * 2 ^ sh
  let r := isqrt n
  (2 * r + (if r * r == n then 0 else 1), (e - sh) / 2 - 1)

/-- Round(√a) (R67, R359): −0 gives −0; a negative non-zero value is invalid. -/
def fSqrt (f : FFmt) (c : RoundCtl) (a : FVal) : Nat × Flags :=
  match a with
  | .nan s => (f.nanBits, Flags.nvIf s)
  | .inf true => (f.nanBits, { nv := true })
  | .inf false => f.infinity c false
  | .fin n m e =>
    if m == 0 then (f.withSign n 0, Flags.none)
    else if n then (f.nanBits, { nv := true })
    else
      let (r, k) := sqrtSticky m e (f.fb + 4)
      f.roundFin c false r k

/-- −1, 0 or 1 for the order of two numbers that are not NaN; the two zeros are equal. -/
def FVal.cmp (a b : FVal) : Int :=
  let key : FVal → Int := fun v => match v with
    | .inf true => -1
    | .inf false => 1
    | _ => 0
  if key a != 0 || key b != 0 then (if key a < key b then -1 else if key b < key a then 1 else 0)
  else
    let e0 := minExp [a, b]
    let x := a.scaled e0
    let y := b.scaled e0
    if x < y then -1 else if y < x then 1 else 0

/-- minimumNumber or maximumNumber on encodings of one format (R79): the other operand where exactly one is NaN, the
canonical NaN where both are, −0 below +0, NV for a signalling NaN. -/
def fMinMax (f : FFmt) (wantMax : Bool) (ftz : Bool) (x y : Nat) : Nat × Flags :=
  let a := f.readFtz ftz x
  let b := f.readFtz ftz y
  let fl := sigFlags [a, b]
  let bitsOf : FVal → Nat → Nat := fun v raw => if v.isZero then f.withSign v.isNeg 0 else raw % 2 ^ f.width
  let less : Bool :=
    let d := a.cmp b
    d < 0 || (d == 0 && a.isNeg && !b.isNeg)
  let r :=
    if a.isNan then (if b.isNan then f.nanBits else bitsOf b y)
    else if b.isNan then bitsOf a x
    else if less != wantMax then bitsOf a x else bitsOf b y
  (r, fl)

/-- The comparison conditions of V-CMP and F-CMP (R355, R356). -/
inductive CmpCond where
  | eq | ne | lt | le | un
  deriving DecidableEq, Repr

/-- A floating comparison and its flag (R356): a NaN makes EQ, LT and LE false, NE and UN true; EQ, NE and UN raise NV
only for a signalling NaN, LT and LE for every NaN. -/
def fCompare (c : CmpCond) (a b : FVal) : Bool × Flags :=
  if a.isNan || b.isNan then
    let sg := a.isSig || b.isSig
    match c with
    | .eq => (false, Flags.nvIf sg)
    | .ne => (true, Flags.nvIf sg)
    | .un => (true, Flags.nvIf sg)
    | .lt => (false, { nv := true })
    | .le => (false, { nv := true })
  else
    let d := a.cmp b
    match c with
    | .eq => (d == 0, Flags.none)
    | .ne => (d != 0, Flags.none)
    | .lt => (d < 0, Flags.none)
    | .le => (d ≤ 0, Flags.none)
    | .un => (false, Flags.none)

/-- A finite value rounded to an integer under the mode, and whether it was inexact. -/
def roundInt (mode : Mode) (neg : Bool) (m : Nat) (e : Int) : Int × Bool :=
  let (k, inx) := roundAt mode neg m e 0
  (if neg then -(k : Int) else (k : Int), inx)

/-- Float to integer in [lo, hi] (R75): NaN gives 0 and NV; a result out of range gives the nearest bound and NV, without
NX; an inexact result within range raises NX. -/
def toIntFmt (mode : Mode) (lo hi : Int) (v : FVal) : Int × Flags :=
  match v with
  | .nan _ => (0, { nv := true })
  | .inf neg => (if neg then lo else hi, { nv := true })
  | .fin neg m e =>
    let (k, inx) := roundInt mode neg m e
    if k < lo then (lo, { nv := true })
    else if hi < k then (hi, { nv := true })
    else (k, { nx := inx })

/-- An integer as an exact value; zero is +0. -/
def FVal.ofInt (i : Int) : FVal := .fin (decide (i < 0)) i.natAbs 0

/-- An integer format: its width and signedness (R68). -/
structure IFmt where
  w : Nat
  signed : Bool
  deriving DecidableEq, Repr

namespace IFmt

/-- The least value of the format. -/
def lo (f : IFmt) : Int := if f.signed then -((2 ^ (f.w - 1) : Nat) : Int) else 0

/-- The greatest value of the format. -/
def hi (f : IFmt) : Int := if f.signed then ((2 ^ (f.w - 1) : Nat) : Int) - 1 else ((2 ^ f.w : Nat) : Int) - 1

/-- The value of an encoding. -/
def read (f : IFmt) (x : Nat) : Int :=
  let x := x % 2 ^ f.w
  if f.signed && 2 ^ (f.w - 1) ≤ x then (x : Int) - ((2 ^ f.w : Nat) : Int) else (x : Int)

/-- The low w bits of an integer (R76, wrapping). -/
def wrap (f : IFmt) (i : Int) : Nat := (i % ((2 ^ f.w : Nat) : Int)).toNat

/-- Sat(x, type): the clamped integer and the SAT flag when it clamps (R76). -/
def clamp (f : IFmt) (i : Int) : Int × Flags :=
  if i < f.lo then (f.lo, { sat := true })
  else if f.hi < i then (f.hi, { sat := true })
  else (i, Flags.none)

/-- Wrap, or Sat when `sat` holds (R76). -/
def finish (f : IFmt) (sat : Bool) (i : Int) : Nat × Flags :=
  if sat then let (k, fl) := f.clamp i; (f.wrap k, fl) else (f.wrap i, Flags.none)

end IFmt

/-- What an EF code names (R64). -/
inductive EFmt where
  | flt (f : FFmt)
  | int (f : IFmt)
  | t2
  deriving DecidableEq, Repr

/-- The format of an EF code (R64); K8 elements are E4 (R71). -/
def efmt (ef : Nat) : EFmt :=
  match ef with
  | 0 => .flt .f32
  | 1 => .flt .bf16
  | 2 => .flt .h16
  | 3 => .flt .e4
  | 4 => .flt .e5
  | 5 => .flt .f6
  | 6 => .flt .f4
  | 7 => .int ⟨8, true⟩
  | 8 => .int ⟨6, true⟩
  | 9 => .int ⟨4, true⟩
  | 10 => .int ⟨8, false⟩
  | 11 => .int ⟨4, false⟩
  | 12 => .t2
  | 13 => .flt .e4
  | 14 => .int ⟨16, true⟩
  | _ => .int ⟨32, true⟩

/-- The element width of an EF code (R72). -/
def efWidth (ef : Nat) : Nat :=
  match efmt ef with
  | .flt f => f.width
  | .int f => f.w
  | .t2 => 2

/-- Does a format leave bits [127:126] outside every lane (R72): F6 and I6. -/
def efHasSpare (ef : Nat) : Bool := ef == 5 || ef == 8

/-- A trit: 00 is 0, 01 is +1, 11 is −1; 10 is read as 0 and is invalid (R69). -/
def readTrit (x : Nat) : Int × Bool :=
  match x % 4 with
  | 1 => (1, false)
  | 3 => (-1, false)
  | 2 => (0, true)
  | _ => (0, false)

/-- The encoding of a trit (R69). -/
def writeTrit (i : Int) : Nat := if i == 1 then 1 else if i == -1 then 3 else 0

/-- An element of any format as an exact value, with the NV flag of an invalid trit (R69). FTZ flushes floating
inputs. -/
def readElem (ef : Nat) (ftz : Bool) (x : Nat) : FVal × Flags :=
  match efmt ef with
  | .flt f => (f.readFtz ftz x, Flags.none)
  | .int f => (.ofInt (f.read x), Flags.none)
  | .t2 => let (t, bad) := readTrit x; (.ofInt t, Flags.nvIf bad)

/-- The integer nearest to an exact value under the mode, for a T2 or saturating destination: clamped with SAT; a NaN
gives 0 and NV; inexact raises NX (R346, R349). A value that clamps raises SAT and no NV (log entry 74, DEDUCED). -/
def toClamped (mode : Mode) (lo hi : Int) (v : FVal) : Int × Flags :=
  match v with
  | .nan _ => (0, { nv := true })
  | .inf neg => (if neg then lo else hi, { sat := true })
  | .fin neg m e =>
    let (k, inx) := roundInt mode neg m e
    if k < lo then (lo, { sat := true, nx := inx })
    else if hi < k then (hi, { sat := true, nx := inx })
    else (k, { nx := inx })

/-- The conversion of one element between formats (R75, R349); T2 is read as −1, 0 or +1. An integer
whose value lies outside an integer format of its own width or a wider one is wrapped, or clamped under SAT, as for a narrower one (log
entry 88, DESIGN CHOICE). -/
def convertElem (dst src : Nat) (c : RoundCtl) (x : Nat) : Nat × Flags :=
  let (v, vFl) := readElem src c.ftz x
  let srcInt := match efmt src with | .flt _ => false | _ => true
  match efmt dst with
  | .flt f =>
    let (r, fl) := f.write c v
    (r, (vFl.or (sigFlags [v])).or fl)
  | .int f =>
    if srcInt then
      let (r, fl) := f.finish c.sat ((v.scaled 0))
      (r, vFl.or fl)
    else
      let (k, fl) := toIntFmt c.mode f.lo f.hi v
      (f.wrap k, vFl.or fl)
  | .t2 =>
    let (k, fl) := toClamped c.mode (-1) 1 v
    (writeTrit k, vFl.or fl)

/-- One level of the pairwise tree (R82): neighbours are combined, the last of an odd count passes up. -/
def treeLevel {α : Type} (op : α → α → α × Flags) : List α → List α × Flags
  | a :: b :: l =>
    let (r, fl) := op a b
    let (rs, fls) := treeLevel op l
    (r :: rs, fl.or fls)
  | l => (l, Flags.none)

/-- The fixed pairwise tree in lane order (R82), `fuel` levels; no element gives none. -/
def treeReduce {α : Type} (op : α → α → α × Flags) : Nat → List α → Option α × Flags
  | 0, l => (l.head?, Flags.none)
  | k + 1, l =>
    match l with
    | [] => (none, Flags.none)
    | [a] => (some a, Flags.none)
    | l =>
      let (l', fl) := treeLevel op l
      let (r, fl') := treeReduce op k l'
      (r, fl.or fl')

end Sys2Proof
end

