-- ==== Sys2Proof/Config.lean ====
section
/-! DEFINITION. What the spec leaves to the device or to matters outside it, as constants without a body (log entry 3, DESIGN CHOICE),
and the fixed numbers of the W4. -/

namespace Sys2Proof

/-- The kiln's translation of kernel `k` of a portable form, as the bytes of the code image: the arguments are the portable
form, the kernel, the feature-set id and the kiln version (R184, R401). The spec gives the translation no result. -/
opaque Config.kilnImage : List Byte → Nat → Nat → Nat → List Byte

/-- Does the kiln translate kernel `k` of a portable form, by its version? It may fail (R401). -/
opaque Config.kilnAccepts : List Byte → Nat → Nat → Bool

/-- The tenant key of a serial number: it is generated inside the key store (R184, R398, R401). -/
opaque Config.tenantKey : Nat → List Byte

/-- The key slot that the key of a serial number takes (R398). -/
opaque Config.keySlot : Nat → Nat

/-- Where the kiln cache keeps an image (R184): the address for an index base, set and way. -/
opaque Config.kilnPlace : Nat → Nat → Nat → Nat

/-- The measurement of boot stages 1 to 5, by index (R404): it depends on firmware that the spec does not give. -/
opaque Config.measurement : Nat → List Byte

/-- What follows the code of the device's answer to an SPDM request, and the measurements where it returns them, by the answer's
number and the request (R405): it carries signatures and certificates. -/
opaque Config.spdmAnswer : Nat → List Byte → List Byte

/-- The host physical base of an HDM decoder (R388): the host programs it. -/
opaque Config.hdmBase : Nat → BitVec 64

/-- The launch records of a code object: their offsets in its data section and the kernel each names (R401). The layout of R399
does not say how the loader finds them. -/
opaque Config.launchRecords : List Byte → List (Nat × Nat)

/-- The size of a swapped tenant's image in bytes, by its serial number (R398): the spec gives the image no layout. It is below
4 TiB, half of what host memory can hold. -/
opaque Config.swapSize : Nat → BitVec 42

/-- Byte `i` of a swapped tenant's image, by its serial number. -/
opaque Config.swapByte : Nat → Nat → Byte

/-- The module power averaged over the last millisecond, in units of 10 W, by the cycle at which it is taken (R408). -/
opaque Config.modulePower : Nat → BitVec 16

/-- Does the re-test of a retired column pass (R410), by its serial number? -/
opaque Config.retestPasses : Nat → Bool

/-- Row slots per executor (R13), executors per column, bind records per slot table (R170). -/
def Config.slotsPerExec : Nat := 8

/-- Grade A has 900 good columns (R1, R296); the wafer modelled is of grade A (log entry 5, DESIGN CHOICE). -/
def Config.gradeACols : Nat := 900

end Sys2Proof
end

