-- ==== Sys2Proof/Machine/Map.lean ====
section
/-! DEFINITION. Sparse maps from numbers and byte memories: both are lists sorted by key, each key at most once. A
memory lists no byte equal to what an unlisted address reads as (0, log entry 2, DESIGN CHOICE), so equal memories are equal lists. -/

namespace Sys2Proof

/-- A sparse map: keys strictly rising. -/
abbrev NMap (α : Type) := List (Nat × α)

/-- The value at a key, `d` where none is listed. -/
def NMap.get {α : Type} (d : α) : NMap α → Nat → α
  | [], _ => d
  | (k, v) :: m, a => if a == k then v else NMap.get d m a

/-- The map with the value at a key replaced or inserted. -/
def NMap.set {α : Type} : NMap α → Nat → α → NMap α
  | [], a, x => [(a, x)]
  | (k, v) :: m, a, x =>
    if a == k then (a, x) :: m
    else if a < k then (a, x) :: (k, v) :: m
    else (k, v) :: NMap.set m a x

/-- A byte-addressed memory. -/
abbrev Memory := List Host.Cell

/-- What an address that no write has touched reads as: DRAM is unspecified before its first write (R128); the model reads
0 there (log entry 2, DESIGN CHOICE). Scratchpads, working data and rows are zero-filled by their rules (R117, R246). -/
def Memory.unwritten : Byte := 0

/-- The byte at an address. -/
def Memory.read : Memory → Nat → Byte
  | [], _ => Memory.unwritten
  | (k, v) :: m, a => if a == k then v else if a < k then Memory.unwritten else Memory.read m a

/-- The memory with one byte written, in canonical form. -/
def Memory.write : Memory → Nat → Byte → Memory
  | [], a, b => if b == Memory.unwritten then [] else [(a, b)]
  | (k, v) :: m, a, b =>
    if a == k then (if b == Memory.unwritten then m else (a, b) :: m)
    else if a < k then (if b == Memory.unwritten then (k, v) :: m else (a, b) :: (k, v) :: m)
    else (k, v) :: Memory.write m a b

/-- `n` bytes from an address, lowest first. -/
def Memory.readBytes (m : Memory) (a : Nat) : Nat → List Byte
  | 0 => []
  | n + 1 => m.read a :: Memory.readBytes m (a + 1) n

/-- Bytes written from an address upwards. -/
def Memory.writeBytes (m : Memory) (a : Nat) : List Byte → Memory
  | [] => m
  | b :: bs => Memory.writeBytes (m.write a b) (a + 1) bs

/-- The memory with the bytes of [lo, hi) zero. -/
def Memory.zeroRange (m : Memory) (lo hi : Nat) : Memory := m.filter (fun c => c.1 < lo || hi ≤ c.1)

/-- The canonical form: addresses strictly rising from `lo`, no byte equal to what an unlisted address reads as. -/
def Memory.wfFrom : Nat → Memory → Bool
  | _, [] => true
  | lo, (k, v) :: m => lo ≤ k && v != Memory.unwritten && Memory.wfFrom (k + 1) m

/-- The canonical form of a memory. -/
def Memory.wf (m : Memory) : Bool := Memory.wfFrom 0 m

end Sys2Proof
end

