-- ==== Sys2Proof/Syntax.lean ====
section
/-! DEFINITION. The instructions of the W4 and the indivisible events of the device: one constructor per row
of spec/opcode_table.json, and six for the nine words that the chapters encode and the table does not list
(IMMX, RNDX, HGIVE, HSWAP, HABAN, HREL, HINFO, KCFG, KTEST: log entry 4, DEDUCED).

The fields of a word stand in the order of the table, the guard `p` last (R47). A register field holds the
register's number, a predicate field the predicate's number (R45, R46).

An event has no fields: where it falls (the tenant, the row, the executor, the queue element) is the choice that
`Machine.State.sel` holds (log entry 1, DESIGN CHOICE). -/

namespace Sys2Proof

/-- The instructions and events of the W4. -/
inductive Instr where
  -- HINT (op 0x01)
  /-- CACHEX: Hint that sets cache level, write policy and eviction priority for the target's accesses. (R58) -/
  | cachex (e : BitVec 1) (v w l : BitVec 2)
  /-- SCOPEX: Hint that replaces the default ordering scope of the target. (R60) -/
  | scopex (s : BitVec 3)
  /-- PREFX: Hint that requests strided line prefetches after the target computes its address. (R60) -/
  | prefx (o : BitVec 1) (c : BitVec 5) (s : BitVec 16)
  /-- IGNORED_HINT: HINT word of kind 8-15 that has no effect and takes an issue slot. (R56) -/
  | ignoredHint (k : BitVec 3) (x : BitVec 22)
  /-- IMMX: IMMX: 22 further immediate bits for the target. (R424) -/
  | immx (e : BitVec 22)
  /-- RNDX: RNDX: the target rounds with this mode. (R425) -/
  | rndx (m : BitVec 3)
  -- INT-R (op 0x02)
  /-- ADD_D: 64-bit wrapping addition. (R281) -/
  | addD (d a b : BitVec 6) (p : BitVec 3)
  /-- ADD_W: 32-bit addition sign-extended. (R281) -/
  | addW (d a b : BitVec 6) (p : BitVec 3)
  /-- SUB_D: 64-bit wrapping subtraction. (R281) -/
  | subD (d a b : BitVec 6) (p : BitVec 3)
  /-- SUB_W: 32-bit subtraction sign-extended. (R281) -/
  | subW (d a b : BitVec 6) (p : BitVec 3)
  /-- MUL_D: 64-bit low multiply. (R281) -/
  | mulD (d a b : BitVec 6) (p : BitVec 3)
  /-- MUL_W: 32-bit multiply sign-extended. (R281) -/
  | mulW (d a b : BitVec 6) (p : BitVec 3)
  /-- MULH: High 64 bits of the signed 128-bit product. (R281) -/
  | mulh (d a b : BitVec 6) (p : BitVec 3)
  /-- MULHN: High 64 bits of the unsigned 128-bit product. (R281) -/
  | mulhn (d a b : BitVec 6) (p : BitVec 3)
  /-- DIV_D: Signed 64-bit division without faults. (R282) -/
  | divD (d a b : BitVec 6) (p : BitVec 3)
  /-- DIV_W: Signed 32-bit division. (R282) -/
  | divW (d a b : BitVec 6) (p : BitVec 3)
  /-- DIVN_D: Unsigned 64-bit division. (R282) -/
  | divnD (d a b : BitVec 6) (p : BitVec 3)
  /-- DIVN_W: Unsigned 32-bit division. (R282) -/
  | divnW (d a b : BitVec 6) (p : BitVec 3)
  /-- REM_D: Signed 64-bit remainder. (R282) -/
  | remD (d a b : BitVec 6) (p : BitVec 3)
  /-- REM_W: Signed 32-bit remainder. (R282) -/
  | remW (d a b : BitVec 6) (p : BitVec 3)
  /-- REMN_D: Unsigned 64-bit remainder. (R282) -/
  | remnD (d a b : BitVec 6) (p : BitVec 3)
  /-- REMN_W: Unsigned 32-bit remainder. (R282) -/
  | remnW (d a b : BitVec 6) (p : BitVec 3)
  /-- MIN: Signed minimum. (R281) -/
  | min (d a b : BitVec 6) (p : BitVec 3)
  /-- MAX: Signed maximum. (R281) -/
  | max (d a b : BitVec 6) (p : BitVec 3)
  /-- MINN: Unsigned minimum. (R281) -/
  | minn (d a b : BitVec 6) (p : BitVec 3)
  /-- MAXN: Unsigned maximum. (R281) -/
  | maxn (d a b : BitVec 6) (p : BitVec 3)
  /-- AND: Bitwise AND. (R281) -/
  | and (d a b : BitVec 6) (p : BitVec 3)
  /-- OR: Bitwise OR. (R281) -/
  | or (d a b : BitVec 6) (p : BitVec 3)
  /-- XOR: Bitwise XOR. (R281) -/
  | xor (d a b : BitVec 6) (p : BitVec 3)
  /-- ANDN: a AND NOT b. (R281) -/
  | andn (d a b : BitVec 6) (p : BitVec 3)
  /-- SHL: Shift left by register count. (R283) -/
  | shl (d a b : BitVec 6) (p : BitVec 3)
  /-- SHR: Logical shift right by register count. (R283) -/
  | shr (d a b : BitVec 6) (p : BitVec 3)
  /-- SRA: Arithmetic shift right by register count. (R283) -/
  | sra (d a b : BitVec 6) (p : BitVec 3)
  /-- ROT: Rotate left by register count. (R283) -/
  | rot (d a b : BitVec 6) (p : BitVec 3)
  /-- BEXT: Extract a bit field. (R284) -/
  | bext (d a b : BitVec 6) (p : BitVec 3)
  /-- BINS: Insert a bit field into gd. (R284) -/
  | bins (d a b : BitVec 6) (p : BitVec 3)
  /-- SEL: Bitwise select with old gd as mask. (R284) -/
  | sel (d a b : BitVec 6) (p : BitVec 3)
  /-- ABS_D: 64-bit absolute value. (R285) -/
  | absD (d a : BitVec 6) (p : BitVec 3)
  /-- ABS_W: 32-bit absolute value. (R285) -/
  | absW (d a : BitVec 6) (p : BitVec 3)
  /-- CLZ_D: Count leading zeros of 64 bits. (R285) -/
  | clzD (d a : BitVec 6) (p : BitVec 3)
  /-- CLZ_W: Count leading zeros of 32 bits. (R285) -/
  | clzW (d a : BitVec 6) (p : BitVec 3)
  /-- POPC_D: Population count of 64 bits. (R285) -/
  | popcD (d a : BitVec 6) (p : BitVec 3)
  /-- POPC_W: Population count of 32 bits. (R285) -/
  | popcW (d a : BitVec 6) (p : BitVec 3)
  -- Immediate forms (op 0x03-0x06)
  /-- ADDI: Add sign-extended immediate. (R286) -/
  | addi (d a : BitVec 6) (i : BitVec 11) (p : BitVec 3)
  /-- ANDI: AND with sign-extended immediate. (R286) -/
  | andi (d a : BitVec 6) (i : BitVec 11) (p : BitVec 3)
  /-- ORI: OR with sign-extended immediate. (R286) -/
  | ori (d a : BitVec 6) (i : BitVec 11) (p : BitVec 3)
  /-- XORI: XOR with sign-extended immediate. (R286) -/
  | xori (d a : BitVec 6) (i : BitVec 11) (p : BitVec 3)
  -- SHIFT-I (op 0x07)
  /-- SHLI: Shift left by an immediate count, .D or .W. (R287) -/
  | shli (d a : BitVec 6) (w : BitVec 1) (c : BitVec 6) (p : BitVec 3)
  /-- SHRI: Logical shift right by an immediate count. (R287) -/
  | shri (d a : BitVec 6) (w : BitVec 1) (c : BitVec 6) (p : BitVec 3)
  /-- SRAI: Arithmetic shift right by an immediate count. (R287) -/
  | srai (d a : BitVec 6) (w : BitVec 1) (c : BitVec 6) (p : BitVec 3)
  /-- ROTI: Rotate left by an immediate count. (R287) -/
  | roti (d a : BitVec 6) (w : BitVec 1) (c : BitVec 6) (p : BitVec 3)
  -- Compares (op 0x08, 0x09)
  /-- CMP: Register compare writing one predicate. (R288) -/
  | cmp (d c : BitVec 3) (a b : BitVec 6) (w : BitVec 1) (p : BitVec 3)
  /-- CMPI: Compare with an immediate writing one predicate. (R288) -/
  | cmpi (d c : BitVec 3) (a : BitVec 6) (i : BitVec 11) (p : BitVec 3)
  -- PRED (op 0x0A)
  /-- PAND: Predicate AND. (R289) -/
  | pand (d a b p : BitVec 3)
  /-- POR: Predicate OR. (R289) -/
  | por (d a b p : BitVec 3)
  /-- PXOR: Predicate XOR. (R289) -/
  | pxor (d a b p : BitVec 3)
  /-- PNOT: Predicate NOT. (R289) -/
  | pnot (d a p : BitVec 3)
  /-- PMOV: Predicate move. (R289) -/
  | pmov (d a p : BitVec 3)
  -- MOVI (op 0x0B)
  /-- MOVI: Write a sign-extended wide immediate. (R290) -/
  | movi (d : BitVec 6) (i : BitVec 17) (p : BitVec 3)
  -- Control transfer (op 0x0C-0x0F)
  /-- BR: Branch if the predicate is 1. (R291) -/
  | br (s : BitVec 3) (d : BitVec 22)
  /-- BRN: Branch if the predicate is 0. (R291) -/
  | brn (s : BitVec 3) (d : BitVec 22)
  /-- CALL: Conditional call writing g63. (R292) -/
  | call (s : BitVec 3) (d : BitVec 22)
  /-- CALLN: Call when the predicate is 0. (R292) -/
  | calln (s : BitVec 3) (d : BitVec 22)
  /-- JR: Jump to a register target with optional link. (R293) -/
  | jr (d a : BitVec 6) (p : BitVec 3)
  /-- RET: Return to g63. (R293) -/
  | ret (p : BitVec 3)
  /-- LOOP: Decrement a counter and branch while non-zero. (R294) -/
  | loop (c : BitVec 6) (i : BitVec 17) (p : BitVec 3)
  -- LD and ST (op 0x10-0x19)
  /-- LDB: Load 1 byte zero-extended. (R304) -/
  | ldb (t a : BitVec 6) (i : BitVec 11) (p : BitVec 3)
  /-- LDH: Load 2 bytes zero-extended. (R304) -/
  | ldh (t a : BitVec 6) (i : BitVec 11) (p : BitVec 3)
  /-- LDW: Load 4 bytes zero-extended. (R304) -/
  | ldw (t a : BitVec 6) (i : BitVec 11) (p : BitVec 3)
  /-- LDD: Load 8 bytes. (R304) -/
  | ldd (t a : BitVec 6) (i : BitVec 11) (p : BitVec 3)
  /-- STB: Store 1 byte. (R304) -/
  | stb (t a : BitVec 6) (i : BitVec 11) (p : BitVec 3)
  /-- STH: Store 2 bytes. (R304) -/
  | sth (t a : BitVec 6) (i : BitVec 11) (p : BitVec 3)
  /-- STW: Store 4 bytes. (R304) -/
  | stw (t a : BitVec 6) (i : BitVec 11) (p : BitVec 3)
  /-- STD: Store 8 bytes. (R304) -/
  | std (t a : BitVec 6) (i : BitVec 11) (p : BitVec 3)
  /-- LDV: Load 16 bytes into a v register. (R305) -/
  | ldv (t : BitVec 5) (a : BitVec 6) (i : BitVec 11) (p : BitVec 3)
  /-- STV: Store a v register as 16 bytes. (R305) -/
  | stv (t : BitVec 5) (a : BitVec 6) (i : BitVec 11) (p : BitVec 3)
  -- Indexed and block (op 0x1A)
  /-- LDX_H: Gather eight 2-byte elements. (R308) -/
  | ldxH (d : BitVec 5) (a : BitVec 6) (v : BitVec 5) (p : BitVec 3)
  /-- LDX_W: Gather four 4-byte elements. (R308) -/
  | ldxW (d : BitVec 5) (a : BitVec 6) (v : BitVec 5) (p : BitVec 3)
  /-- LDX_D: Gather two 8-byte elements. (R308) -/
  | ldxD (d : BitVec 5) (a : BitVec 6) (v : BitVec 5) (p : BitVec 3)
  /-- STX_H: Scatter eight 2-byte elements. (R308) -/
  | stxH (s : BitVec 5) (a : BitVec 6) (v : BitVec 5) (p : BitVec 3)
  /-- STX_W: Scatter four 4-byte elements. (R308) -/
  | stxW (s : BitVec 5) (a : BitVec 6) (v : BitVec 5) (p : BitVec 3)
  /-- STX_D: Scatter two 8-byte elements. (R308) -/
  | stxD (s : BitVec 5) (a : BitVec 6) (v : BitVec 5) (p : BitVec 3)
  /-- LDBLK: Copy 32-byte sectors from memory into working data. (R309) -/
  | ldblk (w a n : BitVec 6) (p : BitVec 3)
  /-- STBLK: Copy 32-byte sectors from working data to memory. (R309) -/
  | stblk (w a n : BitVec 6) (p : BitVec 3)
  /-- LDBS: Load 1 byte sign-extended with register offset. (R307) -/
  | ldbs (d a b : BitVec 6) (p : BitVec 3)
  /-- LDHS: Load 2 bytes sign-extended with register offset. (R307) -/
  | ldhs (d a b : BitVec 6) (p : BitVec 3)
  /-- LDWS: Load 4 bytes sign-extended with register offset. (R307) -/
  | ldws (d a b : BitVec 6) (p : BitVec 3)
  -- Working data (op 0x1B)
  /-- LWD: Load 8 bytes of the row's working data. (R310) -/
  | lwd (d : BitVec 6) (o : BitVec 11) (p : BitVec 3)
  /-- SWD: Store 8 bytes into the row's working data. (R310) -/
  | swd (d : BitVec 6) (o : BitVec 11) (p : BitVec 3)
  -- ATOM (op 0x1C)
  /-- AADD: Returning atomic add at the home. (R312) -/
  | aadd (d a : BitVec 6) (o : BitVec 2) (w : BitVec 1) (p : BitVec 3)
  /-- AMIN: Returning atomic signed minimum. (R312) -/
  | amin (d a : BitVec 6) (o : BitVec 2) (w : BitVec 1) (p : BitVec 3)
  /-- AMAX: Returning atomic signed maximum. (R312) -/
  | amax (d a : BitVec 6) (o : BitVec 2) (w : BitVec 1) (p : BitVec 3)
  /-- AAND: Returning atomic AND. (R312) -/
  | aand (d a : BitVec 6) (o : BitVec 2) (w : BitVec 1) (p : BitVec 3)
  /-- AOR: Returning atomic OR. (R312) -/
  | aor (d a : BitVec 6) (o : BitVec 2) (w : BitVec 1) (p : BitVec 3)
  /-- AXOR: Returning atomic XOR. (R312) -/
  | axor (d a : BitVec 6) (o : BitVec 2) (w : BitVec 1) (p : BitVec 3)
  /-- ASWAP: Returning atomic swap. (R312) -/
  | aswap (d a : BitVec 6) (o : BitVec 2) (w : BitVec 1) (p : BitVec 3)
  /-- ACAS: Returning atomic compare-and-swap. (R312) -/
  | acas (d a : BitVec 6) (o : BitVec 2) (w : BitVec 1) (p : BitVec 3)
  /-- AFADD: Returning atomic floating add rounded RNE. (R312) -/
  | afadd (d a : BitVec 6) (o : BitVec 2) (w : BitVec 1) (p : BitVec 3)
  -- RED (op 0x1D)
  /-- QADD: Queued scalar add reduction. (R314) -/
  | qadd (r : BitVec 1) (a s : BitVec 6) (w : BitVec 1) (p : BitVec 3)
  /-- QMIN: Queued scalar signed minimum reduction. (R314) -/
  | qmin (r : BitVec 1) (a s : BitVec 6) (w : BitVec 1) (p : BitVec 3)
  /-- QMAX: Queued scalar signed maximum reduction. (R314) -/
  | qmax (r : BitVec 1) (a s : BitVec 6) (w : BitVec 1) (p : BitVec 3)
  /-- QAND: Queued scalar AND reduction. (R314) -/
  | qand (r : BitVec 1) (a s : BitVec 6) (w : BitVec 1) (p : BitVec 3)
  /-- QIOR: Queued scalar OR reduction. (R314) -/
  | qior (r : BitVec 1) (a s : BitVec 6) (w : BitVec 1) (p : BitVec 3)
  /-- QXOR: Queued scalar XOR reduction. (R314) -/
  | qxor (r : BitVec 1) (a s : BitVec 6) (w : BitVec 1) (p : BitVec 3)
  /-- QFADD: Queued scalar floating add reduction. (R314) -/
  | qfadd (r : BitVec 1) (a s : BitVec 6) (w : BitVec 1) (p : BitVec 3)
  /-- QBF16ADD: Queued scalar BF16 add reduction. (R314) -/
  | qbf16add (r : BitVec 1) (a s : BitVec 6) (p : BitVec 3)
  /-- QADDX: Scatter add reduction. (R314) -/
  | qaddx (v : BitVec 5) (r : BitVec 1) (a : BitVec 6) (i : BitVec 5) (w : BitVec 1) (p : BitVec 3)
  /-- QMINX: Scatter signed minimum reduction. (R314) -/
  | qminx (v : BitVec 5) (r : BitVec 1) (a : BitVec 6) (i : BitVec 5) (w : BitVec 1) (p : BitVec 3)
  /-- QMAXX: Scatter signed maximum reduction. (R314) -/
  | qmaxx (v : BitVec 5) (r : BitVec 1) (a : BitVec 6) (i : BitVec 5) (w : BitVec 1) (p : BitVec 3)
  /-- QANDX: Scatter AND reduction. (R314) -/
  | qandx (v : BitVec 5) (r : BitVec 1) (a : BitVec 6) (i : BitVec 5) (w : BitVec 1) (p : BitVec 3)
  /-- QIORX: Scatter OR reduction. (R314) -/
  | qiorx (v : BitVec 5) (r : BitVec 1) (a : BitVec 6) (i : BitVec 5) (w : BitVec 1) (p : BitVec 3)
  /-- QXORX: Scatter XOR reduction. (R314) -/
  | qxorx (v : BitVec 5) (r : BitVec 1) (a : BitVec 6) (i : BitVec 5) (w : BitVec 1) (p : BitVec 3)
  /-- QFADDX: Scatter floating add reduction. (R314) -/
  | qfaddx (v : BitVec 5) (r : BitVec 1) (a : BitVec 6) (i : BitVec 5) (w : BitVec 1) (p : BitVec 3)
  /-- QBF16ADDX: Scatter BF16 add reduction. (R314) -/
  | qbf16addx (v : BitVec 5) (r : BitVec 1) (a : BitVec 6) (i : BitVec 5) (p : BitVec 3)
  -- FE (op 0x1E)
  /-- LDFE: Load a full word and mark it empty, deferring if it is empty. (R315) -/
  | ldfe (d a : BitVec 6) (q p : BitVec 3)
  /-- LDF: Load a word and report its full/empty bit. (R315) -/
  | ldf (d a : BitVec 6) (q p : BitVec 3)
  /-- STFE: Store into an empty word, mark it full and answer the oldest waiter. (R315) -/
  | stfe (d a : BitVec 6) (q p : BitVec 3)
  /-- SETE: Mark a word empty. (R315) -/
  | sete (a : BitVec 6) (p : BitVec 3)
  -- ORDER (op 0x1F)
  /-- FENCE: Full fence at the named scope. (R222) -/
  | fence (s p : BitVec 3)
  /-- LDA_D: 8-byte acquire load. (R316) -/
  | ldaD (d a : BitVec 6) (p : BitVec 3)
  /-- LDA_W: 4-byte acquire load. (R316) -/
  | ldaW (d a : BitVec 6) (p : BitVec 3)
  /-- STL_D: 8-byte release store. (R316) -/
  | stlD (d a : BitVec 6) (p : BitVec 3)
  /-- STL_W: 4-byte release store. (R316) -/
  | stlW (d a : BitVec 6) (p : BitVec 3)
  -- ROW (op 0x20)
  /-- YIELD: Close the row if a candidate could take its slot. (R320) -/
  | yield (p : BitVec 3)
  /-- CLOSE: Close the row and make it READY. (R320) -/
  | close (p : BitVec 3)
  /-- HALT: Retire the issuing row after its checks and waits. (R322) -/
  | halt (p : BitVec 3)
  /-- ARM: Arm a line monitor registered at the line's home. (R324) -/
  | arm (q : BitVec 3) (a : BitVec 6) (p : BitVec 3)
  /-- DISARM: Clear one or all monitors. (R326) -/
  | disarm (k : BitVec 6) (p : BitVec 3)
  /-- WAITM: Wait until a monitor fires. (R328) -/
  | waitm (p : BitVec 3)
  /-- SPAWN: Send a spawn message to a target column. (R330) -/
  | spawn (q : BitVec 3) (c j : BitVec 6) (p : BitVec 3)
  /-- MIGR: Move the row to the column of an address. (R332) -/
  | migr (a : BitVec 6) (p : BitVec 3)
  /-- STEPX: Apply STEP to another row and return its result word. (R334) -/
  | stepx (d r : BitVec 6) (p : BitVec 3)
  -- CHAN (op 0x21)
  /-- QPUSH: Push a value into a channel. (R133) -/
  | qpush (s : BitVec 6) (c : BitVec 4) (q l p : BitVec 3)
  /-- QPUSHC: Push a value with its control bit set. (R133) -/
  | qpushc (s : BitVec 6) (c : BitVec 4) (q l p : BitVec 3)
  /-- QPOP: Pop a channel entry, entering the tail handler on a fibre end. (R133) -/
  | qpop (d : BitVec 6) (c : BitVec 4) (q p : BitVec 3)
  /-- QPEEK: Read the head entry without changing the channel. (R322) -/
  | qpeek (d : BitVec 6) (c : BitVec 4) (q p : BitVec 3)
  /-- QCNT: Return the channel state word. (R322) -/
  | qcnt (d : BitVec 6) (c : BitVec 4) (p : BitVec 3)
  /-- TAILRET: Return from the tail handler. (R338) -/
  | tailret (p : BitVec 3)
  -- SEND (op 0x22)
  /-- SEND: Send bytes into a receive window of another column. (R342) -/
  | send (q : BitVec 3) (a : BitVec 6) (p : BitVec 3)
  /-- SENDQ: Send entries into a metadata queue of another column. (R342) -/
  | sendq (q : BitVec 3) (a : BitVec 6) (p : BitVec 3)
  /-- HALO: Send tile borders to the four logical neighbours. (R344) -/
  | halo (q : BitVec 3) (a : BitVec 6) (p : BitVec 3)
  /-- WMK: Set a receive window's FILL and arrival map. (R346) -/
  | wmk (k : BitVec 3) (v : BitVec 6) (p : BitVec 3)
  -- HOLD (op 0x23)
  /-- HCLAIM: Claim a place in a hold word's queue. (R164) -/
  | hclaim (d a : BitVec 6) (q p : BitVec 3)
  /-- HWAIT: Wait until the own place is holder. (R166) -/
  | hwait (h : BitVec 6) (p : BitVec 3)
  /-- HTEST: Test whether a place is holder. (R168) -/
  | htest (q : BitVec 3) (h : BitVec 6) (p : BitVec 3)
  /-- HMOVE: HGIVE (f = 0), give a place to row r, and HSWAP (f = 1), exchange it with the later place r. (R426, R427) -/
  | hmove (f : BitVec 1) (q : BitVec 3) (h r : BitVec 6) (p : BitVec 3)
  /-- HEND: HABAN (f = 0), abandon a place, and HREL (f = 1), release the held object. (R428, R429) -/
  | hend (f : BitVec 1) (h : BitVec 6) (p : BitVec 3)
  /-- HINFO: HINFO: read where a place stands. (R430) -/
  | hinfo (d h : BitVec 6) (p : BitVec 3)
  -- WALK (op 0x24)
  /-- KWALK: Submit a summary-tree walk request. (R202) -/
  | kwalk (q : BitVec 3) (a b : BitVec 6) (p : BitVec 3)
  /-- KAPND: Submit a key append request. (R202) -/
  | kapnd (q : BitVec 3) (a b : BitVec 6) (p : BitVec 3)
  /-- KSUM: Submit a tree rebuild request. (R202) -/
  | ksum (q : BitVec 3) (a b : BitVec 6) (p : BitVec 3)
  /-- KSTAT: KCFG (f = 0), write OTA, OTF and OTCFG together, and KTEST (f = 1), store the walker statistics. (R431, R432) -/
  | kstat (f : BitVec 1) (a : BitVec 6) (p : BitVec 3)
  -- MX (op 0x25)
  /-- MXQ: Enqueue a matrix job and return its ticket. (R371) -/
  | mxq (d a : BitVec 6) (q p : BitVec 3)
  /-- MXS: Enqueue a matrix job and wait for its status. (R371) -/
  | mxs (d a : BitVec 6) (q p : BitVec 3)
  /-- MXW: Wait for a job of the row's job list. (R373) -/
  | mxw (d j : BitVec 6) (p : BitVec 3)
  /-- MXT: Test a job of the row's job list. (R373) -/
  | mxt (d j : BitVec 6) (q p : BitVec 3)
  /-- MXCAN: Cancel a running job. (R375) -/
  | mxcan (j : BitVec 6) (q p : BitVec 3)
  -- GATE (op 0x26)
  /-- GNEXT: Pop a gateway block descriptor. (R383) -/
  | gnext (q : BitVec 3) (a : BitVec 6) (p : BitVec 3)
  /-- GDONE: Forward a window block to the paired peer gateway. (R385) -/
  | gdone (q : BitVec 3) (a : BitVec 6) (p : BitVec 3)
  -- LNCH (op 0x27)
  /-- LAUNCH: Submit a launch record to the wafer management cores. (R349) -/
  | launch (d a : BitVec 6) (q p : BitVec 3)
  /-- LHINT: Send the successor-may-start signal of the launch. (R351) -/
  | lhint (p : BitVec 3)
  /-- WAITP: Wait for the predecessor launch to complete. (R353) -/
  | waitp (s p : BitVec 3)
  /-- CANCEL: Cancel a launch, graph, phase or job. (R355) -/
  | cancel (d i : BitVec 6) (l : BitVec 2) (p : BitVec 3)
  /-- JOINW: Wait until a join word equals a target value. (R357) -/
  | joinw (j t : BitVec 6) (p : BitVec 3)
  -- V-FP (op 0x28)
  /-- VADD: Vector floating add. (R337) -/
  | vadd (d a b : BitVec 5) (t : BitVec 2) (p : BitVec 3)
  /-- VSUB: Vector floating subtract. (R337) -/
  | vsub (d a b : BitVec 5) (t : BitVec 2) (p : BitVec 3)
  /-- VMUL: Vector floating multiply. (R337) -/
  | vmul (d a b : BitVec 5) (t : BitVec 2) (p : BitVec 3)
  /-- VFMA: Vector fused multiply-add. (R337) -/
  | vfma (d a b : BitVec 5) (t : BitVec 2) (p : BitVec 3)
  /-- VFMS: Vector fused multiply-subtract. (R337) -/
  | vfms (d a b : BitVec 5) (t : BitVec 2) (p : BitVec 3)
  /-- VMIN: Vector floating minimum. (R337) -/
  | vmin (d a b : BitVec 5) (t : BitVec 2) (p : BitVec 3)
  /-- VMAX: Vector floating maximum. (R337) -/
  | vmax (d a b : BitVec 5) (t : BitVec 2) (p : BitVec 3)
  /-- VABS: Vector absolute value. (R337) -/
  | vabs (d a : BitVec 5) (t : BitVec 2) (p : BitVec 3)
  /-- VNEG: Vector negation. (R337) -/
  | vneg (d a : BitVec 5) (t : BitVec 2) (p : BitVec 3)
  /-- VDOT2: Fused pairwise 16-bit dot product into F32 lanes. (R338) -/
  | vdot2 (d a b : BitVec 5) (t : BitVec 2) (p : BitVec 3)
  /-- VDOT4: Fused four-way E4/E5 dot product into F32 lanes. (R338) -/
  | vdot4 (d a b : BitVec 5) (p : BitVec 3)
  -- V-INT (op 0x29)
  /-- VIADD: Vector integer add. (R340) -/
  | viadd (d a b : BitVec 5) (t : BitVec 2) (p : BitVec 3)
  /-- VISUB: Vector integer subtract. (R340) -/
  | visub (d a b : BitVec 5) (t : BitVec 2) (p : BitVec 3)
  /-- VIMUL: Vector integer multiply. (R340) -/
  | vimul (d a b : BitVec 5) (t : BitVec 2) (p : BitVec 3)
  /-- VIADDS: Saturating vector integer add. (R340) -/
  | viadds (d a b : BitVec 5) (t : BitVec 2) (p : BitVec 3)
  /-- VISUBS: Saturating vector integer subtract. (R340) -/
  | visubs (d a b : BitVec 5) (t : BitVec 2) (p : BitVec 3)
  /-- VIMULS: Saturating vector integer multiply. (R340) -/
  | vimuls (d a b : BitVec 5) (t : BitVec 2) (p : BitVec 3)
  /-- VSHL: Vector shift left by lane counts. (R340) -/
  | vshl (d a b : BitVec 5) (t : BitVec 2) (p : BitVec 3)
  /-- VSHR: Vector shift right by lane counts. (R340) -/
  | vshr (d a b : BitVec 5) (t : BitVec 2) (p : BitVec 3)
  /-- VAND: 128-bit AND. (R340) -/
  | vand (d a b : BitVec 5) (t : BitVec 2) (p : BitVec 3)
  /-- VOR: 128-bit OR. (R340) -/
  | vor (d a b : BitVec 5) (t : BitVec 2) (p : BitVec 3)
  /-- VXOR: 128-bit XOR. (R340) -/
  | vxor (d a b : BitVec 5) (t : BitVec 2) (p : BitVec 3)
  -- V-NARROW (op 0x2A)
  /-- VNADD: Narrow-format add. (R342) -/
  | vnadd (d a b : BitVec 5) (p : BitVec 3)
  /-- VNSUB: Narrow-format subtract. (R342) -/
  | vnsub (d a b : BitVec 5) (p : BitVec 3)
  /-- VNMUL: Narrow-format multiply. (R342) -/
  | vnmul (d a b : BitVec 5) (p : BitVec 3)
  /-- VNFMA: Narrow-format fused multiply-add. (R342) -/
  | vnfma (d a b : BitVec 5) (p : BitVec 3)
  /-- VNMAX: Narrow-format maximum. (R342) -/
  | vnmax (d a b : BitVec 5) (p : BitVec 3)
  /-- VNDOT: Narrow, ternary or K8 dot product into wide lanes. (R344) -/
  | vndot (d a b : BitVec 5) (k p : BitVec 3)
  /-- VQUANT: Requantise four F32 lanes into narrow elements. (R346) -/
  | vquant (d a : BitVec 5) (k p : BitVec 3)
  /-- VBAQ: Add two K8 blocks and write a rescaled block. (R348) -/
  | vbaq (d a b : BitVec 5) (k p : BitVec 3)
  -- V-CVT (op 0x2B)
  /-- VCVT: Convert elements between formats by part. (R349) -/
  | vcvt (d a r : BitVec 5) (x y : BitVec 4) (p : BitVec 3)
  -- V-PERM (op 0x2C)
  /-- VSHUF: Shuffle lanes by index. (R351) -/
  | vshuf (d a b : BitVec 5) (w : BitVec 2) (p : BitVec 3)
  /-- VBCAST: Broadcast a g register into every lane. (R351) -/
  | vbcast (d : BitVec 5) (s : BitVec 6) (w : BitVec 2) (p : BitVec 3)
  /-- VEXT: Extract a lane into a g register. (R351) -/
  | vext (d : BitVec 6) (i : BitVec 4) (s : BitVec 5) (w : BitVec 2) (p : BitVec 3)
  /-- VINS: Insert a g register into a lane. (R351) -/
  | vins (d : BitVec 5) (s : BitVec 6) (i : BitVec 4) (w : BitVec 2) (p : BitVec 3)
  /-- VSELV: Bitwise select with old vd as mask. (R351) -/
  | vselv (d a b : BitVec 5) (p : BitVec 3)
  -- V-RED (op 0x2D)
  /-- VRSUM: Tree sum of lanes to F32. (R353) -/
  | vrsum (d a m : BitVec 5) (t : BitVec 2) (p : BitVec 3)
  /-- VRMAX: Tree maximum of lanes. (R353) -/
  | vrmax (d a m : BitVec 5) (t : BitVec 2) (p : BitVec 3)
  /-- VRMIN: Tree minimum of lanes. (R353) -/
  | vrmin (d a m : BitVec 5) (t : BitVec 2) (p : BitVec 3)
  -- SFU (op 0x2E)
  /-- VEXP2: Correctly rounded 2^x per lane. (R357) -/
  | vexp2 (d a : BitVec 5) (t : BitVec 2) (p : BitVec 3)
  /-- VLOG2: Correctly rounded log2 per lane. (R357) -/
  | vlog2 (d a : BitVec 5) (t : BitVec 2) (p : BitVec 3)
  /-- VRCP: Correctly rounded reciprocal per lane. (R357) -/
  | vrcp (d a : BitVec 5) (t : BitVec 2) (p : BitVec 3)
  /-- VRSQ: Correctly rounded reciprocal square root per lane. (R357) -/
  | vrsq (d a : BitVec 5) (t : BitVec 2) (p : BitVec 3)
  /-- VSIN: Correctly rounded sine per lane. (R357) -/
  | vsin (d a : BitVec 5) (t : BitVec 2) (p : BitVec 3)
  /-- VTANH: Correctly rounded tanh per lane. (R357) -/
  | vtanh (d a : BitVec 5) (t : BitVec 2) (p : BitVec 3)
  /-- VSIG: Correctly rounded sigmoid per lane. (R357) -/
  | vsig (d a : BitVec 5) (t : BitVec 2) (p : BitVec 3)
  -- V-CMP (op 0x2F)
  /-- VCMP: Lane compare writing a mask. (R355) -/
  | vcmp (d a b : BitVec 5) (c : BitVec 3) (t : BitVec 2) (p : BitVec 3)
  /-- VANY: Lane compare ORed into a predicate. (R355) -/
  | vany (q : BitVec 3) (a b : BitVec 5) (c : BitVec 3) (t : BitVec 2) (p : BitVec 3)
  /-- VALL: Lane compare ANDed into a predicate. (R355) -/
  | vall (q : BitVec 3) (a b : BitVec 5) (c : BitVec 3) (t : BitVec 2) (p : BitVec 3)
  -- F-R (op 0x30)
  /-- FADD: Scalar floating add. (R359) -/
  | fadd (d a b : BitVec 6) (w : BitVec 1) (p : BitVec 3)
  /-- FSUB: Scalar floating subtract. (R359) -/
  | fsub (d a b : BitVec 6) (w : BitVec 1) (p : BitVec 3)
  /-- FMUL: Scalar floating multiply. (R359) -/
  | fmul (d a b : BitVec 6) (w : BitVec 1) (p : BitVec 3)
  /-- FFMA: Scalar fused multiply-add. (R359) -/
  | ffma (d a b : BitVec 6) (w : BitVec 1) (p : BitVec 3)
  /-- FDIV: Scalar floating divide. (R359) -/
  | fdiv (d a b : BitVec 6) (w : BitVec 1) (p : BitVec 3)
  /-- FSQRT: Scalar floating square root. (R359) -/
  | fsqrt (d a : BitVec 6) (w : BitVec 1) (p : BitVec 3)
  /-- FMIN: Scalar minimumNumber. (R359) -/
  | fmin (d a b : BitVec 6) (w : BitVec 1) (p : BitVec 3)
  /-- FMAX: Scalar maximumNumber. (R359) -/
  | fmax (d a b : BitVec 6) (w : BitVec 1) (p : BitVec 3)
  /-- FCVT: Scalar format conversion. (R359) -/
  | fcvt (d a : BitVec 6) (x y p : BitVec 3)
  -- F-CMP (op 0x31)
  /-- FCMPEQ: Scalar floating equality compare to predicate. (R360) -/
  | fcmpeq (q : BitVec 3) (a b : BitVec 6) (w : BitVec 1) (p : BitVec 3)
  /-- FCMPLT: Scalar floating less-than compare to predicate. (R360) -/
  | fcmplt (q : BitVec 3) (a b : BitVec 6) (w : BitVec 1) (p : BitVec 3)
  /-- FCMPLE: Scalar floating less-or-equal compare to predicate. (R360) -/
  | fcmple (q : BitVec 3) (a b : BitVec 6) (w : BitVec 1) (p : BitVec 3)
  -- SYS (op 0x38)
  /-- TRAP: Enter TVEC with code 0x20 and the immediate as subcode. (R381) -/
  | trap (e : BitVec 8) (p : BitVec 3)
  /-- ERET: Return from a trap to EPC after replaying deferred stores. (R386) -/
  | eret (p : BitVec 3)
  /-- BKPT: Enter TVEC with code 0x21 at the BKPT itself. (R381) -/
  | bkpt (p : BitVec 3)
  /-- SRR: Read a state register. (R381) -/
  | srr (d : BitVec 6) (r : BitVec 12) (p : BitVec 3)
  /-- SRW: Write a state register. (R93) -/
  | srw (d : BitVec 6) (r : BitVec 12) (p : BitVec 3)
  /-- SRS: Atomically set bits of a state register. (R93) -/
  | srs (d : BitVec 6) (r : BitVec 12) (p : BitVec 3)
  /-- SRC: Atomically clear bits of a state register. (R93) -/
  | src (d : BitVec 6) (r : BitVec 12) (p : BitVec 3)
  -- MAINT (op 0x39)
  /-- CFLUSH: Write back a line to its home or to DRAM. (R383) -/
  | cflush (a : BitVec 6) (l : BitVec 1) (p : BitVec 3)
  /-- CINV: Invalidate a line in the column cache. (R383) -/
  | cinv (a : BitVec 6) (p : BitVec 3)
  /-- CZERO: Store 256 zero bytes to a line. (R383) -/
  | czero (a : BitVec 6) (p : BitVec 3)
  /-- TLBI: Invalidate TLB entries of one page within a scope. (R390) -/
  | tlbi (a : BitVec 6) (s p : BitVec 3)
  /-- TLBI_ALL: Invalidate every TLB entry of the tenant within a scope. (R390) -/
  | tlbiAll (s p : BitVec 3)
  /-- XBSET: Set the execute-only boundary of the column. (R392) -/
  | xbset (s : BitVec 6) (p : BitVec 3)
  /-- WAYSET: Start a WPART transition of the span. (R394) -/
  | wayset (q : BitVec 3) (s : BitVec 6) (p : BitVec 3)
  /-- WFX: Wait for a monitor or a TIME deadline. (R396) -/
  | wfx (d t : BitVec 6) (p : BitVec 3)
  -- QUERY (op 0x3A)
  /-- FEAT: Return FEAT word 0, 1 or 2. (R296) -/
  | feat (d : BitVec 6) (w : BitVec 2) (p : BitVec 3)
  /-- TOPO: Return a fact about the tenant grid or the row's column. (R297) -/
  | topo (d s : BitVec 6) (p : BitVec 3)
  /-- IDR: Return an identity register of the row's RCB. (R298) -/
  | idr (d s : BitVec 6) (p : BitVec 3)
  /-- TIME: Return the column's cycle counter. (R299) -/
  | time (d : BitVec 6) (p : BitVec 3)
  -- Events: indivisible steps of the device that no word encodes (95)
  /-- START: CTL.CMD START makes a FREE, RETIRED, STOPPED or FAULTED row READY. (R90) -/
  | start
  /-- STOP: CTL.CMD STOP stops a row, ending a wait or closing it. (R90) -/
  | stop
  /-- REDIRECT: CTL.CMD REDIRECT sets PC from NEWPC and clears PROG. (R90) -/
  | redirect
  /-- KILL: CTL.CMD KILL retires a row and abandons its places. (R90) -/
  | kill
  /-- STEP: CTL.CMD STEP issues one group of a STOPPED row. (R90) -/
  | step
  /-- OUTSIDE_STORE: Outside store to a row's bytes or RCB, applied at an instruction boundary. (R87) -/
  | outsideStore
  /-- CONTROL_WINDOW_REFUSAL: A refusal or PAGE of a control-window store reaches the storing row at a later boundary. (R89) -/
  | controlWindowRefusal
  /-- ACTIVATION: The executor chooses a candidate and starts opening it into a free slot. (R250) -/
  | activation
  /-- ACTIVATION_COMPLETE: A row's activation completes and its quantum starts. (R251) -/
  | activationComplete
  /-- ROW_CLOSE_COMPLETE: A row's close completes and frees its slot and subarray group. (R251) -/
  | rowCloseComplete
  /-- QUANTUM_EXPIRY: The row's quantum expires and it is closed or its quantum restarts. (R252) -/
  | quantumExpiry
  /-- PRE_EMPTION: A higher-level candidate or contender makes the executor close a lower-level row. (R253) -/
  | preEmption
  /-- BUDGET_REFILL: Every 256 cycles each executor adds REFILL to its open rows' BUD up to CAP. (R96) -/
  | budgetRefill
  /-- BUDGET_CLOSURE: A row starved of budget is closed with WAITON 8 at its next boundary. (R96) -/
  | budgetClosure
  /-- WINDOW_SUM_CLEAR: The column's charge window sum is cleared every 256 cycles. (R96) -/
  | windowSumClear
  /-- DEFERRED_STORE_FAULT: A store whose walk faulted after it left the executor raises its fault at the next boundary. (R267) -/
  | deferredStoreFault
  /-- FAULT_QUEUE_APPEND: A posted fault record is appended to the tenant's fault ring when room exists. (R147) -/
  | faultQueueAppend
  /-- FAULT_RING_HEAD_REREAD: While a posting waits the device rereads HEAD at least every microsecond. (R393) -/
  | faultRingHeadReread
  /-- PAGE_WALK_COMPLETE: A page walk ends and returns its translation or fault to all merged requests. (R178) -/
  | pageWalkComplete
  /-- TLBI_COMPLETE: A TLBI completes after outstanding walks end and resumes covered suspended jobs. (R272) -/
  | tlbiComplete
  /-- REDUCTION_PERFORM: A reduction element is performed at its home ALU. (R229) -/
  | reductionPerform
  /-- REDUCTION_ACK: The home's acknowledgement of a reduction decrements the row's PEND. (R210) -/
  | reductionAck
  /-- HOME_OPERATION: The home performs an atomic, full/empty or hold operation in arrival order and answers. (R228) -/
  | homeOperation
  /-- PERFORMANCE_NOTICE: A field learns that writes of another field have performed and raises its FAV. (R224) -/
  | performanceNotice
  /-- PARKED_RELEASE_APPLY: A parked release is applied once the home's FAV covers its vector. (R225) -/
  | parkedReleaseApply
  /-- WRITE_BACK: A dirty sector is written back under its byte-dirty mask when evicted. (R113) -/
  | writeBack
  /-- LDFE_ANSWER_WAKE: The answer of a deferred LDFE reaches its row and makes it READY. (R315) -/
  | ldfeAnswerWake
  /-- WAKE: A hold succession wake-up makes a waiting row READY. (R156) -/
  | wake
  /-- MONITOR_FIRE: A write or exclusive grant to a monitored line clears ARMED and wakes the row. (R324) -/
  | monitorFire
  /-- JOINW_WAKE: A write to a join word wakes the JOINW row to reissue. (R357) -/
  | joinwWake
  /-- WFX_DEADLINE: The column's TIME reaches a WFX deadline and the row becomes READY. (R396) -/
  | wfxDeadline
  /-- WINDOW_FILL_WAKE: FILL reaches a waiting access's end and the row resumes. (R119) -/
  | windowFillWake
  /-- WAITP_WAKE: Completion of the predecessor launch wakes rows waiting in WAITP. (R259) -/
  | waitpWake
  /-- PLACE_ABANDONMENT: A killed, posted or reset row's places are abandoned at each home. (R159) -/
  | placeAbandonment
  /-- SPAWN_MESSAGE_ARRIVAL: A spawn message reaches the target spawn queue and is accepted or refused. (R144) -/
  | spawnMessageArrival
  /-- SPAWN_SERVE: The launch unit allocates a row for the head spawn message and starts it. (R257) -/
  | spawnServe
  /-- MIGRATION_PLACEMENT: The target column places a moving row and writes the directory's second entry. (R258) -/
  | migrationPlacement
  /-- LAUNCH_PLACEMENT: The management cores place a waiting launch once its resources are free. (R248) -/
  | launchPlacement
  /-- LAUNCH_ROW_START: The launch unit allocates, initialises and starts the launch's rows on a column. (R249) -/
  | launchRowStart
  /-- SUCCESSOR_ISSUE: The successor launch is issued on the first LHINT or at predecessor completion. (R259) -/
  | successorIssue
  /-- RETIREMENT_COUNT: A retired row's SHARE and join decrements are made once its stores performed and PEND is 0. (R205) -/
  | retirementCount
  /-- COLUMN_REPORT: A column whose SHARE reached 0 reports to its field. (R205) -/
  | columnReport
  /-- FIELD_REPORT: A field whose COLS reached 0 reports to the wafer. (R205) -/
  | fieldReport
  /-- NEIGHBOUR_PUSH_ARRIVAL: A neighbour push arrives and is applied or discarded at the target channel. (R134) -/
  | neighbourPushArrival
  /-- SECTOR_ARRIVAL: A sent sector is written into a receive window and FILL is raised. (R142) -/
  | sectorArrival
  /-- HALO_ARRIVAL: Completion of a HALO part at a neighbour increments its mailbox counter. (R209) -/
  | haloArrival
  /-- METADATA_ARRIVAL: A SENDQ entry joins a metadata queue, held while the queue is full. (R138) -/
  | metadataArrival
  /-- TARGET_ACKNOWLEDGEMENT: The target acknowledges a transfer's last sector and DONE is incremented. (R141) -/
  | targetAcknowledgement
  /-- JOB_START: An array starts its oldest accepted job when idle. (R137) -/
  | jobStart
  /-- TILE_COMPLETE: A job writes a finished tile to C and advances PROGW. (R187) -/
  | tileComplete
  /-- JOB_COMPLETION: The engine store-releases the job's status word to its mailbox. (R17) -/
  | jobCompletion
  /-- COMPLETION_NOTICE: A job's completion notice reaches its issuing row and updates its job list. (R369) -/
  | completionNotice
  /-- OPERAND_FAULT: A job's operand access faults and the job is suspended or ends FAULT. (R371) -/
  | operandFault
  /-- MXCAN_AT_COLUMN: A cancel reaches the accepting column and stops the job. (R375) -/
  | mxcanAtColumn
  /-- TLOCK_GRANT: The descriptor's home grants the tree lock to waiting requests. (R198) -/
  | tlockGrant
  /-- WALKER_REQUEST_COMPLETE: The walker finishes a request and store-releases its STATUS. (R197) -/
  | walkerRequestComplete
  /-- WALKER_REQUEST_START: The walker takes its next accepted request and asks for the tree lock. (R198) -/
  | walkerRequestStart
  /-- GATEWAY_BLOCK_ARRIVAL: A link block's sectors are written and its descriptor is queued. (R378) -/
  | gatewayBlockArrival
  /-- PEER_QUEUED: The peer has queued a GDONE descriptor and DONE is incremented. (R385) -/
  | peerQueued
  /-- PAIRING_COMPLETE: Both wafers complete an SPDM session and the link becomes paired. (R403) -/
  | pairingComplete
  /-- LINK_FAILURE: A stack-link failure ends pairing and discards unqueued transfers. (R403) -/
  | linkFailure
  /-- WPART_TRANSITION_COMPLETE: A span's way-partition transition completes its last step. (R116) -/
  | wpartTransitionComplete
  /-- WAY_WAKE_COMPLETE: A gated way finishes waking zero-filled. (R117) -/
  | wayWakeComplete
  /-- CORRECTED_ERROR: A corrected error is counted and may set SUSPECT. (R213) -/
  | correctedError
  /-- CECNT_EXPIRY: A corrected error leaves CECNT 2^30 cycles after it occurred. (R213) -/
  | cecntExpiry
  /-- COLUMN_RETIREMENT: Firmware retires a SUSPECT column at its tenant's next launch boundary. (R180) -/
  | columnRetirement
  /-- TESTER_WINDOW: The background tester quiesces a column's vertical bus. (R123) -/
  | testerWindow
  /-- FIELD_EVENT_POST: An event is posted to the field event queue when it has room. (R146) -/
  | fieldEventPost
  /-- THERMAL_SENSOR: A sensor crossing 105 or 95 degrees sets or clears THROT. (R409) -/
  | thermalSensor
  /-- MPLIM: Host write of the module power limit. (R408) -/
  | mplim
  /-- VCTL_RESET: VCTL.RESET starts a tenant reset. (R276) -/
  | vctlReset
  /-- VCTL_STOP: VCTL.STOP stops the tenant. (R273) -/
  | vctlStop
  /-- VCTL_START: VCTL.START restarts a stopped tenant. (R273) -/
  | vctlStart
  /-- TENANT_STOP_DRAIN: The tenant stop ends when no operation of the tenant remains in flight. (R273) -/
  | tenantStopDrain
  /-- TENANT_RESET_DRAIN: The reset proceeds once no operation of the tenant remains in flight, then zero-fills and posts TENANT_ABORT. (R276) -/
  | tenantResetDrain
  /-- FUNCTION_LEVEL_RESET: An FLR of a VF performs a tenant reset. (R386) -/
  | functionLevelReset
  /-- CQBELL: The host rings the doorbell and the device reads the command ring's TAIL. (R393) -/
  | cqbell
  /-- HOST_LAUNCH: Host command LAUNCH checks and places a launch record copy. (R394) -/
  | hostLaunch
  /-- HOST_CANCEL: Host command CANCEL cancels a level of an id. (R394) -/
  | hostCancel
  /-- COUNTER: Host command that creates a graph, phase or job counter. (R394) -/
  | counter
  /-- SEAL: Host command that drops the creator's hold on a counter. (R394) -/
  | seal
  /-- LOAD: Host command that selects or translates variants and loads a code object. (R401) -/
  | load
  /-- MQBELL: The host rings the management doorbell and the device reads its ring TAIL. (R398) -/
  | mqbell
  /-- CREATE: Management command that creates a tenant. (R398) -/
  | create
  /-- REPART: Management command that changes a stopped tenant's partition. (R398) -/
  | repart
  /-- SWAPOUT: Management command that saves a stopped tenant and frees its columns. (R398) -/
  | swapout
  /-- SWAPIN: Management command that restores a swapped tenant. (R398) -/
  | swapin
  /-- REMOVE: Management command that removes a tenant. (R398) -/
  | remove
  /-- HOSTWIN: Management command that sets a tenant's host window. (R398) -/
  | hostwin
  /-- PAIR: Management command that pairs a stack link for a tenant. (R398) -/
  | pair
  /-- UNPAIR: Management command that ends a link's pairing. (R398) -/
  | unpair
  /-- REINSTATE: Management command that re-tests and reinstates a retired column. (R410) -/
  | reinstate
  /-- HOST_HDM_ACCESS: A host read or write through an HDM window. (R388) -/
  | hostHdmAccess
  /-- DOE_SPDM_REQUEST: An SPDM request over the DOE mailbox is answered. (R405) -/
  | doeSpdmRequest
  /-- REGISTER_WRITE: A host write to a BAR0 register or tenant-record field without behaviour of its own. (R390) -/
  | registerWrite
  /-- POWER_UP: Power is applied and the device boots and wakes its columns in order. (R407) -/
  | powerUp
  /-- ILLEGAL_ENCODING: Issue of a word that encodes no instruction: a reserved major opcode, an unassigned selector, or a hint of kind 5-7. (R57) -/
  | illegalEncoding
  /-- KILN_TRANSLATION_COMPLETE: The kiln finishes translating a kernel's portable form and LOAD continues or is refused with REASON 3. (R401) -/
  | kilnTranslationComplete
  /-- PAIRING_END: Pairing of a stack link ends because the peer wafer's tenant is reset or the peer unpairs. (R403) -/
  | pairingEnd
  /-- HOST_LINK_TRAINING: The CXL host link trains, falling back to a narrower width or lower rate as needed. (R386) -/
  | hostLinkTraining
  deriving DecidableEq, Repr

end Sys2Proof
end

