-- ==== Sys2Proof/Machine/State.lean ====
section
/-! DEFINITION. The state of the W4: rows, executors, columns, spans, fields, tenants, the wafer, memories, everything in
flight between them, and the model's own fields (which agent moves next, the time). Everything is plain data. -/

namespace Sys2Proof.Machine

/-- Why the machine itself stops. The faults of a row (R261) are no faults of the machine: they are taken (R263). -/
inductive Fault where
  /-- Raised by an instruction word that is executed while the seat names no open row: no executor issues such a word.
  Safe: only states that the model's own fields make inconsistent reach it. -/
  | noOpenRow
  deriving DecidableEq, Repr

/-- Why the model gives no meaning. -/
inductive Refusal where
  /-- Raised by `exec` for an instruction that has no meaning yet. Safe: nothing is claimed of it. -/
  | notModelled (mnemonic : String)
  deriving DecidableEq, Repr

/-- A row of a tenant: the tenant and the tenant-local row id (R88). -/
structure RowKey where
  t : BitVec 4
  n : BitVec 32
  deriving DecidableEq, Repr

/-- The number a row is filed under. -/
def RowKey.key (k : RowKey) : Nat := k.t.toNat * 2 ^ 32 + k.n.toNat

/-- CTL.STATE (R88): 0 FREE, 1 READY, 2 OPEN, 3 WAITING, 4 STOPPED, 5 FAULTED, 6 MOVING, 7 RETIRED. -/
inductive RowSt where
  | free | ready | open_ | waiting | stopped | faulted | moving | retired
  deriving DecidableEq, Repr

/-- The commands of CTL.CMD (R90). -/
inductive Cmd where
  | start | stop | redirect | kill | step
  deriving DecidableEq, Repr

/-- A monitor: the line watched and ARMED (R88, R324). -/
structure Mon where
  line : BitVec 40
  armed : Bool
  deriving DecidableEq, Repr

/-- A fault before its record is completed (R262): code, subcode, class, the flags DEFER and WRITE, addresses. -/
structure FaultInfo where
  code : BitVec 8
  sub : BitVec 8
  cls : BitVec 3
  write : Bool
  defer : Bool
  ipc : BitVec 32
  cpc : BitVec 32
  addr : BitVec 64
  opRec : BitVec 64
  prog : BitVec 32
  job : BitVec 16
  deriving DecidableEq, Repr

/-- What a CACHEX hint changes of an access (R58): the level it names (0 as page, 1 CS, 2 SO, 3 NC), whether its stores
write through, and the eviction priority it names. -/
structure CacheHint where
  lvl : Nat
  wt : Bool
  ep : Option Nat
  deriving DecidableEq, Repr

/-- The arithmetic of atomics and reductions (R311-R314). -/
inductive AOp where
  | add | min | max | and | or | xor | swap | cas | fadd | bf16add
  deriving DecidableEq, Repr

/-- The kind of place a physical address names, with its offset there (R104-R109, R389). -/
inductive Loc where
  | dram (pa : Nat)
  | aperture (pa : Nat)
  | host (h : Nat)
  | scratch (off : Nat)
  | spanScratch (off : Nat)
  | code (off : Nat)
  | rcb (k : RowKey) (off : Nat)
  | rowSpace (k : RowKey) (off : Nat)
  deriving DecidableEq, Repr

/-- The leaf attributes of a translation (R107, R176). -/
structure Attr where
  w : Bool
  sup : Bool
  lvl : BitVec 2
  wt : Bool
  ep : BitVec 2
  mot : Bool
  cw : Bool
  x : Bool
  deriving DecidableEq, Repr

/-- What an access makes of its line in the span cache of the home (R58, R107, R112, R114): an NC line does not stay there;
any other keeps the higher of its priority and this one. -/
structure Keep where
  nc : Bool
  prio : Nat
  deriving DecidableEq, Repr

/-- What an early store is when its walk ends (R240, R302): a plain store, a store-release of a scope, or a scalar reduction,
a release where `rel`, of a scope. -/
inductive EarlyKind where
  | plain
  | release (scope : Nat)
  | reduce (op : AOp) (rel : Bool) (scope : Nat)
  deriving DecidableEq, Repr

/-- How the group that a row stands inside takes an interruption (R255): the row stands before its next group; a restartable
one is abandoned; a progressive one ends where it is; any other is waited for. -/
inductive Mid where
  | none | restart | units | held
  deriving DecidableEq, Repr

/-- A store or scalar reduction whose walk is outstanding or faulted: its place in program order, what it is, its group,
virtual address and bytes, its hint, the vector that a release has left with (R225), the page whose walk it waits for (R178),
whether that walk has ended and the store waits for its row (R107, R119), the code and subcode of a fault not yet
raised, and, once it has been raised, the last place in program order before it was (R240, R267, R302). -/
structure EarlyStore where
  seq : Nat
  kind : EarlyKind
  ipc : BitVec 32
  va : BitVec 64
  data : List Byte
  sup : Bool
  hint : CacheHint
  vec : Vector (BitVec 32) 12
  page : Nat
  due : Bool
  fault : Option (BitVec 8 × BitVec 8)
  till : Option Nat
  deriving DecidableEq, Repr

/-- The state of a job ticket on a row's job list (R369). -/
inductive TicketSt where
  | running | done | faulted
  deriving DecidableEq, Repr

/-- An entry of a row's job list (R369): its ticket, the column that accepted the job, its state, its status word, the
fault it left pending (R268), and the vector of the mailbox's release (R236). -/
structure Ticket where
  ticket : BitVec 32
  site : BitVec 10
  st : TicketSt
  status : BitVec 64
  fault : Option FaultInfo
  vec : Vector (BitVec 32) 12
  deriving DecidableEq, Repr

/-- A row (`bad`: the 8-byte words of its bytes that hold an uncorrected error, R270): its bytes, its control block (R88) and the hidden state the spec names. `monPa` holds the physical line each
monitor is registered for at its home (R324); `await` the address of the next group of a row that keeps its slot and
awaits an answer (R255); `replayDue` that its replay list is to be made before its next
group (R267); `jobWait` the ticket that a row with WAITON 3 waits for, none for a HALT (R322, R373); `stepper` the row whose STEPX steps it, with the destination register (R334); `move` the target site of a MOVING row (R258);
`run` the hint words of its group that have issued (R52); `mid` how the group it stands inside takes an interruption (R255), and `walked` the pages whose walks it has waited for and that
ended in a fault, with its number (R272); `again` the words of a group that has issued and is tried again, as they were fetched (R57, R392), `gbase` the base of
a gather that stands between its elements (R308), `mxs` the ticket of the job that an MXS has had accepted (R255); `ahead` the
places of DRAM, with their bytes, whose value a later relaxed load of the row has fixed already (R218, R219, R220); `vecs` the vectors of the store-releases that its words hold, by the word: row bytes,
then the RCB (R224);
`inGroup` that an open row stands inside a progressive group of which units are done (R255); `issueAt` the first cycle in which
it may issue again (R21). -/
structure Row where
  g : Vector DWord 64
  work : Memory
  priv : Bool
  pri : BitVec 2
  st : RowSt
  waiton : BitVec 32
  pc : BitVec 32
  newpc : BitVec 32
  pred : BitVec 8
  fmt : BitVec 9
  exc : BitVec 6
  prog : BitVec 32
  epc : BitVec 32
  cause : BitVec 16
  bud : BitVec 32
  pend : BitVec 7
  mon : Vector Mon 4
  monPa : Vector Nat 4
  launch : BitVec 32
  rowid : BitVec 32
  lx : BitVec 16
  ly : BitVec 16
  gridw : BitVec 16
  gridh : BitVec 16
  ext0 : BitVec 32
  ext1 : BitVec 32
  base0 : BitVec 32
  base1 : BitVec 32
  timeout : BitVec 32
  tailpc : BitVec 32
  frec : BitVec 64
  dv : Vector (BitVec 32) 12
  trapact : Bool
  replay : List EarlyStore
  replayDue : Bool
  early : List EarlyStore
  deferred : List FaultInfo
  join : BitVec 48
  predid : BitVec 32
  tickets : List Ticket
  countCol : BitVec 10
  readyAt : Nat
  pass : Nat
  hold : BitVec 32
  joinw : Option Nat
  jobWait : Option (BitVec 32)
  fill : Option (BitVec 3 × Nat)
  deadline : Option DWord
  move : Option (BitVec 10)
  await : Option (BitVec 32)
  held : List Cmd
  stepping : Bool
  stepper : Option (RowKey × BitVec 6)
  stoppedByTenant : Bool
  bad : List Nat
  run : List Word
  mid : Mid
  walked : List (Nat × Nat)
  again : List Word
  gbase : Option DWord
  mxs : Option (BitVec 32)
  ahead : List (Nat × List Byte)
  vecs : NMap (Vector (BitVec 32) 12)
  inGroup : Bool
  issueAt : Nat
  deriving DecidableEq, Repr

/-- The phase of a slot (R245, R251); `reserved` holds it for a gang member whose activation is still to come (R256). -/
inductive Phase where
  | reserved | opening | open_ | closing
  deriving DecidableEq, Repr

/-- An open-row slot of an executor (R13, R250-R254): its row, phase, the subarray group it holds, the level it was
opened with, when its quantum began (R252), when its row was opened (R253), whether the row's next word awaits a result (R254), since
when it has been passed over for want of budget and whether a refill has decided its closure (R96), and whether its quantum or
a pre-emption has, for the row's next boundary (R252, R253, R256). -/
structure Slot where
  row : RowKey
  phase : Phase
  group : BitVec 4
  level : BitVec 2
  openAt : Nat
  openedAt : Nat
  late : Bool
  starvedAt : Option Nat
  closeDue : Bool
  expired : Bool
  deriving DecidableEq, Repr

/-- A valid bind record (R170), with the cycle from which the quantum of its gang is counted, once that has begun (R256). -/
structure Bind where
  lnch : BitVec 32
  tenant : BitVec 4
  pri : BitVec 2
  gang : Bool
  quant : BitVec 8
  age : BitVec 8
  gsize : BitVec 8
  nbound : BitVec 16
  since : Option Nat
  deriving DecidableEq, Repr

/-- An executor (R13): its slots, its slot table (R170), the group of the previous activation (R250), the times of its
last activations (R251), the slot that issued last and the first cycle in which it may issue again (R254), the
slots of a pre-emption close in progress (R253), and when its next refill falls (R96). -/
structure Exec where
  slots : Vector (Option Slot) 8
  binds : List Bind
  last : BitVec 4
  acts : List Nat
  lastSlot : BitVec 3
  issueAt : Nat
  preempting : List (BitVec 3)
  refillAt : Nat
  deriving DecidableEq, Repr

/-- A channel (R131): state word, binding and control bits. -/
structure Chan where
  head : BitVec 9
  tail : BitVec 9
  count : BitVec 10
  bound : Bool
  lnch : BitVec 32
  ctl : BitVec 512
  deriving DecidableEq, Repr

/-- A line of a column cache (R112, R113): its number (an address divided by 256), the bytes it holds as a memory of 256
addresses, valid sectors, the addresses of its dirty bytes, the bytes of poisoned sectors that have not been overwritten since
(R270), priority, recency. -/
structure CLine where
  line : Nat
  data : Memory
  valid : BitVec 8
  dirty : List Nat
  bad : List Nat
  prio : Nat
  used : Nat
  deriving DecidableEq, Repr

/-- A line tag of a span cache (R114): the data stand once, at the home (log entry 8, DEDUCED). -/
structure SLine where
  line : Nat
  dirty : Bool
  prio : Nat
  used : Nat
  deriving DecidableEq, Repr

/-- A TLB entry (R179): whether it stands among the 64 entries of any page size, its tenant, the page's base, its size as a
power of two, its frame and attributes. -/
structure TlbEntry where
  any_ : Bool
  t : BitVec 4
  vbase : Nat
  lg : Nat
  frame : Nat
  attr : Attr
  deriving DecidableEq, Repr

/-- The state of a matrix job (R137, R187, R371). -/
inductive JobSt where
  | queued | running | suspended | finished
  deriving DecidableEq, Repr

/-- A job record (R186) with its ticket, the record's bytes 0x00-0x2F once the job has started (R362), the flags of its
status word from NV at bit 0 to BADMETA at bit 5 (R368), whether the access that faulted was a write, the metadata entries
kept for the tile in progress (R366), the supervisor right it runs with, the vector of its acceptance (R236), and the pages whose
walks it has waited for and that ended in a fault, with its number (R272). -/
structure Job where
  id : BitVec 16
  ticket : BitVec 32
  mode : BitVec 2
  acc : Bool
  defer : Bool
  cancel : Bool
  row : RowKey
  ipc : BitVec 32
  fmtcap : BitVec 9
  opRec : BitVec 64
  mbox : BitVec 64
  progw : BitVec 32
  fcode : BitVec 32
  faddr : BitVec 64
  fwrite : Bool
  opsnap : BitVec 128
  sup : Bool
  st : JobSt
  oprec : List Byte
  flags : BitVec 6
  kept : List (BitVec 128)
  vec : Vector (BitVec 32) 12
  walked : List (Nat × Nat)
  deriving DecidableEq, Repr

/-- What a transfer of the copy unit is (R141, R209, R385): into a receive window, into a metadata queue, or borders into the
windows of the neighbours. -/
inductive SendKind where
  | window (k : BitVec 3)
  | metadata (q : BitVec 2)
  | halo (k : BitVec 3)
  deriving DecidableEq, Repr

/-- A sector on its way to a column: the target's site, the offset in its window, and the bytes. -/
structure Sector where
  target : BitVec 10
  off : Nat
  data : List Byte
  deriving DecidableEq, Repr

/-- The part of a HALO that goes to one neighbour (R143): the neighbour's site and the mailbox counter of its direction. -/
structure HaloPart where
  target : BitVec 10
  counter : BitVec 2
  deriving DecidableEq, Repr

/-- A transfer held by a copy unit (R141): its row, its kind, the sectors and the parts of a HALO still to arrive, the
physical address of the DONE word, and the vector of the release on it. -/
structure Send where
  row : RowKey
  kind : SendKind
  sectors : List Sector
  parts : List HaloPart
  done : Option (Nat × Keep)
  vec : Option (Vector (BitVec 32) 12)
  deriving DecidableEq, Repr

/-- A spawn message (R144), with the row that sent it, the address behind its group and its place in program order, and whether
its wait at the head of the queue has been posted. -/
structure SpawnMsg where
  src : RowKey
  next : BitVec 32
  seq : Nat
  pc : BitVec 32
  tenant : BitVec 4
  ccol : BitVec 10
  lnch : BitVec 32
  join : BitVec 48
  args : List DWord
  dv : Vector (BitVec 32) 12
  predid : BitVec 32
  target : BitVec 10
  pd : BitVec 3
  posted : Bool
  deriving DecidableEq, Repr

/-- A completion entry (R205). -/
structure Comp where
  t : BitVec 4
  lnch : BitVec 32
  count : BitVec 18
  cancelled : Bool
  deriving DecidableEq, Repr

/-- A descriptor of the gateway block queue (R378, R383). -/
structure Block where
  desc : List Byte
  deriving DecidableEq, Repr

/-- A block on its way to the peer gateway (R385): the row that sent it, its tag, the destination window and offset there,
its bytes, the physical address of the DONE word and the vector of the release on it. -/
structure GateSend where
  row : RowKey
  tag : BitVec 32
  win : BitVec 3
  off : Nat
  data : List Byte
  done : Option (Nat × Keep)
  vec : Vector (BitVec 32) 12
  deriving DecidableEq, Repr

/-- A column: registers (R95), memories, tables, queues and executors. `badScratch` and `badCode` list the 8-byte words of
the scratchpad and of the code store that hold an uncorrected error (R270); `clearAt` is when the window sum is cleared
next (R96). -/
structure Column where
  owner : Option (BitVec 4)
  suspect : Bool
  xb : BitVec 17
  chg : BitVec 32
  bref : BitVec 16
  bcap : BitVec 16
  pcap : BitVec 16
  wmk : Vector (BitVec 18) 8
  mb : Vector (BitVec 32) 4
  testpre : BitVec 32
  cecnt : BitVec 32
  cethr : BitVec 32
  ceTimes : List Nat
  badScratch : List Nat
  badCode : List Nat
  winSum : BitVec 32
  clearAt : Nat
  scratch : Memory
  code : Memory
  cache : List CLine
  tlb : List TlbEntry
  chans : Vector Chan 16
  arr : Vector (BitVec 512) 8
  jobs : List Job
  jobCtr : BitVec 16
  mq : Vector (List (BitVec 128)) 4
  mqHeld : Vector (List (BitVec 128)) 4
  sends : List Send
  spawnq : List SpawnMsg
  comp : List Comp
  gateq : List Block
  gateOut : List GateSend
  skew : BitVec 64
  execs : Vector Exec 8
  deriving DecidableEq, Repr

/-- A place link record (R151). -/
structure Place where
  prev : BitVec 16
  next : BitVec 16
  owner : BitVec 32
  gen : BitVec 9
  st : BitVec 2
  tenant : BitVec 4
  obj : BitVec 38
  deriving DecidableEq, Repr

/-- A deferred LDFE in the futures deferral buffer (R145), with its scope (R60) and the address of the group after it. -/
structure Deferral where
  row : RowKey
  pa : Nat
  rd : BitVec 6
  pd : BitVec 3
  scope : Nat
  next : BitVec 32
  deriving DecidableEq, Repr

/-- Who waits for the result of a page walk (R178, R272): a row with its group, or a matrix job of a column. -/
inductive Asker where
  | row (k : RowKey)
  | job (site : BitVec 10) (id : BitVec 16)
  deriving DecidableEq, Repr

/-- A page walk outstanding at the walker of a span (R178): the requests merged into it, whose stores are on their rows, and
the columns they come from; and those who wait for its result, with their columns and the addresses that they asked for. -/
structure Walk where
  t : BitVec 4
  va : Nat
  rows : List RowKey
  sites : List (BitVec 10)
  loads : List (Asker × BitVec 10 × Nat)
  dropped : Bool
  deriving DecidableEq, Repr

/-- What a walker request does (R196). -/
inductive WalkOp where
  | kwalk | kapnd | ksum
  deriving DecidableEq, Repr

/-- What a walker request writes last (R197): the place of STATUS where DST translates, with what its page makes of its line
at the home, and its word. -/
structure WFin where
  pa : Option (Loc × Keep)
  word : BitVec 32
  deriving DecidableEq, Repr

/-- A walker request (R139, R202): its kind, its row, the addresses given, the record's DST, the vectors copied, the
thresholds captured (R100), the physical address of the descriptor, when it asked for the tree lock and whether it holds it
(R198), the vector of the releases it follows, and, once its work is done, the STATUS it still has to write. -/
structure WReq where
  op : WalkOp
  row : RowKey
  reqVa : BitVec 64
  descVa : BitVec 64
  dst : BitVec 48
  key : List (BitVec 16)
  val : List (BitVec 16)
  ota : BitVec 32
  otf : BitVec 32
  otcfg : BitVec 32
  sup : Bool
  pa : Nat
  asked : Nat
  granted : Bool
  vec : Vector (BitVec 32) 12
  fin : Option WFin
  deriving DecidableEq, Repr

/-- The walker statistics of a tenant at one span (R432); the wait for tree locks is counted in cycles. -/
structure WStats where
  accept : BitVec 32
  refuse : BitVec 32
  tested : BitVec 32
  summed : BitVec 32
  keys : BitVec 32
  appends : BitVec 32
  lockCycles : Nat
  deriving DecidableEq, Repr

/-- A span: registers (R97), cache tags, scratchpad, place pool, walker and buffers; `walkq` who found 64 walks
outstanding, in arrival order (R178). -/
structure Span where
  wpart : BitVec 4
  trans : Option (BitVec 4)
  transRow : Option RowKey
  rbase : Vector (BitVec 28) 8
  rlimit : Vector (BitVec 28) 8
  rfmt : Vector (BitVec 2) 8
  lines : List SLine
  scratch : Memory
  pool : NMap Place
  bad : List Nat
  defers : List Deferral
  wq : List WReq
  wcur : Option WReq
  walks : List Walk
  walkq : List Asker
  gated : BitVec 16
  waking : BitVec 16
  deriving DecidableEq, Repr

/-- An entry of a field event queue (R146). -/
structure FieldEvent where
  kind : BitVec 8
  t : BitVec 4
  site : BitVec 10
  id : BitVec 32
  deriving DecidableEq, Repr

/-- A field: its applied vector (R99), its departure number and the departures not yet performed (R224), its event queue
and the events waiting for room (R146), and its completion table (R205). -/
structure Field where
  fav : Vector (BitVec 32) 12
  dep : BitVec 32
  outst : List (BitVec 32)
  evq : List FieldEvent
  evWait : List FieldEvent
  comp : List Comp
  deriving DecidableEq, Repr

/-- TenantSt of the tenant record: 0 absent, 1 active, 2 stopped, 3 resetting, 4 swapped out (R182). -/
inductive TenantSt where
  | absent | active | stopped | resetting | swapped
  deriving DecidableEq, Repr

/-- The phase of a launch (R247-R249, R259). -/
inductive LaunchPhase where
  | waiting | placed | complete
  deriving DecidableEq, Repr

/-- A cell of a launch with the column, the bank and, for a member of a gang, the subarray group that it is placed on (R248). -/
structure Cell where
  c : Nat
  site : BitVec 10
  bank : BitVec 3
  group : Option (BitVec 4)
  deriving DecidableEq, Repr

/-- A launch of a tenant: its id, the 192 bytes of its record, its phase, whether it is cancelled, the predecessor whose
id its rows carry, whether an LHINT has reached the management cores and whether the successor has been issued (R259), the
grid numbering and the number of columns in service of its placement (R181, R297), the cells whose rows have not been started yet, the supervisor right with which
SUCC is read, and the vector of the release that its acceptance is (R349). -/
structure Launch where
  id : BitVec 32
  record : List Byte
  phase : LaunchPhase
  cancelled : Bool
  predid : BitVec 32
  hinted : Bool
  succIssued : Bool
  grid : List (BitVec 10)
  wcols : Nat
  todo : List Cell
  sup : Bool
  vec : Vector (BitVec 32) 12
  deriving DecidableEq, Repr

/-- A graph, phase or job counter (R204, R205, R394): its level (1 graph, 2 phase, 3 job), id, count, owner one level up,
whether its creator still holds it, and the completion word and tag of its WATCH. -/
structure Ctr where
  level : BitVec 2
  id : BitVec 32
  count : BitVec 32
  parent : BitVec 32
  held : Bool
  watch : BitVec 64
  ctag : BitVec 16
  deriving DecidableEq, Repr

/-- A code object being loaded (R401, R402): the command's bytes, and the images of the kernels before the one whose
translation the kiln has in hand. -/
structure Loading where
  cmd : List Byte
  images : List (List Byte)
  deriving DecidableEq, Repr

/-- What a swapped tenant's image holds of a column (R274): its site, and of its registers, memories and tables the saved ones. -/
structure ColImage where
  site : BitVec 10
  xb : BitVec 17
  wmk : Vector (BitVec 18) 8
  mb : Vector (BitVec 32) 4
  arr : Vector (BitVec 512) 8
  scratch : Memory
  code : Memory
  chans : Vector Chan 16
  jobs : List Job
  jobCtr : BitVec 16
  binds : List (List Bind)
  comp : List Comp
  spawnq : List SpawnMsg
  mq : Vector (List (BitVec 128)) 4
  mqHeld : Vector (List (BitVec 128)) 4
  deriving DecidableEq, Repr

/-- What it holds of a span: its scratchpad and WPART where the tenant owned it wholly, and the tenant's place records with
their pool indices. -/
structure SpanImage where
  span : BitVec 7
  whole : Bool
  wpart : BitVec 4
  scratch : Memory
  places : NMap Place
  deriving DecidableEq, Repr

/-- The image of a swapped tenant (R274): the serial number that names the free bytes it was written as, its size, its rows
with their hidden state, its directory, its columns and spans, and its entries of the wafer's completion table. -/
structure SwapImage where
  serial : Nat
  size : Nat
  rows : NMap Row
  dir : List (BitVec 32 × BitVec 64)
  cols : List ColImage
  spans : List SpanImage
  wcomp : List Comp
  deriving DecidableEq, Repr

/-- A tenant: its registers (R100), its record (R182), its VF's rings and errors (R390-R393), its host window (R398), its
launches and counters; `key` is the serial number of its key (R398), `image` what SWAPOUT saved (R274), `removing` that a
REMOVE waits for the reset, `kilnUsed` where in its kiln cache region images have been written and how many bytes (R184, R185). -/
structure Tenant where
  fpol : BitVec 8
  tvec : BitVec 32
  ovec : BitVec 32
  tailvec : BitVec 32
  cwbase : BitVec 48
  ota : BitVec 32
  otf : BitVec 32
  otcfg : BitVec 32
  st : TenantSt
  keyslot : BitVec 8
  ptbase : BitVec 44
  dirbase : BitVec 44
  dirsize : BitVec 29
  partmap : BitVec 44
  kcbase : BitVec 44
  kcsets : BitVec 16
  nextLnch : BitVec 32
  cqbase : BitVec 64
  fqbase : BitVec 64
  verr : BitVec 6
  verraddr : BitVec 64
  hiend : BitVec 17
  hwbase : BitVec 64
  hwlimit : BitVec 64
  hwen : Bool
  cols : List (BitVec 10)
  launches : List Launch
  ctrs : List Ctr
  wstats : NMap WStats
  cmds : List (List Byte)
  loading : Option Loading
  fqFull : Bool
  fqWait : List (List Byte)
  stopping : Bool
  resetStep : BitVec 3
  partial_ : Bool
  key : Nat
  image : Option SwapImage
  removing : Bool
  kilnUsed : List (Nat × Nat)
  deriving DecidableEq, Repr

/-- An agent whose outside access reaches a row (R87, R89, R233). -/
inductive Agent where
  | row (k : RowKey) (ipc : BitVec 32) (va : BitVec 64)
  | core
  | host (t : BitVec 4)
  deriving DecidableEq, Repr

/-- An outside store on its way to a row's port (R87): the target, RCB space or row space, offset, bytes, who stores, with
supervisor right or not, whether it is a release and its vector where that leaves the field (R225, R233), its departure number
(R224), and its place in its row's program order (R220). -/
structure Outside where
  row : RowKey
  seq : Nat
  rel : Bool
  rcb : Bool
  off : Nat
  data : List Byte
  agent : Agent
  sup : Bool
  vec : Option (Vector (BitVec 32) 12)
  num : Option (BitVec 4 × BitVec 32)
  deriving DecidableEq, Repr

/-- A refusal or PAGE decided at the target of a control-window store, on its way back (R89). -/
structure Refused where
  row : RowKey
  code : BitVec 8
  sub : BitVec 8
  ipc : BitVec 32
  va : BitVec 64
  deriving DecidableEq, Repr

/-- A reduction element on its way to its home (R229): the row, whether its acknowledgement counts against the row's PEND
(not for the decrements and increments that units make, R208, R141), the operation, its size, its address, whether that
is a span-scratchpad offset of span `span`, its operand, whether it is a release, its vector when it is one at WAFER or SYSTEM
scope, its departure number, the place in program order of the operation it belongs to and the number of elements that
operation had (R220, R277), and what it makes of its line (R303). -/
structure Red where
  row : RowKey
  counted : Bool
  op : AOp
  size : Nat
  pa : Nat
  scratch : Bool
  span : BitVec 7
  val : DWord
  rel : Bool
  vec : Option (Vector (BitVec 32) 12)
  num : Option (BitVec 4 × BitVec 32)
  seq : Nat
  count : Nat
  keep : Keep
  deriving DecidableEq, Repr

/-- The home operations that are releases (R217, R158): a returning atomic, STFE, and the hold operations HGIVE, HABAN and
HREL of a holder place. -/
inductive HomeDo where
  | atom (op : AOp) (size : Nat) (scratch : Bool) (pa : Nat) (v new : DWord) (rd : BitVec 6) (f32 acq : Bool)
  | stfe (pa : Nat) (v : DWord) (pd : BitVec 3)
  | hgive (h r : BitVec 32) (pd : BitVec 3)
  | hrel (h : BitVec 32)
  deriving DecidableEq, Repr

/-- A home operation parked at its home until its release may become visible (R225, R228); its row awaits the answer, behind
which it goes on at `pc`. Its place in program order, its scope, what it makes of its line, its vector at WAFER or SYSTEM
scope and its departure number. -/
structure HomeOp where
  row : RowKey
  seq : Nat
  scope : Nat
  keep : Keep
  pc : BitVec 32
  home : BitVec 7
  op : HomeDo
  vec : Option (Vector (BitVec 32) 12)
  num : Option (BitVec 4 × BitVec 32)
  deriving DecidableEq, Repr

/-- A store-release parked at its home (R225, R316): its row, its place in program order, the column it left, its place with
the attributes and the hint of the access, its bytes, its vector at WAFER or SYSTEM scope, and its departure number. -/
structure Parked where
  row : RowKey
  seq : Nat
  site : BitVec 10
  loc : Loc
  attr : Attr
  hint : CacheHint
  data : List Byte
  vec : Option (Vector (BitVec 32) 12)
  num : Option (BitVec 4 × BitVec 32)
  deriving DecidableEq, Repr

/-- A hold wake-up (R156). -/
structure HoldWake where
  row : RowKey
  handle : BitVec 32
  deriving DecidableEq, Repr

/-- The answer of a deferred LDFE (R315), from the word at `pa`, an acquire at its scope. -/
structure LdfeAns where
  row : RowKey
  pa : Nat
  value : DWord
  rd : BitVec 6
  pd : BitVec 3
  scope : Nat
  next : BitVec 32
  vec : Option (Vector (BitVec 32) 12)
  deriving DecidableEq, Repr

/-- A monitor firing on its way to its row (R324). -/
structure Fire where
  row : RowKey
  k : BitVec 2
  line : BitVec 40
  deriving DecidableEq, Repr

/-- The abandonment of a row's places at one span's home (R159). -/
structure Abandon where
  row : RowKey
  span : BitVec 7
  deriving DecidableEq, Repr

/-- A neighbour push in flight (R134): its row, the address behind its group, its place in program order, target column, channel, value, control bit and predicate, the row's launch,
whether the channel was bound at issue, and the vector of the release where the target lies in another field. -/
structure Push where
  row : RowKey
  next : BitVec 32
  seq : Nat
  target : BitVec 10
  ch : BitVec 4
  value : DWord
  ctl : Bool
  pd : BitVec 3
  lnch : BitVec 32
  bound : Bool
  vec : Option (Vector (BitVec 32) 12)
  deriving DecidableEq, Repr

/-- A completion notice on its way to the issuing row (R369), with the vector of the mailbox's release. -/
structure JobNote where
  row : RowKey
  ticket : BitVec 32
  site : BitVec 10
  status : BitVec 64
  fault : Option FaultInfo
  vec : Vector (BitVec 32) 12
  deriving DecidableEq, Repr

/-- A cancel on its way to the accepting column (R375). -/
structure MxCancel where
  site : BitVec 10
  row : RowKey
  job : BitVec 16
  pd : BitVec 3
  deriving DecidableEq, Repr

/-- A request for a tree lock at its descriptor's home (R198). -/
structure LockReq where
  span : BitVec 7
  pa : Nat
  exclusive : Bool
  deriving DecidableEq, Repr

/-- A retired row's decrements still to be made (R205, R208, R210). -/
structure Retire where
  row : RowKey
  site : BitVec 10
  lnch : BitVec 32
  join : BitVec 48
  sup : Bool
  deriving DecidableEq, Repr

/-- A TLBI outstanding (R272, R390): who issued it, whether one page or all, the scope. -/
structure TlbiOp where
  row : RowKey
  va : Option Nat
  scope : BitVec 3
  site : BitVec 10
  deriving DecidableEq, Repr

/-- The pairing that a PAIR command waits for (R398, R403): its tenant, its completion word and its tag. -/
structure Pairing where
  t : BitVec 4
  cpl : BitVec 64
  ctag : BitVec 16
  deriving DecidableEq, Repr

/-- A stack link (R375, R378, R403): its gateway column, the tenant it is paired for, the session in progress, and SEQ, the
number of blocks arrived. -/
structure Link where
  site : BitVec 10
  paired : Option (BitVec 4)
  pairing : Option Pairing
  seq : BitVec 32
  deriving DecidableEq, Repr

/-- A host access through an HDM window (R388): direction, host physical address, number of bytes, bytes written. -/
structure HostAccess where
  wr : Bool
  hpa : BitVec 64
  size : Nat
  data : List Byte
  deriving DecidableEq, Repr

/-- Where an event of the device falls (log entry 1, DESIGN CHOICE): the choice that an event's rule leaves to the order of agents.
Each event reads the fields its rule needs. -/
structure Sel where
  t : BitVec 4
  n : BitVec 32
  site : BitVec 10
  bank : BitVec 3
  slot : BitVec 3
  span : BitVec 7
  field : BitVec 4
  line : BitVec 36
  lnch : BitVec 32
  q : BitVec 2
  arr : Bool
  link : BitVec 5
  way : BitVec 4
  deg : BitVec 8
  v : BitVec 64
  off : BitVec 12
  code : BitVec 8
  fail : BitVec 3
  word : BitVec 32
  x8 : Bool
  slow : Bool
  sr : Bool
  k : Nat
  j : Nat
  acc : HostAccess
  deriving DecidableEq, Repr

/-- What the schedule lets happen next (log entry 1, DESIGN CHOICE). -/
inductive Turn where
  /-- One event, where `sel` says. -/
  | event (i : Instr) (sel : Sel)
  /-- One word of the row in a slot of an executor. -/
  | issue (site : BitVec 10) (bank : BitVec 3) (slot : BitVec 3)
  /-- The next word of the row in a slot awaits a result from now on, or no longer (R254). -/
  | late (site : BitVec 10) (bank : BitVec 3) (slot : BitVec 3) (b : Bool)
  /-- A later relaxed load of the row in a slot fixes the value of `n` bytes of an address now (R218, R220). -/
  | ahead (site : BitVec 10) (bank : BitVec 3) (slot : BitVec 3) (va : DWord) (n : Nat)
  /-- Nothing but the passing of cycles. -/
  | wait (cycles : Nat)
  /-- Before the next group: how many units it may perform (R255), and whether its stores leave before their walks
  end (R240). -/
  | bias (units : Option Nat) (early : Bool)
  deriving DecidableEq, Repr

/-- The slot of an executor that the issuing row sits in. -/
structure Seat where
  site : BitVec 10
  bank : BitVec 3
  slot : BitVec 3
  deriving DecidableEq, Repr

/-- The whole device. `run` holds the hints of the group whose word is being executed (R52), `walked` what its row's does; between turns each row keeps
its own. `poison` lists the 8-byte DRAM words that hold an uncorrected error (R270), `empty` those whose
full/empty bit is 0 (R128), `relvec` the vector of the release sequence that the value of each 4-byte word continues (R224, R230).
`redo` says that the group that issued last had no effect and is to be issued again; `fresh` numbers the free values drawn so
far (log entry 3, DESIGN CHOICE), `ops` the operations that rows have sent off, in the order of their issue. -/
structure State where
  rows : NMap Row
  cols : NMap Column
  spans : NMap Span
  fields : NMap Field
  tens : NMap Tenant
  mem : Memory
  host : Memory
  poison : List Nat
  empty : List Nat
  relvec : NMap (Vector (BitVec 32) 12)
  harvest : List (BitVec 32)
  retired : List (BitVec 32)
  wcomp : List Comp
  bootStage : BitVec 4
  bootLock : Bool
  mqbase : BitVec 64
  mqovf : Bool
  herr : Bool
  herraddr : BitVec 64
  mplim : BitVec 16
  mpnow : BitVec 16
  throt : Bool
  hot : List (BitVec 10)
  mcmds : List (List Byte)
  links : NMap Link
  errlog : List (BitVec 10)
  linkWidth : BitVec 5
  linkRate : BitVec 7
  doe : List Byte
  hostRead : List Byte
  hostErr : Bool
  outside : List Outside
  refusedStores : List Refused
  reds : List Red
  acks : List RowKey
  homeOps : List HomeOp
  parked : List Parked
  holdWakes : List HoldWake
  ldfeAns : List LdfeAns
  fires : List Fire
  joinWakes : List RowKey
  abandons : List Abandon
  spawns : List SpawnMsg
  pushes : List Push
  jobNotes : List JobNote
  mxcans : List MxCancel
  locks : List LockReq
  retires : List Retire
  tlbis : List TlbiOp
  cur : RowKey
  seat : Seat
  run : List Word
  walked : List (Nat × Nat)
  sel : Sel
  schedule : List Turn
  units : Option Nat
  early : Bool
  redo : Bool
  fresh : Nat
  ops : Nat
  time : Nat
  deriving DecidableEq, Repr

/-! ## Reset -/

/-- A row before its first allocation, and after a tenant reset (R88, R103): every field at its reset value; the row's bytes
0 (before the first allocation the spec gives them no value: log entry 2, DESIGN CHOICE). -/
def Row.reset : Row where
  g := Vector.replicate 64 0
  work := []
  priv := false
  pri := 0
  st := .free
  waiton := 0
  pc := 0
  newpc := 0
  pred := 1
  fmt := 0
  exc := 0
  prog := 0
  epc := 0
  cause := 0
  bud := 0
  pend := 0
  mon := Vector.replicate 4 ⟨0, false⟩
  monPa := Vector.replicate 4 0
  launch := 0
  rowid := 0
  lx := 0
  ly := 0
  gridw := 0
  gridh := 0
  ext0 := 0
  ext1 := 0
  base0 := 0
  base1 := 0
  timeout := 0
  tailpc := 0
  frec := 0
  dv := Vector.replicate 12 0
  trapact := false
  replay := []
  replayDue := false
  early := []
  deferred := []
  join := 0
  predid := 0
  tickets := []
  countCol := 0
  readyAt := 0
  pass := 0
  hold := 0
  joinw := none
  jobWait := none
  fill := none
  deadline := none
  move := none
  await := none
  held := []
  stepping := false
  stepper := none
  stoppedByTenant := false
  bad := []
  run := []
  mid := .none
  walked := []
  again := []
  gbase := none
  mxs := none
  ahead := []
  vecs := []
  inGroup := false
  issueAt := 0

/-- An executor after power-up: no row open, no bind record, last = 15 (R250); the slot that issued last is given no value:
7, so that slot 0 is considered first (log entry 12, DESIGN CHOICE). -/
def Exec.reset : Exec where
  slots := Vector.replicate 8 none
  binds := []
  last := 15
  acts := []
  lastSlot := 7
  issueAt := 0
  preempting := []
  refillAt := 256

/-- A channel after power-up (R131). -/
def Chan.reset : Chan := ⟨0, 0, 0, false, 0, 0⟩

/-- A column after power-up (R95 and the tables of chapters 06, 07 and 09). No tenant owns it. -/
def Column.reset : Column where
  owner := none
  suspect := false
  xb := 0x10000
  chg := 0x08020401
  bref := 512
  bcap := 1024
  pcap := 16384
  wmk := Vector.replicate 8 0
  mb := Vector.replicate 4 0
  testpre := 0
  cecnt := 0
  cethr := 8
  ceTimes := []
  badScratch := []
  badCode := []
  winSum := 0
  clearAt := 256
  scratch := []
  code := []
  cache := []
  tlb := []
  chans := Vector.replicate 16 Chan.reset
  arr := Vector.replicate 8 0
  jobs := []
  jobCtr := 1
  mq := Vector.replicate 4 []
  mqHeld := Vector.replicate 4 []
  sends := []
  spawnq := []
  comp := []
  gateq := []
  gateOut := []
  skew := 0
  execs := Vector.replicate 8 Exec.reset

/-- A place record after power-up (R151). -/
def Place.reset : Place := ⟨0xFFFF, 0xFFFF, 0, 1, 0, 0, 0⟩

/-- The walker statistics after a reset (R432). -/
def WStats.reset : WStats := ⟨0, 0, 0, 0, 0, 0, 0⟩

/-- A span after power-up (R97, R151). -/
def Span.reset : Span where
  wpart := 0
  trans := none
  transRow := none
  rbase := Vector.replicate 8 0
  rlimit := Vector.replicate 8 0
  rfmt := Vector.replicate 8 0
  lines := []
  scratch := []
  pool := []
  bad := []
  defers := []
  wq := []
  wcur := none
  walks := []
  walkq := []
  gated := 0
  waking := 0

/-- A field after power-up (R99, R212). -/
def Field.reset : Field where
  fav := Vector.replicate 12 0
  dep := 0
  outst := []
  evq := []
  evWait := []
  comp := []

/-- A tenant after power-up (R100, R182, R390): absent. -/
def Tenant.reset : Tenant where
  fpol := 0xFF
  tvec := 0
  ovec := 0
  tailvec := 0
  cwbase := 0
  ota := 0
  otf := 0x7F800000
  otcfg := 0
  st := .absent
  keyslot := 0
  ptbase := 0
  dirbase := 0
  dirsize := 0
  partmap := 0
  kcbase := 0
  kcsets := 0
  nextLnch := 1
  cqbase := 0
  fqbase := 0
  verr := 0
  verraddr := 0
  hiend := 0
  hwbase := 0
  hwlimit := 0
  hwen := false
  cols := []
  launches := []
  ctrs := []
  wstats := []
  cmds := []
  loading := none
  fqFull := false
  fqWait := []
  stopping := false
  resetStep := 0
  partial_ := false
  key := 0
  image := none
  removing := false
  kilnUsed := []

/-- The choice of no event in particular. -/
def Sel.reset : Sel where
  t := 0
  n := 0
  site := 0
  bank := 0
  slot := 0
  span := 0
  field := 0
  line := 0
  lnch := 0
  q := 0
  arr := false
  link := 0
  way := 0
  deg := 0
  v := 0
  off := 0
  code := 0
  fail := 0
  word := 0
  x8 := false
  slow := false
  sr := false
  k := 0
  j := 0
  acc := ⟨false, 0, 0, []⟩

/-- The harvest map of the modelled wafer (R180, log entry 5, DESIGN CHOICE): grade A, with the sites of rows 0-29 and x = 0-29
good. -/
def harvestA : List (BitVec 32) := List.replicate 30 0x3FFFFFFF

/-- The gateway columns of the 32 stack links, eight on each edge of the wafer (R375; their places are the model's, log
entry 5). -/
def bootLinks : NMap Link :=
  (List.range 32).map (fun i =>
    let j := 3 * (i % 8) + 3
    let site := if i < 8 then j else if i < 16 then 32 * j + 29 else if i < 24 then 32 * 29 + j else 32 * j
    (i, ⟨BitVec.ofNat 10 site, none, none, 0⟩))

/-- The device right after power-up and boot, before the host has created a tenant (R404, R407, log entry 5, DESIGN CHOICE). -/
def State.reset : State where
  rows := []
  cols := []
  spans := []
  fields := []
  tens := []
  mem := []
  host := []
  poison := []
  empty := []
  relvec := []
  harvest := harvestA
  retired := List.replicate 30 0
  wcomp := []
  bootStage := 6
  bootLock := true
  mqbase := 0
  mqovf := false
  herr := false
  herraddr := 0
  mplim := 960
  mpnow := 0
  throt := false
  hot := []
  mcmds := []
  links := bootLinks
  errlog := []
  linkWidth := 16
  linkRate := 64
  doe := []
  hostRead := []
  hostErr := false
  outside := []
  refusedStores := []
  reds := []
  acks := []
  homeOps := []
  parked := []
  holdWakes := []
  ldfeAns := []
  fires := []
  joinWakes := []
  abandons := []
  spawns := []
  pushes := []
  jobNotes := []
  mxcans := []
  locks := []
  retires := []
  tlbis := []
  cur := ⟨0, 0⟩
  seat := ⟨0, 0, 0⟩
  run := []
  walked := []
  sel := Sel.reset
  schedule := []
  units := none
  early := false
  redo := false
  fresh := 0
  ops := 0
  time := 0

end Sys2Proof.Machine
end

