-- ==== Sys2Proof/Machine/Ops.lean ====
section
/-! DEFINITION. The named operations over rows, registers, slots, tables and memory at its home. -/

namespace Sys2Proof.Machine

/-! ## Geometry (R12, R104, R105) -/

/-- The field of a site s = 32 y + x: F = 4 (y div 10) + (x div 8) (R12). -/
def fieldOfSite (site : Nat) : Nat := 4 * (site / 32 / 10) + site % 32 / 8

/-- The span of a site: S = 8 F + k with k = 4 ((y mod 10) div 5) + ((x mod 8) div 2) (R12). -/
def spanOfSite (site : Nat) : Nat :=
  8 * fieldOfSite site + 4 * (site / 32 % 10 / 5) + site % 32 % 8 / 2

/-- The field of a span (R12). -/
def fieldOfSpan (span : Nat) : Nat := span / 8

/-- The slot of a physical address: PA[43:31] (R104). -/
def paSlot (pa : Nat) : Nat := pa / 2 ^ 31

/-- The offset of a physical address within its slot (R104). -/
def paOff (pa : Nat) : Nat := pa % 2 ^ 31

/-- The size of a DRAM layer in a slot (R105). -/
def layerBytes : Nat := 0x18000000

/-- The home span of a physical address: that of its column for DRAM, of the range's span for an aperture (R16, R104). -/
def homeSpan (pa : Nat) : Nat :=
  if paSlot pa < 960 then spanOfSite (paSlot pa) else (paSlot pa - 1024) / 8

/-- The start of a slot (R104). -/
def slotBase (slot : Nat) : Nat := slot * 2 ^ 31

/-! ## Accessors -/

/-- A row's record. -/
def State.row (s : State) (k : RowKey) : Row := NMap.get Row.reset s.rows k.key

/-- The state with a row's record replaced. -/
def State.setRow (s : State) (k : RowKey) (r : Row) : State := { s with rows := NMap.set s.rows k.key r }

/-- A column. -/
def State.col (s : State) (site : Nat) : Column := NMap.get Column.reset s.cols site

/-- The state with a column replaced. -/
def State.setCol (s : State) (site : Nat) (c : Column) : State := { s with cols := NMap.set s.cols site c }

/-- A span. -/
def State.span (s : State) (i : Nat) : Span := NMap.get Span.reset s.spans i

/-- The state with a span replaced. -/
def State.setSpan (s : State) (i : Nat) (x : Span) : State := { s with spans := NMap.set s.spans i x }

/-- A field. -/
def State.field (s : State) (i : Nat) : Field := NMap.get Field.reset s.fields i

/-- The state with a field replaced. -/
def State.setField (s : State) (i : Nat) (x : Field) : State := { s with fields := NMap.set s.fields i x }

/-- A tenant. -/
def State.ten (s : State) (t : BitVec 4) : Tenant := NMap.get Tenant.reset s.tens t.toNat

/-- The state with a tenant replaced. -/
def State.setTen (s : State) (t : BitVec 4) (x : Tenant) : State := { s with tens := NMap.set s.tens t.toNat x }

/-- An executor of a column. -/
def State.executor (s : State) (site : Nat) (bank : BitVec 3) : Exec := (s.col site).execs[bank.toNat]

/-- The state with an executor replaced. -/
def State.setExecutor (s : State) (site : Nat) (bank : BitVec 3) (e : Exec) : State :=
  let c := s.col site
  s.setCol site { c with execs := c.execs.set bank.toNat e }

/-- The issuing row's record. -/
def State.me (s : State) : Row := s.row s.cur

/-- The state with the issuing row's record replaced. -/
def State.setMe (s : State) (r : Row) : State := s.setRow s.cur r

/-- The site of the issuing row's column. -/
def State.here (s : State) : Nat := s.seat.site.toNat

/-- The field of the issuing row. -/
def State.myField (s : State) : Nat := fieldOfSite s.here

/-- Does the seat name an open slot that holds the issuing row? -/
def State.seated (s : State) : Bool :=
  match (s.executor s.here s.seat.bank).slots[s.seat.slot.toNat] with
  | some sl => sl.row == s.cur && sl.phase == .open_ && (s.me).st == .open_
  | none => false

/-! ## Registers (R85, R86) -/

/-- The bytes of g n whatever n is: g0's bytes are ordinary row bytes (R85). -/
def Row.graw (r : Row) (n : BitVec 6) : DWord := r.g[n.toNat]

/-- An instruction's read of g n: g0 reads 0 (R85). -/
def Row.rg (r : Row) (n : BitVec 6) : DWord := if n == 0 then 0 else r.graw n

/-- An instruction's write of g n: a write to g0 is discarded (R85). -/
def Row.wg (r : Row) (n : BitVec 6) (v : DWord) : Row :=
  if n == 0 then r else { r with g := r.g.set n.toNat v }

/-- The lower g register that v n aliases: g(2n) (R85). -/
def vLow (n : BitVec 5) : BitVec 6 := n ++ 0#1

/-- The upper g register that v n aliases: g(2n + 1) (R85). -/
def vHigh (n : BitVec 5) : BitVec 6 := n ++ 1#1

/-- An instruction's read of v n, the pair g(2n), g(2n + 1): v0 reads 0 (R85). -/
def Row.rv (r : Row) (n : BitVec 5) : VWord :=
  if n == 0 then 0 else r.graw (vHigh n) ++ r.graw (vLow n)

/-- An instruction's write of v n: a write to v0 is discarded, g1 unchanged (R85). -/
def Row.wv (r : Row) (n : BitVec 5) (v : VWord) : Row :=
  if n == 0 then r
  else (r.wg (vLow n) (bits v 0 64)).wg (vHigh n) (bits v 64 64)

/-- Predicate p n; p0 reads 1 (R86). -/
def Row.rp (r : Row) (n : BitVec 3) : Bool := n == 0 || bit r.pred n.toNat

/-- A write of predicate p n; writes to p0 are discarded (R86). -/
def Row.wp (r : Row) (n : BitVec 3) (b : Bool) : Row :=
  if n == 0 then r else { r with pred := setBit r.pred n.toNat b }

/-- The low byte-wise view of a g register list: byte `o` of the row, 0 ≤ o < 0x800 (R85, R88). -/
def Row.byte (r : Row) (o : Nat) : Byte :=
  if o < 0x200 then bits (r.graw (BitVec.ofNat 6 (o / 8))) (8 * (o % 8)) 8 else r.work.read o

/-- An outside write of one byte of the row; bytes 0x000-0x007 are written like the others (R85). -/
def Row.setByte (r : Row) (o : Nat) (b : Byte) : Row :=
  if o < 0x200 then
    let n := BitVec.ofNat 6 (o / 8)
    { r with g := r.g.set n.toNat (setBits (r.graw n) (8 * (o % 8)) b) }
  else { r with work := r.work.write o b }

/-- `n` row bytes from offset `o`. -/
def Row.bytes (r : Row) (o : Nat) : Nat → List Byte
  | 0 => []
  | n + 1 => r.byte o :: Row.bytes r (o + 1) n

/-- Row bytes written from offset `o` upwards. -/
def Row.setBytes (r : Row) (o : Nat) : List Byte → Row
  | [] => r
  | b :: bs => Row.setBytes (r.setByte o b) (o + 1) bs

/-- The six flags ORed into EXC (R65). -/
def Row.raise (r : Row) (f : BitVec 6) : Row := { r with exc := r.exc ||| f }

/-- FMT.EF (R64). -/
def Row.ef (r : Row) : Nat := (bits r.fmt 0 4).toNat

/-- FMT.RND (R64). -/
def Row.rnd (r : Row) : Nat := (bits r.fmt 4 3).toNat

/-- FMT.SAT (R64). -/
def Row.fsat (r : Row) : Bool := bit r.fmt 7

/-- FMT.FTZ (R64). -/
def Row.ftz (r : Row) : Bool := bit r.fmt 8

/-! ## The group that issues (R52, R53) -/

/-- The group's address: that of its first word (R52). -/
def State.group (s : State) : BitVec 32 := (s.me).pc

/-- The address of the word that issues now: the hints of the group so far stand before it (R52). -/
def State.target (s : State) : BitVec 32 := s.group + BitVec.ofNat 32 (4 * s.run.length)

/-- The address of the word after the group (R47, R60). -/
def State.after (s : State) : BitVec 32 := s.target + 4

/-- The group ends and the next stands at `pc` (R53): the hints are consumed. -/
def State.goto (s : State) (pc : BitVec 32) : State :=
  { s.setMe { s.me with pc := pc &&& ~~~3#32, inGroup := false } with run := [] }

/-- The group ends and the row continues behind it. -/
def State.advance (s : State) : State := s.goto s.after

/-- The issuing row's record changed, then the group ends and the row continues behind it. -/
def State.finish (s : State) (r : Row) : State := (s.setMe r).advance

/-- The hints of the run are dropped: the group has ended in a fault or a wait (R53). -/
def State.dropRun (s : State) : State := { s with run := [] }

/-- The group is left unfinished with PC on it (R53), to be issued again: the hints are dropped and nothing else changes. -/
def State.abandonGroup (s : State) : State := { s with run := [], redo := true }

/-! ## Tables: the row directory (R172), slots and bind records -/

/-- A row-directory entry (R172). -/
structure DirEntry where
  site : BitVec 10
  bank : BitVec 3
  group : BitVec 4
  index : BitVec 11
  valid : Bool
  moving : Bool
  deriving DecidableEq, Repr

/-- The fields of an entry's 64 bits (R172). -/
def DirEntry.ofBits (w : DWord) : DirEntry :=
  ⟨bits w 0 10, bits w 10 3, bits w 13 4, bits w 17 11, bit w 28, bit w 29⟩

/-- The 64 bits of an entry (R172). -/
def DirEntry.toBits (e : DirEntry) : DWord :=
  (BitVec.ofBool e.moving ++ BitVec.ofBool e.valid ++ e.index ++ e.group ++ e.bank ++ e.site).setWidth 64

/-- `n` bytes of DRAM as they stand at their home, as a number (R8). -/
def State.memNat (s : State) (pa n : Nat) : Nat := bytesToNat (s.mem.readBytes pa n)

/-- A 64-bit word of DRAM at its home. -/
def State.mem64 (s : State) (pa : Nat) : DWord := BitVec.ofNat 64 (s.memNat pa 8)

/-- A 32-bit word of DRAM at its home. -/
def State.mem32 (s : State) (pa : Nat) : BitVec 32 := BitVec.ofNat 32 (s.memNat pa 4)

/-- Where a directory entry stands (R172). -/
def State.dirAddr (s : State) (k : RowKey) : Nat := (s.ten k.t).dirbase.toNat + 8 * k.n.toNat

/-- The directory entry of a row id; an id at or beyond DIRSIZE names no row (R172). -/
def State.dir (s : State) (k : RowKey) : DirEntry :=
  if k.n.toNat < (s.ten k.t).dirsize.toNat then DirEntry.ofBits (s.mem64 (s.dirAddr k))
  else DirEntry.ofBits 0

/-- Does the directory hold the id (R109)? -/
def State.held (s : State) (k : RowKey) : Bool := (s.dir k).valid

/-- The directory entry of a row rewritten: one 8-byte write at its home (R174). -/
def State.setDir (s : State) (k : RowKey) (e : DirEntry) : State :=
  { s with mem := s.mem.writeBytes (s.dirAddr k) (toBytes 8 e.toBits) }

/-- The slot of an executor that holds a row, if any. -/
def Exec.find (e : Exec) (k : RowKey) : Option (Fin 8) :=
  (List.finRange 8).find? (fun i => match e.slots[i] with | some sl => sl.row == k | none => false)

/-- The state with the slot of a row (where it is placed) changed; no slot, no change. -/
def State.modSlot (s : State) (k : RowKey) (f : Slot → Slot) : State :=
  let d := s.dir k
  let e := s.executor d.site.toNat d.bank
  match e.find k with
  | none => s
  | some i =>
    match e.slots[i] with
    | none => s
    | some sl => s.setExecutor d.site.toNat d.bank { e with slots := e.slots.set i (some (f sl)) }

/-- The row's close begins (R245, R251): its slot and subarray group stay held until the close completes. -/
def State.beginClose (s : State) (k : RowKey) : State := s.modSlot k (fun sl => { sl with phase := .closing })

/-- The bind record of a launch on an executor, if it holds one (R170). -/
def Exec.bindOf (e : Exec) (t : BitVec 4) (l : BitVec 32) : Option Bind :=
  e.binds.find? (fun b => b.tenant == t && b.lnch == l)

/-- Is a launch of a tenant live: accepted and not complete (R183, R207)? -/
def State.liveLaunch (s : State) (t : BitVec 4) (l : BitVec 32) : Bool :=
  (s.ten t).launches.any (fun x => x.id == l && x.phase != .complete)

/-- NBOUND of a launch's record, on the executor where a row is placed, changed by one row more or less (R170). A record whose
launch is complete ends once its NBOUND is 0 (R171). -/
def State.countBoundOf (s : State) (k : RowKey) (l : BitVec 32) (up : Bool) : State :=
  let d := s.dir k
  let e := s.executor d.site.toNat d.bank
  let mine := fun (b : Bind) => b.tenant == k.t && b.lnch == l
  if (e.bindOf k.t l).isNone then s
  else
    let binds := e.binds.map (fun b => if mine b then { b with nbound := if up then b.nbound + 1 else b.nbound - 1 } else b)
    s.setExecutor d.site.toNat d.bank
      { e with binds := binds.filter (fun b => up || !mine b || b.nbound != 0 || s.liveLaunch k.t l) }

/-- The same for the launch that the row's RCB names. -/
def State.countBound (s : State) (k : RowKey) (up : Bool) : State := s.countBoundOf k (s.row k).launch up

/-- A row whose RCB named launch `l` may name another one now: it counts there (R170). -/
def State.moveBound (s : State) (k : RowKey) (l : BitVec 32) : State :=
  let r := s.row k
  if r.launch == l || r.st == .free || r.st == .retired then s
  else (s.countBoundOf k l false).countBoundOf k r.launch true

/-! ## Time (R299) -/

/-- The cycle counter of a column: all counters advance at one rate, each with its own unbounded skew (R299, log
entry 6). -/
def State.timeAt (s : State) (site : Nat) : DWord := BitVec.ofNat 64 s.time + (s.col site).skew

/-! ## Closing, waiting, retiring (R245) -/

/-- A waiting instruction finds its condition unmet (R245): the row closes with WAITON and PC on the group
(log entry 62, DEDUCED). -/
def State.waitRow (s : State) (r : Row) (on : BitVec 32) : State :=
  let s := s.setMe { r with st := .waiting, waiton := on }
  (s.beginClose s.cur).dropRun

/-- A row becomes READY (R245, R250): READYAT is now. -/
def State.makeReady (s : State) (k : RowKey) : State :=
  s.setRow k { s.row k with st := .ready, readyAt := s.time }

/-- The wake-up of a waiting row (R245): WAITON is kept until the row opens. Other states are left alone. -/
def State.wakeRow (s : State) (k : RowKey) : State :=
  if (s.row k).st == .waiting then s.makeReady k else s

/-- A wait ended by a command (R90): WAITON := 0, PC stays, the request at the home is withdrawn; a hold place is kept
(log entry 62, DEDUCED). -/
def State.endWait (s : State) (k : RowKey) : State :=
  let r := s.row k
  let s := s.setRow k { r with waiton := 0, hold := 0, joinw := none, jobWait := none, fill := none, deadline := none }
  { s with spans := s.spans.map (fun (i, x) => (i, { x with defers := x.defers.filter (fun d => d.row != k) })) }

/-- The row retires (R245, R322): RETIRED, or FREE at once when its launch has completed or never existed; its monitors are
withdrawn and its pending job faults discarded; its join and SHARE decrements are made later (R205, R210, R268). -/
def State.retireRow (s : State) (k : RowKey) : State :=
  let r := s.row k
  let s := s.countBound k false
  let st : RowSt := if s.liveLaunch k.t r.launch then .retired else .free
  let s := s.setRow k { r with st := st, waiton := 0, mon := Vector.replicate 4 ⟨0, false⟩, tickets := [], replay := [], replayDue := false, deferred := [], await := none,
                               run := [], mid := .none, walked := [], again := [], gbase := none, mxs := none, stepping := false, hold := 0, joinw := none, jobWait := none, fill := none,
                               deadline := none }
  { s with retires := s.retires ++ [⟨k, r.countCol, r.launch, r.join, r.priv⟩] }

/-- The spans in which a row owns places that are not FREE (R161). -/
def State.placeSpans (s : State) (k : RowKey) : List Nat :=
  (s.spans.filter (fun (_, x) => x.pool.any (fun (_, p) => p.st != 0 && p.tenant == k.t && p.owner == k.n))).map (·.1)

/-- Every place of a killed or posted row is abandoned, at each home in its turn (R159). -/
def State.abandonPlaces (s : State) (k : RowKey) : State :=
  { s with abandons := s.abandons ++ (s.placeSpans k).map (fun i => ⟨k, BitVec.ofNat 7 i⟩) }

/-! ## What a row has sent off (R220, R224, R225, R240) -/

/-- Is the agent the row `k`? -/
def Agent.is (a : Agent) (k : RowKey) : Bool :=
  match a with
  | .row k' _ _ => k' == k
  | .core => false
  | .host _ => false

/-- A write that departed has performed at its home (R224). -/
def State.performed (s : State) (num : Option (BitVec 4 × BitVec 32)) : State :=
  match num with
  | none => s
  | some (f, n) =>
    let x := s.field f.toNat
    s.setField f.toNat { x with outst := x.outst.filter (fun m => m != n) }

/-- The places in program order of a row's writes that are still on their way: early stores, reductions, parked releases and
home operations, stores to other rows, pushes and spawn messages. -/
def State.inFlight (s : State) (k : RowKey) : List Nat :=
  (s.row k).early.map (·.seq) ++ (s.reds.filter (fun x => x.row == k && x.counted)).map (·.seq) ++
    (s.parked.filter (fun x => x.row == k)).map (·.seq) ++ (s.homeOps.filter (fun x => x.row == k)).map (·.seq) ++
    (s.outside.filter (fun x => x.agent.is k)).map (·.seq) ++ (s.pushes.filter (fun x => x.row == k)).map (·.seq) ++
    (s.spawns.filter (fun x => x.src == k)).map (·.seq)

/-- Does place `q` of a row's program order stand behind a store that has faulted and is to be replayed (R240, R267), or behind one
that waits for the row itself (R107, R119) (log entry 91, DEDUCED)? What a handler sends off once the fault has been raised does not
(log entry 50, DEDUCED). -/
def State.stuck (s : State) (k : RowKey) (q : Nat) : Bool :=
  (s.row k).replay.any (fun e => e.seq < q && (match e.till with | some n => q ≤ n | none => true)) ||
    (s.row k).early.any (fun e => e.due && e.seq < q)

/-- Is a write of the row before place `q` still on its way (R220, R225)? Those that wait for the replay of a faulted store are
left out: a trap handler could not complete behind them (log entry 50, DEDUCED). -/
def State.before (s : State) (k : RowKey) (q : Nat) : Bool := (s.inFlight k).any (fun n => n < q && !s.stuck k n)

/-- Is any write of the issuing row still on its way (R220)? -/
def State.sending (s : State) : Bool := s.before s.cur (s.ops + 1)

/-- The first place in program order of a store that is still to be made on the row's behalf at a boundary: one to be replayed, or
one whose walk has ended and that waits for the row itself (R107, R119, R267). -/
def Row.madeFrom (r : Row) : Option Nat := (r.replay.map (·.seq) ++ (r.early.filter (·.due)).map (·.seq)).min?

/-- The acknowledgements of the reductions among a row's early or replayed stores, which are never performed (R210, R240). -/
def State.ackEarly (s : State) (k : RowKey) (l : List EarlyStore) : State :=
  { s with acks := s.acks ++ (l.filter (fun e => match e.kind with | .reduce _ _ _ => true | _ => false)).map (fun _ => k) }

/-- What a row has sent off behind place `q` of its program order is discarded and becomes visible to no one (R240): its
departures count as performed (R224), and its reductions as acknowledged (R210). -/
def State.dropAfter (s : State) (k : RowKey) (q : Nat) : State :=
  let r := s.row k
  let s := (s.setRow k { r with early := r.early.filter (fun e => !(q < e.seq)) }).ackEarly k (r.early.filter (fun e => q < e.seq))
  let red := fun (x : Red) => x.row == k && x.counted && q < x.seq
  let par := fun (x : Parked) => x.row == k && q < x.seq
  let hom := fun (x : HomeOp) => x.row == k && q < x.seq
  let out := fun (x : Outside) => x.agent.is k && q < x.seq
  let nums := (s.reds.filter red).map (·.num) ++ (s.parked.filter par).map (·.num) ++ (s.homeOps.filter hom).map (·.num) ++
    (s.outside.filter out).map (·.num)
  let s := nums.foldl (fun s n => s.performed n) s
  { s with
    acks := s.acks ++ (s.reds.filter red).map (·.row)
    reds := s.reds.filter (fun x => !red x)
    parked := s.parked.filter (fun x => !par x)
    homeOps := s.homeOps.filter (fun x => !hom x)
    outside := s.outside.filter (fun x => !out x)
    pushes := s.pushes.filter (fun x => !(x.row == k && q < x.seq))
    spawns := s.spawns.filter (fun x => !(x.src == k && q < x.seq)) }

/-! ## CTL.CMD (R90) -/

/-- The answer to a deferred LDFE of the row is on its way: its wait cannot be withdrawn (R315). -/
def State.answered (s : State) (k : RowKey) : Bool := s.ldfeAns.any (fun a => a.row == k)

/-- The replay list of a row that ends is emptied, and what the row sent off behind the first store on it is discarded (R240,
R267); the same of a store that still waits for the row itself (log entry 91, DEDUCED). -/
def State.dropReplay (s : State) (k : RowKey) : State :=
  let r := s.row k
  match r.madeFrom with
  | none => s
  | some q =>
    let gone := r.replay ++ r.early.filter (fun e => e.due && e.seq == q)
    (((s.setRow k { r with early := r.early.filter (fun e => !(e.due && e.seq == q)) }).dropAfter k q).ackEarly k gone)

/-- PROG of a row whose group an interruption abandons: cleared for a restartable one (R255). -/
def Row.progLeft (r : Row) : BitVec 32 := if r.mid == .restart then 0 else r.prog

/-- KILL (R90): HALT's effect, and every place of the row is abandoned. -/
def State.killRow (s : State) (k : RowKey) : State :=
  let s := s.setRow k { s.row k with prog := (s.row k).progLeft }
  let s := (s.abandonPlaces k).dropReplay k
  let s := if (s.row k).st == .open_ then s.beginClose k else s.endWait k
  s.retireRow k

/-- Must a command that meets the open row wait for the end of the group the row stands inside: a STOP and a KILL interrupt a
restartable or a progressive group, a REDIRECT none (R53, R255)? -/
def Row.holds (r : Row) (c : Cmd) : Bool :=
  r.await.isSome || r.mid == .held || ((r.inGroup || r.mid != .none) && c == .redirect)

/-- The effect of a command on a row, by its state (R90). A row that a REDIRECT resumes at another place has fixed no load's value
before the command, which is an acquire (R220, R233). Commands to a MOVING row are held, and so is one that meets a row
inside a group that it does not interrupt, or a wait already answered, until the boundary at which it can act (R53, R255, R315)
(log entry 21, DEDUCED). -/
def State.command (s : State) (k : RowKey) (c : Cmd) : State :=
  let r := s.row k
  let hold (s : State) : State := s.setRow k { r with held := r.held ++ [c] }
  match r.st with
  | .moving => hold s
  | .free | .retired =>
    match c with
    | .start => (s.makeReady k).countBound k true
    | .redirect => ((s.setRow k { r with pc := r.newpc, prog := 0 }).makeReady k).countBound k true
    | _ => s
  | .ready =>
    match c with
    | .stop => s.setRow k { r with st := .stopped, waiton := 0, stepping := false }
    | .redirect => s.setRow k { r with pc := r.newpc, prog := 0, waiton := 0 }
    | .kill => s.killRow k
    | _ => s
  | .waiting =>
    if s.answered k then (if c == .start || c == .step then s else hold s)
    else
      match c with
      | .stop => let s := s.endWait k; s.setRow k { s.row k with st := .stopped, stepping := false }
      | .redirect =>
        let s := s.endWait k
        (s.setRow k { s.row k with pc := r.newpc, prog := 0 }).makeReady k
      | .kill => s.killRow k
      | _ => s
  | .open_ =>
    if r.holds c then (if c == .start || c == .step then s else hold s)
    else
      match c with
      | .stop => (s.beginClose k).setRow k { r with st := .stopped, waiton := 0, stepping := false, prog := r.progLeft, run := [], mid := .none, walked := [], again := [] }
      | .redirect => s.setRow k { r with pc := r.newpc, prog := 0, ahead := [] }
      | .kill => s.killRow k
      | _ => s
  | .stopped =>
    match c with
    | .start => (s.setRow k { r with replayDue := !r.replay.isEmpty }).makeReady k
    | .redirect => (s.setRow k { r with pc := r.newpc, prog := 0, replayDue := !r.replay.isEmpty }).makeReady k
    | .kill => s.killRow k
    | .step => (s.setRow k { r with stepping := true, replayDue := !r.replay.isEmpty }).makeReady k
    | .stop => s
  | .faulted =>
    match c with
    | .start => (s.setRow k { r with replayDue := !r.replay.isEmpty }).makeReady k
    | .redirect => (s.setRow k { r with pc := r.newpc, prog := 0, replayDue := !r.replay.isEmpty }).makeReady k
    | .kill => s.killRow k
    | _ => s

/-- The command a CMD code names: 1 START, 2 STOP, 3 REDIRECT, 4 KILL, 5 STEP; 0 performs none (R88). -/
def cmdOf (c : Nat) : Option Cmd :=
  match c with
  | 1 => some .start
  | 2 => some .stop
  | 3 => some .redirect
  | 4 => some .kill
  | 5 => some .step
  | _ => none

/-! ## The row control block as words (R88) -/

/-- The code of CTL.STATE (R88). -/
def RowSt.code : RowSt → Nat
  | .free => 0
  | .ready => 1
  | .open_ => 2
  | .waiting => 3
  | .stopped => 4
  | .faulted => 5
  | .moving => 6
  | .retired => 7

/-- A monitor register (R88): [47:8] line, [0] ARMED. -/
def Mon.toBits (m : Mon) : DWord := (m.line ++ 0#7 ++ BitVec.ofBool m.armed).setWidth 64

/-- Word `i` of the RCB, at offset 4 i (R88). A WO field reads 0 (R9). -/
def Row.rcb (r : Row) (i : Nat) : BitVec 32 :=
  match i with
  | 0 => (BitVec.ofBool r.priv ++ r.pri ++ 0#1 ++ BitVec.ofNat 3 r.st.code ++ 0#4).setWidth 32
  | 1 => r.waiton
  | 2 => r.pc
  | 3 => r.newpc
  | 4 => (r.pred ||| 1#8).setWidth 32
  | 5 => r.fmt.setWidth 32
  | 6 => r.exc.setWidth 32
  | 7 => r.prog
  | 8 => r.epc
  | 9 => r.cause.setWidth 32
  | 10 => r.bud
  | 11 => r.pend.setWidth 32
  | 12 => bits r.mon[0].toBits 0 32
  | 13 => bits r.mon[0].toBits 32 32
  | 14 => bits r.mon[1].toBits 0 32
  | 15 => bits r.mon[1].toBits 32 32
  | 16 => bits r.mon[2].toBits 0 32
  | 17 => bits r.mon[2].toBits 32 32
  | 18 => bits r.mon[3].toBits 0 32
  | 19 => bits r.mon[3].toBits 32 32
  | 20 => r.launch
  | 21 => r.rowid
  | 22 => r.ly ++ r.lx
  | 23 => r.gridh ++ r.gridw
  | 24 => r.ext0
  | 25 => r.ext1
  | 26 => r.base0
  | 27 => r.base1
  | 28 => r.timeout
  | 29 => r.tailpc
  | 30 => bits r.frec 0 32
  | 31 => bits r.frec 32 32
  | _ => 0

/-- Word `i` of the RCB written; reserved bits, RO fields and CTL's command are not stored (R10, R86, R88). -/
def Row.setRcb (r : Row) (i : Nat) (v : BitVec 32) : Row :=
  match i with
  | 0 => { r with priv := bit v 10, pri := bits v 8 2 }
  | 2 => { r with pc := v &&& ~~~3#32 }
  | 3 => { r with newpc := v &&& ~~~3#32 }
  | 4 => { r with pred := bits v 0 8 ||| 1#8 }
  | 5 => { r with fmt := bits v 0 9 }
  | 6 => { r with exc := bits v 0 6 }
  | 7 => { r with prog := v }
  | 8 => { r with epc := v }
  | 9 => { r with cause := bits v 0 16 }
  | 10 => { r with bud := v }
  | 20 => { r with launch := v }
  | 22 => { r with lx := bits v 0 16, ly := bits v 16 16 }
  | 23 => { r with gridw := bits v 0 16, gridh := bits v 16 16 }
  | 24 => { r with ext0 := v }
  | 25 => { r with ext1 := v }
  | 26 => { r with base0 := v }
  | 27 => { r with base1 := v }
  | 28 => { r with timeout := v }
  | 29 => { r with tailpc := v &&& ~~~2#32 }
  | 30 => { r with frec := setBits r.frec 0 (v &&& ~~~0x3F#32) }
  | 31 => { r with frec := setBits r.frec 32 v }
  | _ => r

/-- The bits of word `i` that its fields define and that are RO (R88); CTL.STATE is excepted (R89). -/
def rcbRo (i : Nat) : BitVec 32 :=
  match i with
  | 1 => 0xFFFFFFFF
  | 11 => 0x7F
  | 12 | 14 | 16 | 18 => 0xFFFFFF01
  | 13 | 15 | 17 | 19 => 0xFFFF
  | 21 => 0xFFFFFFFF
  | _ => 0

/-- The bits of word `i` that a user agent may not change: CTL.PRIV, CTL.PRI, BUD, TIMEOUT, FREC, LAUNCH and the
identity registers (R89). -/
def rcbUserDenied (i : Nat) : BitVec 32 :=
  match i with
  | 0 => 0x700
  | 10 | 20 | 22 | 23 | 24 | 25 | 26 | 27 | 28 | 30 | 31 => 0xFFFFFFFF
  | _ => 0

/-- Is word `i` one that no agent may change while the row is live: PC, PROG, EPC, CAUSE, TAILPC, LAUNCH and the identity
registers (R89)? -/
def rcbLive (i : Nat) : Bool :=
  match i with
  | 2 | 7 | 8 | 9 | 20 | 22 | 23 | 24 | 25 | 26 | 27 | 29 => true
  | _ => false

/-- READY, OPEN, WAITING or MOVING (R89). -/
def RowSt.live : RowSt → Bool
  | .ready => true
  | .open_ => true
  | .waiting => true
  | .moving => true
  | _ => false

/-- Is the write of `v` into word `i` refused (R89)? `own` leaves the second case out (R91). -/
def Row.rcbRefused (r : Row) (sup own : Bool) (i : Nat) (v : BitVec 32) : Bool :=
  let diff := (r.rcb i) ^^^ v
  let stored := ((r.setRcb i v).rcb i) ^^^ (r.rcb i)
  (!sup && (stored &&& rcbUserDenied i) != 0) ||
  (!own && rcbLive i && r.st.live && stored != 0) ||
  (diff &&& rcbRo i) != 0

/-- The word of the RCB at word index `i` after the bytes of a store at offset `off` are merged into it (R87). -/
def Row.rcbMerge (r : Row) (off : Nat) (data : List Byte) (i : Nat) : BitVec 32 :=
  let b : Nat → Byte := fun j =>
    let o := 4 * i + j
    if off ≤ o && o < off + data.length then data.getD (o - off) 0 else bits (r.rcb i) (8 * j) 8
  b 3 ++ b 2 ++ b 1 ++ b 0

/-- The word indices that a store of `n` bytes at `off` touches. -/
def rcbWords (off n : Nat) : List Nat := (List.range 32).filter (fun i => 4 * i < off + n && off < 4 * i + 4)

/-- The CMD code a store writes: byte 0 of the RCB, when the store covers it (R90). -/
def storeCmd (off : Nat) (data : List Byte) : Nat := if off == 0 then (data.getD 0 0).toNat % 16 else 0

/-- Does a store to the RCB's bytes get refused (R89)? -/
def Row.rcbStoreRefused (r : Row) (sup own : Bool) (off : Nat) (data : List Byte) : Bool :=
  5 < storeCmd off data ||
  (rcbWords off data.length).any (fun i => r.rcbRefused sup own i (r.rcbMerge off data i))

/-- The fields of the store applied, the command not yet (R90). -/
def Row.rcbStore (r : Row) (off : Nat) (data : List Byte) : Row :=
  (rcbWords off data.length).foldl (fun x i => x.setRcb i (r.rcbMerge off data i)) r

/-- A store to a row's RCB that is not refused: first its other bytes, then the command (R90). -/
def State.rcbApply (s : State) (k : RowKey) (off : Nat) (data : List Byte) : State :=
  let l := (s.row k).launch
  let s := (s.setRow k ((s.row k).rcbStore off data)).moveBound k l
  match cmdOf (storeCmd off data) with
  | some c => s.command k c
  | none => s

/-- `n` bytes of the RCB from offset `off` (R88). -/
def Row.rcbBytes (r : Row) (off : Nat) : Nat → List Byte
  | 0 => []
  | n + 1 => bits (r.rcb (off / 4)) (8 * (off % 4)) 8 :: Row.rcbBytes r (off + 1) n

end Sys2Proof.Machine
end

