-- ==== Sys2Proof/Machine/Memory.lean ====
section
/-! DEFINITION. Memory as a row, an engine or a unit reaches it: translation (R175-R179, R300), the physical map and its
refusals (R104-R111, R120, R124-R127), the home (R114, R149, R150, R198), the column cache (R112, R113, R218-R229), and
the loads and stores over them. -/

namespace Sys2Proof.Machine

/-! ## The results of an access -/

/-- A fault before its record is completed: code, subcode, ADDR, whether the access was write-type, OPREC (R261, R262). -/
structure Flt where
  code : BitVec 8
  sub : BitVec 8 := 0
  addr : DWord := 0
  write : Bool := false
  opRec : DWord := 0
  deriving DecidableEq, Repr

/-- What an access comes to: a value and the state after it; a fault, which leaves no trace of the access (R301); the
closing of the row with a WAITON (R119); a stall, which leaves the group to be issued again because something it must
follow is still in flight (R219, R220, R228); the same for a walk that is outstanding for its page, or that it must wait to
start (R178, R272); or a migration on touch (R107). -/
inductive Res (α : Type) where
  | ok (v : α) (s : State)
  | fault (f : Flt)
  | wait (on : BitVec 32) (fill : Option (BitVec 3 × Nat))
  | stall
  | miss (va : Nat)
  | move (site : Nat)

/-- One access after another. -/
def Res.bind {α β : Type} (x : Res α) (f : α → State → Res β) : Res β :=
  match x with
  | .ok v s => f v s
  | .fault e => .fault e
  | .wait on k => .wait on k
  | .stall => .stall
  | .miss va => .miss va
  | .move t => .move t

/-- The agent of an access: its tenant, its supervisor right, the column it stands in, whether it is a program row or stands for
one (R106), and who waits for a walk that the access needs (R178): none for an access that does not stand in the order of
arrival. -/
structure Who where
  t : BitVec 4
  sup : Bool
  site : Nat
  row : Bool
  asker : Option Asker
  deriving DecidableEq, Repr

/-- The issuing row as an agent. -/
def State.who (s : State) : Who := ⟨s.cur.t, (s.me).priv, s.here, true, some (.row s.cur)⟩

/-- What an access does: the checks of R108 depend on it. -/
inductive Use where
  | load | store | atom | fe
  deriving DecidableEq, Repr

/-- A write-type access (R301). -/
def Use.write : Use → Bool
  | .load => false
  | .store => true
  | .atom => true
  | .fe => true

/-- No CACHEX hint. -/
def CacheHint.none : CacheHint := ⟨0, false, Option.none⟩

/-- PAGE with a subcode at an address (R261). -/
def Flt.page (sub : BitVec 8) (va : DWord) (write : Bool) : Flt := ⟨0x05, sub, va, write, 0⟩

/-- An uncorrected error that an access meets, with its subcode; its ADDR is 0, which no rule names (R270, R433). -/
def Flt.ecc (sub : BitVec 8) (write : Bool) : Flt := ⟨0x0E, sub, 0, write, 0⟩

/-- What a walk that ends in an error `n` raises: PAGE with that subcode, or the uncorrected error it met in a table (R177,
R270). -/
def Flt.ofWalk (n : Nat) (va : DWord) (write : Bool) : Flt :=
  if n == 0x0E02 then Flt.ecc 2 write else Flt.page (BitVec.ofNat 8 n) va write

/-- ALIGN at an address. -/
def Flt.align (va : DWord) (write : Bool) : Flt := ⟨0x04, 0, va, write, 0⟩

/-- The key under which a row is filed, read back. -/
def RowKey.ofKey (k : Nat) : RowKey := ⟨BitVec.ofNat 4 (k / 2 ^ 32), BitVec.ofNat 32 k⟩

/-! ## Monitors and joins at the home (R324, R357) -/

/-- The armed monitors on a line. -/
def State.armedOn (s : State) (line : Nat) : List Fire :=
  s.rows.flatMap (fun (k, r) =>
    (List.finRange 4).filterMap (fun i =>
      if r.mon[i].armed && r.monPa[i] == line
      then some ⟨RowKey.ofKey k, BitVec.ofNat 2 i.val, r.mon[i].line⟩ else none))

/-- A write to a line, or a grant of it for a store, fires every monitor armed on it; the firing is on its way (R324). -/
def State.fireLine (s : State) (line : Nat) : State := { s with fires := s.fires ++ s.armedOn line }

/-- A write to bytes [a, a + n) wakes the rows whose JOINW waits on that word (R357). -/
def State.wakeJoins (s : State) (a n : Nat) : State :=
  { s with joinWakes := s.joinWakes ++ s.rows.filterMap (fun (k, r) =>
      match r.joinw with
      | some w => if w < a + n && a < w + 8 then some (RowKey.ofKey k) else none
      | none => none) }

/-! ## Poison (R270) -/

/-- Does [a, a + n) touch a poisoned word of the list? -/
def poisoned (l : List Nat) (a n : Nat) : Bool := l.any (fun w => 8 * w < a + n && a < 8 * w + 8)

/-- The poisoned words that an overwriting of [a, a + n) leaves: those not overwritten whole (R270). -/
def unpoison (l : List Nat) (a n : Nat) : List Nat := l.filter (fun w => !(a ≤ 8 * w && 8 * w + 8 ≤ a + n))

/-! ## Decode ranges (R124-R127) -/

/-- Range `k` of a span: its base, its limit (both in bytes) and its format. -/
def Span.range (x : Span) (k : Nat) : Nat × Nat × Nat :=
  ((x.rbase.toList.getD k 0).toNat * 2 ^ 16, (x.rlimit.toList.getD k 0).toNat * 2 ^ 16, (x.rfmt.toList.getD k 0).toNat)

/-- Is the column at a site good (R180)? -/
def State.good (s : State) (site : Nat) : Bool := bit (s.harvest.getD (site / 32) 0) (site % 32)

/-- Is range `k` of span `i` enabled: FMT ≠ 0, LIMIT > BASE, and every byte DRAM of a column of the span (R124)? DRAM
offsets are contiguous only within one slot (R105), so the range lies in one slot. -/
def State.rangeOn (s : State) (i k : Nat) : Bool :=
  let (b, l, f) := (s.span i).range k
  f != 0 && b < l && paSlot b == paSlot (l - 1) && paSlot b < 960 && spanOfSite (paSlot b) == i &&
    s.good (paSlot b) && paOff (l - 1) < 4 * layerBytes

/-- The enabled range that holds a stored byte, the lowest of those that overlap (R98, R127). -/
def State.rangeAt (s : State) (pa : Nat) : Option Nat :=
  let i := homeSpan pa
  (List.range 8).find? (fun k =>
    let (b, l, _) := (s.span i).range k
    b ≤ pa && pa < l && s.rangeOn i k)

/-- The T2 encoding of trit i of a T5 byte; bytes of 243-255 hold five 0 trits (R70). -/
def t5Trit (b i : Nat) : Nat := if 243 ≤ b then 0 else writeTrit ((b / 3 ^ i % 3 : Nat) - 1)

/-- A K8 element and its scale decoded to BF16 (R71): exact, rounded RNE, subnormals kept; NaN gives 0x7FC0. -/
def k8Decode (x scale : Nat) : BitVec 16 :=
  if scale == 255 then 0x7FC0
  else
    match FFmt.e4.read x with
    | .fin n m e => BitVec.ofNat 16 (FFmt.bf16.write RoundCtl.rne (.fin n m (e + (scale : Int) - 127))).1
    | _ => 0x7FC0

/-- The decoded byte at aperture offset `d` of a range with base, limit and format (R125, R126); a byte whose stored
source lies at or beyond LIMIT reads 0 (R124). -/
def State.decoded (s : State) (b l f d : Nat) : Byte :=
  let src := fun a => (s.mem.read a).toNat
  if f == 1 then
    let trit := fun j =>
      let a := b + (4 * d + j) / 5
      if a < l then t5Trit (src a) ((4 * d + j) % 5) else 0
    BitVec.ofNat 8 (trit 0 + 4 * trit 1 + 16 * trit 2 + 64 * trit 3)
  else
    let g := d / 512
    let e := d % 512 / 2
    let x := b + 272 * g + 16 * (e / 16) + e % 16
    let c := b + 272 * g + 256 + e / 16
    if x < l && c < l then bits (k8Decode (src x) (src c)) (8 * (d % 2)) 8 else 0

/-- The stored bytes behind a decoded byte, the first of them first (R125, R126). -/
def decodedFrom (b f d : Nat) : List Nat :=
  if f == 1 then [b + 4 * d / 5, b + (4 * d + 3) / 5]
  else [b + 272 * (d / 512) + d % 512 / 2, b + 272 * (d / 512) + 256 + d % 512 / 32]

/-- The aperture offset of a format at which stored byte `n` of a range comes first, of the parity of `d` where two bytes come
of one element (log entry 66, DESIGN CHOICE). -/
def decodedAt (f n d : Nat) : Nat :=
  if f == 1 then (5 * n + 3) / 4
  else 512 * (n / 272) + 2 * (if n % 272 < 256 then n % 272 else 16 * (n % 272 - 256)) + d % 2

/-- The range that an aperture address names (R104): its span and its number. -/
def apertureOf (pa : Nat) : Nat × Nat := ((paSlot pa - 1024) / 8, (paSlot pa - 1024) % 8)

/-- The range and the offset under which an aperture address is decoded (R98): its own, or, where its first stored byte lies in
an enabled range of the span of a lower number too, the lowest such range at the offset where that byte comes first
(log entry 66, DESIGN CHOICE). -/
def State.decodeAs (s : State) (pa : Nat) : (Nat × Nat × Nat) × Nat :=
  let (i, k) := apertureOf pa
  let d := paOff pa
  let (b, l, f) := (s.span i).range k
  let a := (decodedFrom b f d).headD 0
  match (List.range k).find? (fun j => s.rangeOn i j && ((s.span i).range j).1 ≤ a && a < ((s.span i).range j).2.1) with
  | none => ((b, l, f), d)
  | some j =>
    let (b', l', f') := (s.span i).range j
    ((b', l', f'), decodedAt f' (a - b') d)

/-- The byte that the home gives for an address of DRAM or of an aperture. -/
def State.homeByte (s : State) (pa : Nat) : Byte :=
  if paSlot pa < 960 then s.mem.read pa
  else
    let ((b, l, f), d) := s.decodeAs pa
    s.decoded b l f d

/-- `n` bytes at the home. -/
def State.homeBytes (s : State) (pa : Nat) : Nat → List Byte
  | 0 => []
  | n + 1 => s.homeByte pa :: State.homeBytes s (pa + 1) n

/-- The stored bytes behind the decoded line of an aperture address (R124). -/
def State.lineSources (s : State) (pa : Nat) : List Nat :=
  (List.range 256).flatMap (fun j =>
    let ((b, _, f), d) := s.decodeAs (pa / 256 * 256 + j)
    decodedFrom b f d)

/-- Does the home find an uncorrected error in [pa, pa + n), or behind the decoded line (R270)? -/
def State.homeBad (s : State) (pa n : Nat) : Bool :=
  if paSlot pa < 960 then poisoned s.poison pa n
  else !s.poison.isEmpty && (s.lineSources pa).any (fun a => poisoned s.poison a 1)

/-! ## The home (R16, R114, R149, R150, R198) -/

/-- The field of an address's home. -/
def homeField (pa : Nat) : Nat := homeSpan pa / 8

/-- Is byte `a` one of a tenant's row directory, which is RO for every agent but its changers (R9, R172, R188)? -/
def State.dirKeeps (s : State) (a : Nat) : Bool :=
  s.tens.any (fun (_, x) => x.st != .absent && x.st != .swapped &&
    x.dirbase.toNat ≤ a && a < x.dirbase.toNat + 8 * x.dirsize.toNat)

/-- Is byte `a` protected: byte 0-15 of a hold word in use (R150), known by a place record that names it (log entry 14, DEDUCED),
byte 0x40-0x43 of a summary-tree descriptor whose TLOCK is not 0, known by a request of a walker for it (R198), or a byte of a
row directory? The bytes of a kiln cache index are ordinary memory to stores (R188) (log entry 86, DESIGN CHOICE). -/
def State.homeKeeps (s : State) (a : Nat) : Bool :=
  let at_ (pa : Nat) : Bool := pa + 0x40 ≤ a && a < pa + 0x44 && s.mem32 (pa + 0x40) != 0
  (a % 64 < 16 && (s.span (homeSpan a)).pool.any (fun (_, p) => p.st != 0 && p.obj.toNat == a / 64)) ||
  s.spans.any (fun (_, x) => match x.wcur with | some w => w.granted && at_ w.pa | none => false) ||
  s.locks.any (fun l => l.exclusive && at_ l.pa) || s.dirKeeps a

/-- The victim of a full set: the least priority, then the least recently used (R112, R114). -/
def victim (l : List (Nat × Nat × Nat)) : Option Nat :=
  (l.foldl (fun (acc : Option (Nat × Nat × Nat)) x =>
    match acc with
    | none => some x
    | some y => if x.2.1 < y.2.1 || (x.2.1 == y.2.1 && x.2.2 < y.2.2) then some x else some y) none).map (·.1)

/-- The ways of a set that lines may stand in: those that neither WPART nor a growth in progress takes, and that are neither
gated nor waking (R114, R116, R117). -/
def Span.ways (x : Span) : Nat :=
  let top := 16 - max x.wpart.toNat (match x.trans with | some n => n.toNat | none => 0)
  ((List.range top).filter (fun w => !bit x.gated w && !bit x.waking w)).length

/-- The tags of a span cache cut to the ways that lines may stand in. Tags carry no way number: of each set, the lines used last
stay (log entry 8, DEDUCED). Those that leave are written back, which changes no byte. -/
def Span.trim (x : Span) : Span :=
  { x with lines := x.lines.filter (fun l =>
      (x.lines.filter (fun y => y.line % 4096 == l.line % 4096 && l.used < y.used)).length < x.ways) }

/-- The span cache of the home takes note of an operation on a line (R114): 4,096 sets of the ways it has. A line that comes
new has priority 0 until the access gives it its own. -/
def State.touchSpan (s : State) (pa : Nat) (write : Bool) : State :=
  let i := homeSpan pa
  let line := pa / 256
  let x := s.span i
  let stamp := 1 + x.lines.foldl (fun m l => max m l.used) 0
  let old := x.lines.find? (fun l => l.line == line)
  let rest := x.lines.filter (fun l => l.line != line)
  let dirty := write || (match old with | some l => l.dirty | none => false)
  let inSet := rest.filter (fun l => l.line % 4096 == line % 4096)
  let rest :=
    if inSet.length < x.ways then rest
    else
      match victim (inSet.map (fun l => (l.line, l.prio, l.used))) with
      | some v => rest.filter (fun l => l.line != v)
      | none => rest
  if x.ways == 0 then s.setSpan i { x with lines := rest }
  else s.setSpan i { x with lines := rest ++ [⟨line, dirty, (match old with | some l => l.prio | none => 0), stamp⟩] }

/-- What an access leaves of its line in the span cache (R58, R107, R112): an NC line goes, written back; any other takes the
access's priority where that is higher. -/
def State.keepLine (s : State) (pa : Nat) (k : Keep) : State :=
  let i := homeSpan pa
  let x := s.span i
  if k.nc then s.setSpan i { x with lines := x.lines.filter (fun l => l.line != pa / 256) }
  else s.setSpan i { x with lines := x.lines.map (fun l => if l.line == pa / 256 then { l with prio := max l.prio k.prio } else l) }

/-- An operation that the home makes of itself touches a line of its span cache only where it stands already: no page says how to
keep it (log entry 8, DEDUCED). -/
def State.touchHeld (s : State) (pa : Nat) : State :=
  if (s.span (homeSpan pa)).lines.any (fun l => l.line == pa / 256) then s.touchSpan pa true else s

/-- Does a write of [a, a + n) overwrite word `w` of size `m` whole, no byte of it being protected? -/
def State.overwritten (s : State) (m a n w : Nat) : Bool :=
  a ≤ m * w && m * w + m ≤ a + n && !(List.range m).any (fun j => s.homeKeeps (m * w + j))

/-- A write of consecutive bytes of one line performed at the home: protected bytes are discarded (R9, R150, R198), words
overwritten whole lose their poison (R270) and, for a write that is no atomic or reduction, the release sequence they
continued (R221, R230); monitors fire and joins wake (R324, R357). The line stays in the span cache; for a write of a management core, of
the host or of a reset, which has no page, at the priority that it has there, or 0 (log entry 93, DESIGN CHOICE). -/
def State.homeWrite (s : State) (pa : Nat) (data : List Byte) (plain : Bool) : State :=
  let n := data.length
  let cells := ((List.range n).zip data).filter (fun (j, _) => !s.homeKeeps (pa + j))
  let mem := cells.foldl (fun m (j, b) => m.write (pa + j) b) s.mem
  let rel := if plain then s.relvec.filter (fun (w, _) => !s.overwritten 4 pa n w) else s.relvec
  let poison := s.poison.filter (fun w => !s.overwritten 8 pa n w)
  ((({ s with mem := mem, poison := poison, relvec := rel }).fireLine (pa / 256)).wakeJoins pa n).touchSpan pa true

/-! ## Departures between fields (R224) -/

/-- A write leaves field `f` for a home in field `g`: it takes the next number, and is outstanding unless it has
performed already. Writes within a field are not numbered. -/
def State.depart (s : State) (f g : Nat) (done : Bool) : State × Option (BitVec 4 × BitVec 32) :=
  if f == g then (s, none)
  else
    let x := s.field f
    let n := x.dep + 1
    (s.setField f { x with dep := n, outst := if done then x.outst else x.outst ++ [n] }, some (BitVec.ofNat 4 f, n))

/-- The highest n such that the writes 1 to n of a field have all performed (R224). -/
def Field.done (x : Field) : BitVec 32 :=
  match x.outst with
  | [] => x.dep
  | n :: _ => n - 1

/-- Does an applied vector cover a release's vector, by the wrap-safe comparison (R212, R225)? -/
def covers (fav v : Vector (BitVec 32) 12) : Bool :=
  (List.finRange 12).all (fun j => !bit (fav[j] - v[j]) 31)

/-- Is there room in every field's window of outstanding writes for those of a group, a tile, or the write-back of every column of
the field (R212) (log entry 75, DEDUCED)? -/
def State.departRoom (s : State) (f : Nat) : Bool :=
  (List.range 12).all (fun g => (((s.field f).dep - (s.field g).fav.toList.getD f 0).toNat < 2 ^ 31 - 2 ^ 24))

/-- The vector of a release that leaves field `f` (R225). -/
def State.releaseVec (s : State) (k : RowKey) (f : Nat) : Vector (BitVec 32) 12 :=
  let dv := (s.row k).dv
  let x := s.field f
  Vector.ofFn (fun (j : Fin 12) =>
    if j.val == f then x.dep else if bit (dv[j] - x.fav[j]) 31 then x.fav[j] else dv[j])

/-! ## The column cache (R112, R113) and coherence within a field (R218, R228, R229) -/

/-- A line of a column's cache. -/
def Column.line (c : Column) (line : Nat) : Option CLine := c.cache.find? (fun l => l.line == line)

/-- The column with a line replaced. -/
def Column.setLine (c : Column) (l : CLine) : Column :=
  { c with cache := c.cache.map (fun x => if x.line == l.line then l else x) }

/-- The column without a line. -/
def Column.dropLine (c : Column) (line : Nat) : Column := { c with cache := c.cache.filter (fun l => l.line != line) }

/-- Are all bytes [o, o + n) of the line there: in valid sectors or dirty (R113)? -/
def CLine.has (l : CLine) (o n : Nat) : Bool :=
  (List.range n).all (fun j => bit l.valid ((o + j) / 32) || l.dirty.contains (o + j))

/-- Is sector `k` poisoned: a byte of it has not been overwritten since (R270)? -/
def CLine.badAt (l : CLine) (k : Nat) : Bool := l.bad.any (fun b => b / 32 == k)

/-- The dirty bytes of sector `k`, grouped for the write-back: (offset, byte), rising. -/
def CLine.dirtyOf (l : CLine) (k : Nat) : List (Nat × Byte) :=
  ((List.range 32).filter (fun j => l.dirty.contains (32 * k + j))).map (fun j => (32 * k + j, l.data.read (32 * k + j)))

/-- One dirty sector written back under its mask (R113, R270), the protected bytes of the line being those of the state `was` before its
write-back (R150, R198): its bytes are performed at the home as one write; words that the mask covers whole lose their poison and their
release sequence; a poisoned sector is written with poison, but for words with protected bytes. -/
def State.writeBackSector (s was : State) (site line : Nat) (l : CLine) (k : Nat) : State :=
  match l.dirtyOf k with
  | [] => s
  | cells =>
    let whole := fun (m w : Nat) => m * w / 32 == 8 * line + k && was.overwritten m (m * w) m w &&
      (List.range m).all (fun j => l.dirty.contains (m * w + j - 256 * line))
    let s : State := { s with
      mem := (cells.filter (fun x => !was.homeKeeps (256 * line + x.1))).foldl (fun m x => m.write (256 * line + x.1) x.2) s.mem
      poison := s.poison.filter (fun w => !whole 8 w)
      relvec := s.relvec.filter (fun (w, _) => !whole 4 w) }
    let s := (cells.foldl (fun s x => s.wakeJoins (256 * line + x.1) 1) (s.fireLine line)).touchSpan (256 * line) true
    let s := s.keepLine (256 * line) ⟨false, l.prio⟩
    let s := (s.depart (fieldOfSite site) (homeField (256 * line)) true).1
    if l.badAt k
    then { s with poison := s.poison ++ ((List.range 4).map (fun j => 32 * line + 4 * k + j)).filter (fun w =>
        !(List.range 8).any (fun j => was.homeKeeps (8 * w + j))) }
    else s

/-- The dirty sectors of a line performed at the home; the line stays, clean (R113). -/
def State.cleanNear (s : State) (site line : Nat) : State :=
  match (s.col site).line line with
  | none => s
  | some l =>
    if l.dirty.isEmpty then s
    else
      let s := (List.range 8).foldl (fun t k => t.writeBackSector s site line l k) s
      s.setCol site ((s.col site).setLine { l with dirty := [] })

/-- The line cleaned and dropped. -/
def State.flushNear (s : State) (site line : Nat) : State :=
  if ((s.col site).line line).isNone then s
  else
    let s := s.cleanNear site line
    s.setCol site ((s.col site).dropLine line)

/-- The columns of a field that hold a line, but for one (R114). -/
def State.holders (s : State) (f line : Nat) (but : Option Nat) : List Nat :=
  (s.cols.filter (fun (i, c) => fieldOfSite i == f && some i != but && (c.line line).isSome)).map (·.1)

/-- The home recalls a line of its field's column caches: dirty sectors are merged, the copies end (R228, R229). -/
def State.recall (s : State) (line : Nat) (but : Option Nat) : State :=
  (s.holders (homeField (256 * line)) line but).foldl (fun s i => s.flushNear i line) s

/-- The home merges the dirty sectors its field's column caches hold of a line; the copies stay, clean. -/
def State.merge (s : State) (line : Nat) (but : Option Nat) : State :=
  (s.holders (homeField (256 * line)) line but).foldl (fun s i => s.cleanNear i line) s

/-- The dirty sectors of a line written back; the line stays, clean (R113, R383). The copies in the home's field end, as at
any write from outside it (R218, R229). -/
def State.cleanLine (s : State) (site line : Nat) : State :=
  match (s.col site).line line with
  | none => s
  | some l =>
    if l.dirty.isEmpty then s
    else (if homeField (256 * line) == fieldOfSite site then s else s.recall line (some site)).cleanNear site line

/-- The line written back and dropped (an eviction, R112; an invalidation that loses no store, R223). -/
def State.flushLine (s : State) (site line : Nat) : State :=
  if ((s.col site).line line).isNone then s
  else
    let s := s.cleanLine site line
    s.setCol site ((s.col site).dropLine line)

/-- Every cached line of a column whose home lies outside the column's field. -/
def State.farLines (s : State) (site : Nat) : List Nat :=
  ((s.col site).cache.filter (fun l => homeField (256 * l.line) != fieldOfSite site)).map (·.line)

/-- The write-back of R223 at a WAFER or SYSTEM release. -/
def State.releaseFar (s : State) (site : Nat) : State := (s.farLines site).foldl (fun s l => s.cleanLine site l) s

/-- The invalidation of R223 at a WAFER or SYSTEM acquire; dirty sectors are written back first, so no store is lost
(log entry 59, DEDUCED). -/
def State.acquireFar (s : State) (site : Nat) : State := (s.farLines site).foldl (fun s l => s.flushLine site l) s

/-- A line of 256 sets of 12 ways is found or allocated with its priority (R112); the way it takes is written back. -/
def State.allocLine (s : State) (site line prio : Nat) : State :=
  let c := s.col site
  let stamp := 1 + c.cache.foldl (fun m l => max m l.used) 0
  match c.line line with
  | some l => s.setCol site (c.setLine { l with prio := max l.prio prio, used := stamp })
  | none =>
    let inSet := c.cache.filter (fun l => l.line % 256 == line % 256)
    let s :=
      if inSet.length < 12 then s
      else
        match victim (inSet.map (fun l => (l.line, l.prio, l.used))) with
        | some v => s.flushLine site v
        | none => s
    let c := s.col site
    s.setCol site { c with cache := c.cache ++ [⟨line, [], 0, [], [], prio, stamp⟩] }

/-- The fill of a sector, merged under the byte-dirty mask (R113). -/
def CLine.fill (l : CLine) (k : Nat) (data : List Byte) : CLine :=
  { l with
    data := ((List.range 32).zip data).foldl
      (fun m (j, b) => if l.dirty.contains (32 * k + j) then m else m.write (32 * k + j) b) l.data
    valid := setBit l.valid k true }

/-- The home has the bytes of a line as they stand: the dirty sectors that its field's column caches hold of it, or of the stored
lines behind a decoded line (R124, R127), are merged. -/
def State.homeReady (s : State) (pa : Nat) (but : Option Nat) : State :=
  let s := s.merge (pa / 256) but
  if paSlot pa < 960 then s
  else (((s.lineSources pa).map (· / 256)).eraseDups).foldl (fun s l => s.merge l none) s

/-- A sector of a line filled into a column's cache from its home, whose field first merges its dirty copies. -/
def State.fillSector (s : State) (site line prio k : Nat) : State :=
  let s := ((s.homeReady (256 * line) (some site)).touchSpan (256 * line) false).keepLine (256 * line) ⟨false, prio⟩
  let s := s.allocLine site line prio
  match (s.col site).line line with
  | none => s
  | some l => s.setCol site ((s.col site).setLine (l.fill k (s.homeBytes (256 * line + 32 * k) 32)))

/-- A load of at most one sector through the column cache: a hit may return what the line holds, older than the home
where the home lies in another field (R223); a miss fills (log entry 61, DEDUCED). -/
def State.loadCached (s : State) (site prio pa n : Nat) : Res (List Byte) :=
  let line := pa / 256
  let o := pa % 256
  let hit := match (s.col site).line line with | some l => l.has o n | none => false
  if !hit && (s.homeReady pa (some site)).homeBad (32 * (pa / 32)) 32 then .fault (Flt.ecc 2 false)
  else
    let s := if hit then s.allocLine site line prio else s.fillSector site line prio (o / 32)
    match (s.col site).line line with
    | none => .stall
    | some l => if l.badAt (o / 32) then .fault (Flt.ecc 4 false) else .ok (l.data.readBytes o n) s

/-- A load at the home as it stands: the column's own copy is written back and dropped first (R219). -/
def State.loadHome (s : State) (site pa n : Nat) (k : Keep) : Res (List Byte) :=
  let s := (((s.flushLine site (pa / 256)).homeReady pa none).touchSpan pa false).keepLine pa k
  if s.homeBad pa n then .fault (Flt.ecc 2 false) else .ok (s.homeBytes pa n) s

/-- A store into a write-back line of the column cache, without a fill (R113). Within the field the line is first
granted: other copies end and monitors fire (R218, R324) (log entry 61, DEDUCED). Bytes of a row directory are discarded (R9). -/
def State.storeCached (s : State) (site prio pa : Nat) (data : List Byte) : State :=
  let line := pa / 256
  let o := pa % 256
  let near := homeField pa == fieldOfSite site
  let cells := ((List.range data.length).zip data).filter (fun (j, _) => !s.dirKeeps (pa + j))
  let s := if near then ((s.recall line (some site)).fireLine line).wakeJoins pa data.length else s
  let s := s.allocLine site line prio
  match (s.col site).line line with
  | none => s
  | some l =>
    let l := { l with
      data := cells.foldl (fun m (j, b) => m.write (o + j) b) l.data
      dirty := l.dirty.filter (fun j => !cells.any (fun (i, _) => o + i == j)) ++ cells.map (fun (j, _) => o + j)
      bad := l.bad.filter (fun j => !cells.any (fun (i, _) => o + i == j)) }
    s.setCol site ((s.col site).setLine l)

/-- A store performed at its home by an agent of a column (R218). A copy of the column's own is updated where it is
present: its bytes are clean, a sector overwritten whole is good again (R113, R270), its priority rises, and it has been used (R112). -/
def State.storeHome (s : State) (site pa : Nat) (data : List Byte) (k : Keep) : State :=
  let line := pa / 256
  let o := pa % 256
  let n := data.length
  let s := s.recall line (some site)
  let s := match (s.col site).line line with
    | none => s
    | some l =>
      s.setCol site ((s.col site).setLine { l with
        data := ((List.range n).zip data).foldl (fun m (j, b) => if s.homeKeeps (pa + j) then m else m.write (o + j) b) l.data
        dirty := l.dirty.filter (fun j => !(o ≤ j && j < o + n))
        bad := l.bad.filter (fun j => !(o ≤ j && j < o + n))
        prio := max l.prio k.prio
        used := 1 + (s.col site).cache.foldl (fun m y => max m (CLine.used y)) 0 })
  (s.homeWrite pa data true).keepLine pa k

/-- The same for a store that takes its departure number as it is performed (R224). -/
def State.storeOut (s : State) (site pa : Nat) (data : List Byte) (k : Keep) : State :=
  ((s.storeHome site pa data k).depart (fieldOfSite site) (homeField pa) true).1

/-! ## Translation (R175-R179, R300) -/

/-- The levels of the page tables: the lowest VA bit indexed and the number of index bits (R175). -/
def ptLevels : List (Nat × Nat) := [(39, 9), (30, 9), (21, 9), (16, 5)]

/-- The attributes of a leaf (R176). -/
def Attr.ofLeaf (e : DWord) : Attr :=
  ⟨bit e 2, bit e 3, bits e 4 2, bit e 6, bits e 8 2, bit e 10, bit e 11, bit e 12⟩

/-- An 8-byte entry read whole at its home, with what the home's field holds dirty of it (R178). -/
def State.walkRead (s : State) (pa : Nat) : DWord := (s.merge (pa / 256) none).mem64 pa

/-- The walk of the page tables: a translation, or the subcode of its PAGE (R177); 0x0E02 where an entry holds an uncorrected
error (R270). -/
def State.walkFrom (s : State) (t : BitVec 4) (va : Nat) : Nat → List (Nat × Nat) → Except Nat TlbEntry
  | _, [] => .error 3
  | table, (lo, n) :: rest =>
    let a := table + 8 * (va / 2 ^ lo % 2 ^ n)
    let e := s.walkRead a
    if (s.merge (a / 256) none).homeBad a 8 then .error 0x0E02
    else if !bit e 0 then .error 1
    else if bits e 44 20 != 0 then .error 3
    else if bit e 1 then
      if lo == 39 || bits e 13 3 != 0 || bits e 4 2 == 3 || (bits e 16 28).toNat * 2 ^ 16 % 2 ^ lo != 0 then .error 3
      else .ok ⟨false, t, va / 2 ^ lo * 2 ^ lo, lo, (bits e 16 28).toNat * 2 ^ 16, Attr.ofLeaf e⟩
    else if lo == 16 || bits e 2 6 != 0 || (30 ≤ lo && bits e 8 4 != 0) then .error 3
    else State.walkFrom s t va ((bits e 8 36).toNat * 2 ^ 8) rest

/-- The walk of a tenant's tables (R175). The spec gives PTBASE no alignment to its table's 4 KiB: the walk starts where PTBASE
points, whatever its bits [11:8] hold (log entry 10, DESIGN CHOICE). -/
def State.walk (s : State) (t : BitVec 4) (va : Nat) : Except Nat TlbEntry := s.walkFrom t va (s.ten t).ptbase.toNat ptLevels

/-- The TLB entry of a column that covers an address (R179). -/
def Column.tlbFind (c : Column) (t : BitVec 4) (va : Nat) : Option TlbEntry :=
  c.tlb.find? (fun e => e.t == t && e.vbase ≤ va && va < e.vbase + 2 ^ e.lg)

/-- An entry filled into the TLB (R179): 64 KiB pages in 256 sets of 4 ways, and in the 64 entries of any page size while their
set is full; larger pages in those 64. The oldest entry of the kind gives way (log entry 10, DESIGN CHOICE). -/
def Column.tlbFill (c : Column) (e : TlbEntry) : Column :=
  let set : TlbEntry → Bool := fun x => !x.any_ && x.vbase / 2 ^ 16 % 256 == e.vbase / 2 ^ 16 % 256
  let setFull := 4 ≤ (c.tlb.filter set).length
  let anyFull := 64 ≤ (c.tlb.filter (·.any_)).length
  let inAny := e.lg != 16 || (setFull && !anyFull)
  let same : TlbEntry → Bool := fun x => if inAny then x.any_ else set x
  let full := if inAny then anyFull else setFull
  let l := if full then (match c.tlb.find? same with | some o => c.tlb.erase o | none => c.tlb) else c.tlb
  { c with tlb := l ++ [{ e with any_ := inAny }] }

/-- Are bits [63:47] of an address all equal (R300)? -/
def canonical (va : DWord) : Bool := bits va 47 17 == 0 || bits va 47 17 == BitVec.allOnes 17

/-- The 48-bit virtual address. -/
def va48 (va : DWord) : Nat := (bits va 0 48).toNat

/-- The columns whose requests a walk serves. -/
def Walk.columns (w : Walk) : List (BitVec 10) := w.sites ++ w.loads.map (·.2.1)

/-- The TLB misses of a column that are being served (R272). -/
def State.misses (s : State) (site : Nat) : Nat :=
  (s.span (spanOfSite site)).walks.foldl (fun n k => n + (k.columns.filter (fun x => x.toNat == site)).length) 0

/-- Do two addresses of a tenant lie in one page, of whatever size the tables give it (R178)? Where they hold no leaf for the first,
in one page of 64 KiB. -/
def State.samePage (s : State) (t : BitVec 4) (a b : Nat) : Bool :=
  let lg := match s.walk t a with | .ok e => e.lg | .error _ => 16
  a / 2 ^ lg == b / 2 ^ lg

/-- Does a request join a walk that is outstanding: it names the same page (R178)? -/
def State.joins (s : State) (t : BitVec 4) (va : Nat) (k : Walk) : Bool := k.t == t && !k.dropped && s.samePage t k.va va

/-- Does an asker still wait: the row's group has issued without its answer, or the job runs (R178)? -/
def State.asks (s : State) (a : Asker) : Bool :=
  match a with
  | .row k => (s.row k).mid != .none
  | .job site id => (s.col site.toNat).jobs.any (fun j => j.id == id && j.st == .running)

/-- The one that comes first of those that found 64 walks outstanding and still wait (R178). -/
def State.walkFirst (s : State) (i : Nat) : Option Asker := (s.span i).walkq.find? s.asks

/-- Must a miss of an agent wait: for a walk of its page, for one of the span's 64 walks or of the column's 16 misses to end, or for
one that came before it (R178, R272)? -/
def State.walkWaits (s : State) (w : Who) (va : Nat) : Bool :=
  let i := spanOfSite w.site
  let x := s.span i
  x.walks.any (s.joins w.t va) || 64 ≤ x.walks.length || 16 ≤ s.misses w.site ||
    (match s.walkFirst i with | some a => w.asker != some a | none => false)

/-- A row's group or a job waits for a walk: it is merged with the one outstanding for its page, or, where 64 are outstanding,
stands in the order of arrival; a seventeenth miss of a column waits at issue (R178, R272). -/
def State.waitWalk (s : State) (w : Who) (va : Nat) : State :=
  let i := spanOfSite w.site
  let x := s.span i
  match w.asker with
  | none => s
  | some a =>
    match x.walks.findIdx? (s.joins w.t va) with
    | some j =>
      if 16 ≤ s.misses w.site || x.walks.any (fun k => k.loads.any (fun y => y.1 == a)) then s
      else s.setSpan i { x with walks := x.walks.modify j (fun k => { k with loads := k.loads ++ [(a, BitVec.ofNat 10 w.site, va)] }) }
    | none =>
      if 64 ≤ x.walks.length && !x.walkq.contains a then s.setSpan i { x with walkq := x.walkq.filter s.asks ++ [a] } else s

/-- The fault of a walk that the issuing row's group, or a job, has waited for (R272). -/
def State.walkFault (s : State) (w : Who) (va : Nat) : Option Nat :=
  let l : List (Nat × Nat) := match w.asker with
    | none => []
    | some (.row _) => s.walked
    | some (.job site id) => (((s.col site.toNat).jobs.find? (fun j => j.id == id)).map (·.walked)).getD []
  (l.find? (fun x => x.1 == va / 2 ^ 16)).map (·.2)

/-- A translation by the TLB of the agent's column, or by a walk (R177-R179): the physical address, or the window offset
of a control-window page, and the attributes. -/
def State.translate (s : State) (w : Who) (write : Bool) (va : DWord) : Res (Nat × Attr) :=
  if !canonical va then .fault (Flt.page 1 va write)
  else
    let a := va48 va
    let use (e : TlbEntry) (s' : State) : Res (Nat × Attr) :=
      if (write && !e.attr.w) || (e.attr.sup && !w.sup) then .fault (Flt.page 2 va write)
      else .ok (e.frame + a % 2 ^ e.lg, e.attr) s'
    match (s.col w.site).tlbFind w.t a with
    | some e => use e s
    | none =>
      match s.walkFault w a with
      | some n => .fault (Flt.ofWalk n va write)
      | none =>
      if w.row && s.walkWaits w a then (if w.asker.isSome then .miss a else .stall)
      else
        match s.walk w.t a with
        | .error n => .fault (Flt.ofWalk n va write)
        | .ok e => use e (s.setCol w.site ((s.col w.site).tlbFill e))

/-! ## The physical map (R104-R111) -/

/-- Is the row that holds a layer-0 offset in a tenant's row pool (R111)? The listed bytes of the tenants' directories are
searched for a VALID entry that names the place. -/
def State.poolRow (s : State) (pa : Nat) : Bool :=
  let off := paOff pa
  let bank := off / 0x3000000
  let grp := off % 0x3000000 / 0x300000
  let idx := off % 0x300000 / 0x800
  s.tens.any (fun (_, x) =>
    let lo := x.dirbase.toNat
    x.st != .absent && x.st != .swapped && s.mem.any (fun (a, b) =>
      lo ≤ a && a < lo + 8 * x.dirsize.toNat && (a - lo) % 8 == 3 && bit b 4 &&
        (let e := DirEntry.ofBits (s.mem64 (a - 3))
         e.site.toNat == paSlot pa && e.bank.toNat == bank && e.group.toNat == grp && e.index.toNat == idx)))

/-- Is the row that holds a layer-0 offset one that firmware reserves for the engines of its column (R17, R111)? The spec leaves
open which rows those are: the last two of the layer, one for each array (log entry 67, DESIGN CHOICE). -/
def engineRow (off : Nat) : Bool := layerBytes - 0x1000 ≤ off && off < layerBytes

/-- The row and the byte that a control-window offset names (R109). -/
def windowLoc (t : BitVec 4) (o : Nat) : Option Loc :=
  if o < 2 ^ 35 then some (.rcb ⟨t, BitVec.ofNat 32 (o / 128)⟩ (o % 128))
  else if 2 ^ 39 ≤ o && o < 2 ^ 40 then
    some (.rowSpace ⟨t, BitVec.ofNat 32 ((o - 2 ^ 39) / 2048)⟩ ((o - 2 ^ 39) % 2048))
  else none

/-- The place that a translation names, or the subcode of its PAGE (R104-R111, R127, R389). -/
def State.locate (s : State) (w : Who) (pa : Nat) (attr : Attr) : Except Nat Loc :=
  if attr.cw then
    match windowLoc w.t pa with
    | some l => .ok l
    | none => .error 3
  else
    let slot := paSlot pa
    let off := paOff pa
    if slot < 960 then
      if !s.good slot || 4 * layerBytes ≤ off then .error 3
      else if off < layerBytes && (s.poolRow pa || engineRow off) then .error 2
      else if (s.rangeAt pa).isSome then .error 4
      else .ok (.dram pa)
    else if slot == 960 then
      if !w.row then .error 3
      else if off < 0x40000 then .ok (.scratch off)
      else if 0x1000000 ≤ off && off < 0x1F00000 then .ok (.spanScratch (off - 0x1000000))
      else if 0x2000000 ≤ off && off < 0x2010000 then .ok (.code (off - 0x2000000))
      else .error 3
    else if 1024 ≤ slot && slot < 1792 then
      let (i, k) := apertureOf pa
      if s.rangeOn i k then .ok (.aperture pa) else .error 3
    else if 4096 ≤ slot then
      let x := s.ten w.t
      let h := pa - 2 ^ 43
      if x.hwen && x.hwbase.toNat ≤ h && h < x.hwlimit.toNat then .ok (.host h) else .error 3
    else .error 3

/-- The refusal of an operation at a kind of place: the subcode of its PAGE (R108, R120, R127) (log entry 58, DEDUCED). -/
def State.refusal (s : State) (w : Who) (use : Use) (l : Loc) : Option Nat :=
  let xb := (s.col w.site).xb.toNat
  match use, l with
  | .atom, .dram _ => none
  | .atom, .spanScratch _ => none
  | .atom, _ => some 3
  | .fe, .dram _ => none
  | .fe, _ => some 3
  | .store, .aperture _ => some 4
  | .store, .code o => if o < xb then some 2 else none
  | .load, .code o => if 0x1000 ≤ o && o < xb then some 2 else none
  | _, _ => none

/-- The tenants that own good columns of a span (R115). -/
def State.spanOwners (s : State) (i : Nat) : List (BitVec 4) :=
  (s.cols.filter (fun (site, _) => spanOfSite site == i && s.good site)).filterMap (fun (_, c) => c.owner)

/-- Does the span scratchpad belong to the tenant: no other owns a good column of the span (R115)? Columns that belong to no tenant, of
which the rule does not speak, do not count (log entry 92, DESIGN CHOICE). -/
def State.spanOf (s : State) (i : Nat) (t : BitVec 4) : Bool := (s.spanOwners i).all (· == t)

/-- The bounds of a span-scratchpad access and the wait of a transition (R115, R116): a fault, a stall, or neither. -/
def State.spanCheck (s : State) (w : Who) (l : Loc) (write : Bool) : Res Unit :=
  match l with
  | .spanScratch o =>
    let i := spanOfSite w.site
    let x := s.span i
    let ways : Nat := match x.trans with | some n => min n.toNat x.wpart.toNat | none => x.wpart.toNat
    let growing : Bool := match x.trans with | some n => o < n.toNat * 2 ^ 20 | none => false
    if !s.spanOf i w.t then .fault ⟨0x06, 0, 0, write, 0⟩
    else if o < ways * 2 ^ 20 then
      (if bit x.waking (15 - o / 2 ^ 20) then .stall else .ok () s)
    else if growing then .stall
    else .fault ⟨0x06, 0, 0, write, 0⟩
  | _ => .ok () s

/-- The checks of R301 for an access aligned to `al`, in their order (log entry 58, DEDUCED). -/
def State.check (s : State) (w : Who) (use : Use) (va : DWord) (al : Nat) : Res (Loc × Attr) :=
  if !aligned va.toNat al then .fault (Flt.align va use.write)
  else
    (s.translate w use.write va).bind fun (pa, attr) s =>
      match s.locate w pa attr with
      | .error n => .fault (Flt.page (BitVec.ofNat 8 n) va use.write)
      | .ok l =>
        match s.refusal w use l with
        | some n => .fault (Flt.page (BitVec.ofNat 8 n) va use.write)
        | none => (s.spanCheck w l use.write).bind fun _ s => .ok (l, attr) s

/-- An access: its checks, then migrate-on-touch, which moves the row before the access is performed (R107, R258). -/
def State.access (s : State) (w : Who) (use : Use) (va : DWord) (al : Nat) : Res (Loc × Attr) :=
  (s.check w use va al).bind fun (l, attr) s =>
    match l with
    | .dram pa => if w.row && attr.mot && paSlot pa != w.site then .move (paSlot pa) else .ok (l, attr) s
    | _ => .ok (l, attr) s

/-! ## What an access of a row must follow (R219, R220, R228) -/

/-- Does [a, a + m) meet [b, b + n)? -/
def meets (a m b n : Nat) : Bool := a < b + n && b < a + m

/-- Has the row an early store whose page offset meets the access (R219, R240)? -/
def State.earlyMeets (s : State) (k : RowKey) (va : DWord) (n : Nat) : Bool :=
  (s.row k).early.any (fun e => meets (e.va.toNat % 2 ^ 16) e.data.length (va.toNat % 2 ^ 16) n)

/-- Do `n` bytes at one place meet `m` bytes at another? -/
def Loc.meets (a : Loc) (n : Nat) (b : Loc) (m : Nat) : Bool :=
  match a, b with
  | .dram x, .dram y => Machine.meets x n y m
  | .host x, .host y => Machine.meets x n y m
  | .scratch x, .scratch y => Machine.meets x n y m
  | .spanScratch x, .spanScratch y => Machine.meets x n y m
  | .code x, .code y => Machine.meets x n y m
  | _, _ => false

/-- Does the place lie in the control window? -/
def Loc.window (l : Loc) : Bool :=
  match l with
  | .rcb _ _ => true
  | .rowSpace _ _ => true
  | _ => false

/-- The place of a reduction element. -/
def Red.loc (r : Red) : Loc := if r.scratch then .spanScratch r.pa else .dram r.pa

/-- Does a parked home operation meet `n` bytes at a place? -/
def HomeDo.meets (op : HomeDo) (l : Loc) (n : Nat) : Bool :=
  match op with
  | .atom _ size scratch pa _ _ _ _ _ => (if scratch then Loc.spanScratch pa else .dram pa).meets size l n
  | .stfe pa _ _ => (Loc.dram pa).meets 8 l n
  | .hgive _ _ _ => false
  | .hrel _ => false

/-- Is an operation of the row on the location still in flight: a parked release, a reduction, a home operation, an outside
store (R219, R225, R228)? -/
def State.busyAt (s : State) (k : RowKey) (l : Loc) (n : Nat) : Bool :=
  match l with
  | .rcb k' _ => s.outside.any (fun x => x.row == k' && x.agent.is k) || !(s.row k).early.isEmpty
  | .rowSpace k' _ => s.outside.any (fun x => x.row == k' && x.agent.is k) || !(s.row k).early.isEmpty
  | _ =>
    s.parked.any (fun p => p.row == k && p.loc.meets p.data.length l n) ||
    s.reds.any (fun r => r.row == k && r.counted && r.loc.meets r.size l n) ||
    s.homeOps.any (fun p => p.row == k && p.op.meets l n)

/-- The same for a store at place `q` of its row's program order: outside stores of one row reach their target in issue order
(R233) and need not wait, but for those before it that still lack their translation. -/
def State.busyStore (s : State) (k : RowKey) (l : Loc) (n q : Nat) : Bool :=
  if l.window then (s.row k).early.any (fun e => e.seq < q) else s.busyAt k l n

/-- Is an early store a reduction? -/
def EarlyStore.reduces (e : EarlyStore) : Bool := match e.kind with | .reduce _ _ _ => true | _ => false

/-- Has the row a release parked at a home, or a reduction or a home operation in flight (R220, R225)? -/
def State.owes (s : State) (k : RowKey) : Bool :=
  s.parked.any (fun p => p.row == k) || s.reds.any (fun r => r.row == k && r.counted) || s.homeOps.any (fun p => p.row == k)

/-- Has the row a reduction or a home operation in flight at the home span, or a reduction that has left before its walk has
ended (R228, R302)? -/
def State.owesAt (s : State) (k : RowKey) (span : Nat) : Bool :=
  (s.row k).early.any EarlyStore.reduces ||
  s.reds.any (fun r => r.row == k && r.counted && r.span.toNat == span) ||
    s.homeOps.any (fun p => p.row == k && p.home.toNat == span)

/-- May an early store be one to the control window, by the walk of its page as the tables stand (R233, R302)? -/
def State.earlyWindow (s : State) (k : RowKey) (e : EarlyStore) : Bool :=
  match s.walk k.t (va48 e.va) with
  | .ok x => x.attr.cw
  | .error _ => false

/-- Is a release of the row still to become visible, behind which an acquire waits (R220)? Those that wait for the replay of a
faulted store are left out (log entry 50, DEDUCED). -/
def State.releasing (s : State) (k : RowKey) : Bool :=
  ((s.parked.filter (fun x => x.row == k)).map (·.seq) ++
    (s.reds.filter (fun x => x.row == k && x.counted && x.rel)).map (·.seq) ++
    (s.homeOps.filter (fun x => x.row == k)).map (·.seq) ++ (s.outside.filter (fun x => x.agent.is k && x.rel)).map (·.seq) ++
    (s.pushes.filter (fun x => x.row == k)).map (·.seq) ++ (s.spawns.filter (fun x => x.src == k)).map (·.seq) ++
    ((s.row k).early.filter (fun e => match e.kind with
      | .plain => s.earlyWindow k e
      | .release _ => true
      | .reduce _ rel _ => rel)).map (·.seq)).any (fun n => !s.stuck k n)

/-! ## The control window (R87, R109, R110) -/

/-- The slot a row sits in, if it is placed in one. -/
def State.slotOf (s : State) (k : RowKey) : Option Slot :=
  let d := s.dir k
  let e := s.executor d.site.toNat d.bank
  match e.find k with
  | some i => e.slots[i]
  | none => none

/-- Is the row in transit: MOVING, or its slot opening or closing (R110)? Accesses wait until the transit ends. -/
def State.inTransit (s : State) (k : RowKey) : Bool :=
  (s.row k).st == .moving ||
    (match s.slotOf k with | some sl => sl.phase == .opening || sl.phase == .closing | none => false)

/-- Stands an open row between two boundaries: inside a group, or behind one whose answer it awaits (R53, R255)? -/
def State.betweenBoundaries (s : State) (k : RowKey) : Bool :=
  (s.row k).st == .open_ && ((s.row k).await.isSome || (s.row k).inGroup || !(s.row k).run.isEmpty)

/-- Stands an open row inside a group: behind a hint of it (R53), or behind some units of a progressive one (R255)? -/
def State.insideGroup (s : State) (k : RowKey) : Bool :=
  (s.row k).st == .open_ && ((s.row k).inGroup || !(s.row k).run.isEmpty)

/-- A load of a row's bytes or RCB through the control window (R87, R109, R110): it is served at an instruction boundary of the row,
and waits for its answer; row bytes with an uncorrected error fault (R270). -/
def State.windowLoad (s : State) (k : RowKey) (rcb : Bool) (off n : Nat) (va : DWord) : Res (List Byte) :=
  if !s.held k then .fault (Flt.page 3 va false)
  else if s.inTransit k || s.betweenBoundaries k then .stall
  else if !rcb && poisoned (s.row k).bad off n then .fault (Flt.ecc 1 false)
  else .ok (if rcb then (s.row k).rcbBytes off n else (s.row k).bytes off n) s

/-- A store through the control window leaves for its row's port (R87), at place `seq` of its row's program order. A CMD store is
a release at the scope that covers both rows (R233), and a store-release one at its own (`scope`; none for a relaxed store): it
carries its vector when it leaves the field (R225); the column's dirty lines of other fields, which no other column sees, are
written back first (R220, R223). -/
def State.windowStore (s : State) (w : Who) (a : Agent) (k : RowKey) (rcb : Bool) (off : Nat) (data : List Byte) (seq : Nat)
    (scope : Option Nat) (v : Option (Vector (BitVec 32) 12)) : State :=
  let f := fieldOfSite w.site
  let g := fieldOfSite (s.dir k).site.toNat
  let cmd := rcb && storeCmd off data != 0
  let wide := (cmd && f != g) || (match scope with | some n => 3 ≤ n | none => false)
  let s := if cmd || (match scope with | some n => 1 ≤ n | none => false) then s.releaseFar w.site else s
  let vec := if wide && f != g then
      (match a with | .row k' _ _ => some (v.getD (s.releaseVec k' f)) | _ => none) else none
  let (s, num) := s.depart f g false
  { s with outside := s.outside ++ [⟨k, seq, cmd || scope.isSome, rcb, off, data, a, w.sup, vec, num⟩], ops := max s.ops seq }

/-! ## Loads and stores of every kind of place -/

/-- The cache level in force: the less cached of the page's and the hint's (R58); NC of an aperture is applied as SO,
which the column cache does not hold either (R108). -/
def levelOf (attr : Attr) (h : CacheHint) : Nat := max attr.lvl.toNat (h.lvl - 1)

/-- The eviction priority of an access: CACHEX's, else the page's (R58, R112). -/
def prioOf (attr : Attr) (h : CacheHint) : Nat := h.ep.getD attr.ep.toNat

/-- What an access to DRAM makes of its line at the home (R107, R303). -/
def keepOf (attr : Attr) (h : CacheHint) : Keep := ⟨levelOf attr h == 2, prioOf attr h⟩

/-- A load of `n` bytes at a place. -/
def State.loadAt (s : State) (w : Who) (l : Loc) (attr : Attr) (h : CacheHint) (va : DWord) (n : Nat) : Res (List Byte) :=
  match l with
  | .dram pa =>
    if levelOf attr h == 0 then s.loadCached w.site (prioOf attr h) pa n else s.loadHome w.site pa n (keepOf attr h)
  | .aperture pa =>
    if levelOf attr h == 0 then s.loadCached w.site (prioOf attr h) pa n else s.loadHome w.site pa n ⟨false, prioOf attr h⟩
  | .host a => .ok (s.host.readBytes a n) s
  | .scratch o =>
    let c := s.col w.site
    if poisoned c.badScratch o n then .fault (Flt.ecc 4 false) else .ok (c.scratch.readBytes o n) s
  | .spanScratch o =>
    let x := s.span (spanOfSite w.site)
    if poisoned x.bad o n then .fault (Flt.ecc 5 false) else .ok (x.scratch.readBytes o n) s
  | .code o =>
    let c := s.col w.site
    if poisoned c.badCode o n then .fault (Flt.ecc 3 false) else .ok (c.code.readBytes o n) s
  | .rcb k o => s.windowLoad k true o n va
  | .rowSpace k o => s.windowLoad k false o n va

/-- Bytes stored into a column's scratchpad (R118). -/
def Column.scratchStore (c : Column) (o : Nat) (data : List Byte) : Column :=
  { c with scratch := c.scratch.writeBytes o data, badScratch := unpoison c.badScratch o data.length }

/-- A relaxed store of bytes at a place, at place `seq` of its row's program order. -/
def State.storeAt (s : State) (w : Who) (a : Agent) (l : Loc) (attr : Attr) (h : CacheHint) (data : List Byte) (seq : Nat) :
    State :=
  match l with
  | .dram pa =>
    if levelOf attr h != 0 then (s.flushLine w.site (pa / 256)).storeOut w.site pa data (keepOf attr h)
    else if attr.wt || h.wt then s.storeOut w.site pa data (keepOf attr h)
    else s.storeCached w.site (prioOf attr h) pa data
  | .aperture _ => s
  | .host x => { s with host := s.host.writeBytes x data }
  | .scratch o => s.setCol w.site ((s.col w.site).scratchStore o data)
  | .spanScratch o =>
    let i := spanOfSite w.site
    let x := s.span i
    s.setSpan i { x with scratch := x.scratch.writeBytes o data, bad := unpoison x.bad o data.length }
  | .code o =>
    let c := s.col w.site
    s.setCol w.site { c with code := c.code.writeBytes o data, badCode := unpoison c.badCode o data.length }
  | .rcb k o => s.windowStore w a k true o data seq none none
  | .rowSpace k o => s.windowStore w a k false o data seq none none

/-! ## The accesses of the issuing row -/

/-- The bytes of a receive window that an access above FILL waits for (R119): the window and the end of the access. -/
def fillNeed (l : Loc) (n : Nat) : Option (BitVec 3 × Nat) :=
  match l with
  | .scratch o => if o < 0x20000 then some (BitVec.ofNat 3 (o / 0x4000), o % 0x4000 + n) else none
  | _ => none

/-- The watermark of a receive window: WMKk.FILL (R95). -/
def Column.fillOf (c : Column) (k : BitVec 3) : Nat := c.wmk[k.toNat].toNat

/-- The wait of R119 at a column: nothing when the access lies below FILL or in no window. -/
def State.fillWaitAt (s : State) (site : Nat) (l : Loc) (n : Nat) : Res Unit :=
  match fillNeed l n with
  | some (k, e) => if e ≤ (s.col site).fillOf k then .ok () s else .wait 5 (some (k, e))
  | none => .ok () s

/-- The wait of R119 for the issuing row. -/
def State.fillWait (s : State) (l : Loc) (n : Nat) : Res Unit := s.fillWaitAt s.here l n

/-- The issuing row as the storing agent of a control-window store. -/
def State.agent (s : State) (va : DWord) : Agent := .row s.cur s.group va

/-- The values that later loads of the issuing row have fixed of `n` bytes at a place are void: it stores there, or loads them
(R219). -/
def State.dropAhead (s : State) (l : Loc) (n : Nat) : State :=
  match l with
  | .dram pa =>
    if (s.me).ahead.isEmpty then s else s.setMe { s.me with ahead := (s.me).ahead.filter (fun x => !meets x.1 x.2.length pa n) }
  | _ => s

/-- The bytes of a place whose value the load now at hand has fixed already, as one access (R218, R219, R220) (log entry 90, DESIGN
CHOICE). -/
def State.aheadAt (s : State) (l : Loc) (n : Nat) : Option (List Byte) :=
  match l with
  | .dram pa => ((s.me).ahead.find? (fun x => x.1 == pa && x.2.length == n)).map (·.2)
  | _ => none

/-- A relaxed load of the issuing row (R304): `n` bytes, aligned to `n`. -/
def State.rowLoad (s : State) (h : CacheHint) (va : DWord) (n : Nat) : Res (List Byte) :=
  (s.access s.who .load va n).bind fun (l, attr) s =>
    if s.earlyMeets s.cur va n || s.busyAt s.cur l n then .stall
    else (s.fillWait l n).bind fun _ s =>
      match s.aheadAt l n with
      | some bs => .ok bs (s.dropAhead l n)
      | none => (s.dropAhead l n).loadAt s.who l attr h va n

/-- Has the issuing row something before its next word that no later load may pass: a store to be made again at a boundary, or an
operation at a home, a push or a spawn message whose answer is still to come (R220, R240)? -/
def State.aheadBarred (s : State) : Bool :=
  (s.me).madeFrom.isSome || s.homeOps.any (fun x => x.row == s.cur) || s.pushes.any (fun x => x.row == s.cur) ||
    s.spawns.any (fun x => x.src == s.cur)

/-- A later relaxed load of the row in the seat fixes the value of `n` bytes of one sector now, as one access, before the words that
precede it (R218, R219, R220): those of DRAM, which no write of the row on its way meets (R219) (log entry 90, DESIGN CHOICE). -/
def State.loadAhead (s : State) (va : DWord) (n : Nat) : State :=
  if !s.seated || (s.me).await.isSome || s.aheadBarred || n == 0 || 32 < va.toNat % 32 + n then s
  else
    match s.check { s.who with asker := none } .load va n with
    | .ok (.dram pa, attr) s' =>
      if attr.mot || s'.earlyMeets s'.cur va n || s'.busyAt s'.cur (.dram pa) n then s
      else
        match s'.loadAt s'.who (.dram pa) attr CacheHint.none va n with
        | .ok bs t =>
          let t := t.dropAhead (.dram pa) n
          t.setMe { t.me with ahead := (t.me).ahead ++ [(pa, bs)] }
        | _ => s
    | _ => s

/-- Does a store of the issuing row leave before its walk ends (R240, R302)? It may when its translation misses the TLB and the
miss can be served, or is merged with one that is (R178, R272); the model's `early` chooses (log entry 7, DESIGN CHOICE). -/
def State.leavesEarly (s : State) (va : DWord) : Bool :=
  let x := s.span (spanOfSite s.here)
  s.early && canonical va && ((s.col s.here).tlbFind s.cur.t (va48 va)).isNone && s.misses s.here < 16 &&
    ((x.walks.length < 64 && (s.walkFirst (spanOfSite s.here)).isNone) || x.walks.any (s.joins s.cur.t (va48 va)))

/-- A store leaves before its walk ends: it is on the row's list, and the walk is outstanding, merged with one of the same
page (R178). A release has its vector from here on (R225). -/
def State.storeEarly (s : State) (kind : EarlyKind) (h : CacheHint) (va : DWord) (data : List Byte) : State :=
  let r := s.me
  let seq := s.ops + 1
  let v := s.releaseVec s.cur s.myField
  let i := spanOfSite s.here
  let x := s.span i
  let own := va48 va / 2 ^ 16 * 2 ^ 16
  let (page, walks) : Nat × List Walk := match x.walks.findIdx? (s.joins s.cur.t (va48 va)) with
    | some j => (((x.walks[j]?).map (·.va)).getD own,
        x.walks.modify j (fun k => { k with rows := k.rows ++ [s.cur], sites := k.sites ++ [s.seat.site] }))
    | none => (own, x.walks ++ [⟨s.cur.t, own, [s.cur], [s.seat.site], [], false⟩])
  let e : EarlyStore := ⟨seq, kind, s.group, va, data, r.priv, h, v, page, false, none, none⟩
  let s' : State := { s.setMe { r with ahead := [], early := r.early ++ [e] } with ops := seq }
  s'.setSpan i { x with walks := walks }

/-- A relaxed store of the issuing row, aligned to its size (R304). -/
def State.rowStore (s : State) (h : CacheHint) (va : DWord) (data : List Byte) : Res Unit :=
  let n := data.length
  if !aligned va.toNat n then .fault (Flt.align va true)
  else if s.earlyMeets s.cur va n then .stall
  else if s.leavesEarly va then .ok () (s.storeEarly .plain h va data)
  else
    (s.access s.who .store va n).bind fun (l, attr) s =>
      if s.busyStore s.cur l n (s.ops + 1) then .stall
      else (s.fillWait l n).bind fun _ s => .ok () ((s.dropAhead l n).storeAt s.who (s.agent va) l attr h data (s.ops + 1))

/-- A word's release vector joined into the row's dependency vector at an acquire (R224). -/
def State.acquireVec (s : State) (k : RowKey) (pa n : Nat) : State :=
  (s.relvec.filter (fun (w, _) => meets (4 * w) 4 pa n)).foldl (fun s (_, v) =>
    let r := s.row k
    s.setRow k { r with dv := Vector.ofFn (fun (j : Fin 12) => if bit (r.dv[j] - v[j]) 31 then v[j] else r.dv[j]) }) s

/-- The vectors of the store-releases that `n` bytes of a row's window hold, joined likewise (R224). -/
def State.acquireWindow (s : State) (k : RowKey) (x : RowKey) (at_ n : Nat) : State :=
  ((s.row x).vecs.filter (fun (w, _) => meets (4 * w) 4 at_ n)).foldl (fun s (_, v) =>
    let r := s.row k
    s.setRow k { r with dv := Vector.ofFn (fun (j : Fin 12) => if bit (r.dv[j] - v[j]) 31 then v[j] else r.dv[j]) }) s

/-- An acquire of the issuing row at a scope: at WAFER and SYSTEM scope the lines homed in other fields leave the column's
cache (R223). -/
def State.acquire (s : State) (scope : Nat) : State := if 3 ≤ scope then s.acquireFar s.here else s

/-- An acquire load (R316, R223, R224): it follows every release of the row (R220). -/
def State.rowAcquire (s : State) (h : CacheHint) (scope : Nat) (va : DWord) (n : Nat) : Res (List Byte) :=
  (s.access s.who .load va n).bind fun (l, attr) s =>
    if s.earlyMeets s.cur va n || s.busyAt s.cur l n || s.releasing s.cur then .stall
    else
      (s.fillWait l n).bind fun _ s =>
        ((s.acquire scope).loadAt s.who l attr h va n).bind fun bs s =>
          match l with
          | .dram pa => .ok bs (s.acquireVec s.cur pa n)
          | .rowSpace k o => .ok bs (s.acquireWindow s.cur k o n)
          | .rcb k o => .ok bs (s.acquireWindow s.cur k (2048 + o) n)
          | _ => .ok bs s

/-- May what stands at place `q` of a row's program order become visible as a release in field `g`, coming from field `f`: every
earlier write of the row has performed, none waits for its translation or its replay, and the field knows every write that the
vector names (R220, R225, R240)? -/
def State.releasable (s : State) (k : RowKey) (q f g : Nat) (v : Option (Vector (BitVec 32) 12)) : Bool :=
  !s.stuck k q && !s.before k q && (f == g || (match v with | some x => covers (s.field g).fav x | none => true))

/-- The 4-byte words of [pa, pa + n) that a write there reaches, none of its bytes being discarded (R150), carry a vector. -/
def State.carry (s : State) (pa n : Nat) (v : Vector (BitVec 32) 12) : State :=
  ((List.range (n / 4)).map (fun j => pa / 4 + j)).foldl (fun s w =>
    if s.overwritten 4 pa n w then { s with relvec := NMap.set s.relvec w v } else s) s

/-- A store-release performed: in DRAM its value carries its vector, where it has one (R224, R225); elsewhere, and below WAFER
scope, it is the store. `out` says whether it takes its departure number now. -/
def State.applyRelease (s : State) (k : RowKey) (site : Nat) (l : Loc) (attr : Attr) (h : CacheHint) (data : List Byte)
    (vec : Option (Vector (BitVec 32) 12)) (out : Bool) : State :=
  match l, vec with
  | .dram pa, some v =>
    let s := s.flushLine site (pa / 256)
    let s := if out then s.storeOut site pa data (keepOf attr h) else s.storeHome site pa data (keepOf attr h)
    s.carry pa data.length v
  | _, _ => s.storeAt ⟨k.t, true, site, true, none⟩ .core l attr h data 0

/-- The field of a place's home: an access without one, or by the column itself, stays in the field `f`. -/
def Loc.field (l : Loc) (f : Nat) : Nat :=
  match l with
  | .dram pa => homeField pa
  | _ => f

/-- A store-release of a row leaves its column (R316, R225), with a vector that it has already or that it takes now: the column's
dirty lines of other fields, which no other column sees, are written back first (R220, R223); it is parked at its home until it may
become visible. -/
def State.sendRelease (s : State) (k : RowKey) (w : Who) (a : Agent) (h : CacheHint) (scope : Nat) (l : Loc) (attr : Attr)
    (data : List Byte) (seq : Nat) (v : Option (Vector (BitVec 32) 12)) : State :=
  match l with
  | .rcb k' o => s.windowStore w a k' true o data seq (some scope) v
  | .rowSpace k' o => s.windowStore w a k' false o data seq (some scope) v
  | _ =>
    let s := if 1 ≤ scope then s.releaseFar w.site else s
    let f := fieldOfSite w.site
    let g := l.field f
    let vec := if 3 ≤ scope then some (v.getD (s.releaseVec k f)) else none
    if s.releasable k seq f g vec then s.applyRelease k w.site l attr h data vec true
    else
      let (s, num) := s.depart f g false
      { s with parked := s.parked ++ [⟨k, seq, BitVec.ofNat 10 w.site, l, attr, h, data, vec, num⟩], ops := max s.ops seq }

/-- A release store of the issuing row (R316). It may leave before its walk ends (R302). -/
def State.rowRelease (s : State) (h : CacheHint) (scope : Nat) (va : DWord) (data : List Byte) : Res Unit :=
  let n := data.length
  if !aligned va.toNat n then .fault (Flt.align va true)
  else if s.earlyMeets s.cur va n then .stall
  else if s.leavesEarly va then .ok () (s.storeEarly (.release scope) h va data)
  else
    (s.access s.who .store va n).bind fun (l, attr) s =>
      if s.busyStore s.cur l n (s.ops + 1) then .stall
      else (s.fillWait l n).bind fun _ s =>
        .ok () (s.sendRelease s.cur s.who (s.agent va) h scope l attr data (s.ops + 1) none)

/-- The address of request `j` of a PREFX at A: its line (R60). -/
def prefetchAt (va : DWord) (stride : BitVec 16) (j : Nat) : DWord :=
  (va + (sext 64 stride) * BitVec.ofNat 64 (256 * (j + 1))) &&& ~~~(0xFF : DWord)

/-- A fetch of PREFX (R60): lines A + j · STRIDE · 256 are requested; a request that would fault, names no DRAM or
aperture, or whose page is uncached is dropped. -/
def State.prefetch (s : State) (va : DWord) (stride : BitVec 16) (count : Nat) (so : Bool) : State :=
  (List.range count).foldl (fun s j =>
    let a := prefetchAt va stride j
    match s.check s.who .load a 1 with
    | .ok (l, attr) s' =>
      let go (pa : Nat) : State :=
        if attr.lvl == 2 then s
        else if so || attr.lvl == 1 then (s'.touchSpan pa false).keepLine pa ⟨false, attr.ep.toNat⟩
        else
          let s'' := (List.range 8).foldl (fun x k =>
            if (x.homeReady pa (some x.here)).homeBad (pa / 256 * 256 + 32 * k) 32 then x
            else if (match (x.col x.here).line (pa / 256) with | some ln => bit ln.valid k | none => false) then x
            else x.fillSector x.here (pa / 256) attr.ep.toNat k) s'
          s''
      match l with
      | .dram pa => go pa
      | .aperture pa => go pa
      | _ => s
    | _ => s) s

/-- Must a request of PREFX wait for a walk before it can be made or dropped (R60, R178)? The first such, as the translation
answers. -/
def State.prefetchWaits (s : State) (va : DWord) (stride : BitVec 16) (count : Nat) : Res Unit :=
  (List.range count).foldl (fun acc j => acc.bind fun _ _ =>
    match s.translate s.who false (prefetchAt va stride j) with
    | .stall => .stall
    | .miss v => .miss v
    | _ => .ok () s) (.ok () s)

end Sys2Proof.Machine
end

