-- ==== Sys2Proof/Machine/Operands.lean ====
section
/-! DEFINITION. The operands of a group: the guard (R47), the immediates and the hints of its run (R48, R52-R60), and how
the result of an access ends the group. -/

namespace Sys2Proof.Machine

/-! ## Hints (R52, R55) -/

/-- The kind of a HINT word: bits [25:22] (R44). -/
def hintKind (w : Word) : Nat := (bits w 22 4).toNat

/-- The payload of a HINT word: bits [21:0] (R44). -/
def hintPayload (w : Word) : BitVec 22 := bits w 0 22

/-- The payload of the first hint of a kind in the group's run. -/
def State.hint (s : State) (k : Nat) : Option (BitVec 22) := (s.run.find? (fun w => hintKind w == k)).map hintPayload

/-- The IMMX payloads of the run, in address order. -/
def State.immx (s : State) : List (BitVec 22) := (s.run.filter (fun w => hintKind w == 0)).map hintPayload

/-- An immediate with the IMMX payloads of its group above it: the last payload stands directly above the field (R48). -/
def extendImm {k : Nat} (l : List (BitVec 22)) (i : BitVec k) : DWord :=
  match l with
  | [] => sext 64 i
  | [e] => sext 64 (e ++ i)
  | [e1, e2] => sext 64 (e1 ++ e2 ++ i)
  | _ => sext 64 i

/-- The immediate operand of an I or W word (R48). -/
def State.imm {k : Nat} (s : State) (i : BitVec k) : DWord := extendImm s.immx i

/-- The address of an M-format word: row.g[ra] plus the immediate times the access size (R48, R300). -/
def State.mAddr (s : State) (a : BitVec 6) (i : BitVec 11) (size : Nat) : DWord :=
  (s.me).rg a + s.imm i * BitVec.ofNat 64 size

/-- What the CACHEX of the run changes (R58): LVL [1:0], WP [3:2], EPV [5:4], EPE [6]. -/
def State.cache (s : State) : CacheHint :=
  match s.hint 2 with
  | none => CacheHint.none
  | some p =>
    ⟨(bits p 0 2).toNat, bits p 2 2 == 2, if bit p 6 then some (bits p 4 2).toNat else none⟩

/-- The scope of an ordering operation: SCOPEX replaces the default (R60, R217). -/
def State.scope (s : State) (dflt : Nat) : Nat :=
  match s.hint 3 with
  | some p => (bits p 0 3).toNat
  | none => dflt

/-- The rounding mode in force: RNDX replaces FMT.RND (R64, R425). -/
def State.mode (s : State) : Mode :=
  match s.hint 1 with
  | some p => modeOf (bits p 0 3).toNat
  | none => modeOf (s.me).rnd

/-- What the roundings of an element instruction depend on: the mode, FMT.SAT and FMT.FTZ (R64). -/
def State.ctl (s : State) : RoundCtl := ⟨s.mode, (s.me).fsat, (s.me).ftz⟩

/-- The prefetches that the PREFX of the run requests for an access at `va` (R60): none for a re-issued group with PROG
non-zero. -/
def State.prefx (s : State) (va : DWord) : State :=
  match s.hint 4 with
  | none => s
  | some p => if (s.me).prog != 0 then s else s.prefetch va (bits p 0 16) ((bits p 16 5).toNat + 1) (bit p 21)

/-- Must the group wait for a walk that a request of its PREFX needs (R60, R178)? -/
def State.prefxWaits (s : State) (va : DWord) : Res Unit :=
  match s.hint 4 with
  | none => .ok () s
  | some p => if (s.me).prog != 0 then .ok () s else s.prefetchWaits va (bits p 0 16) ((bits p 16 5).toNat + 1)

/-! ## The guard (R47) -/

/-- A guarded word: with a guard of 0 the group ends with no effect; otherwise the body has its effect. -/
def State.guarded (s : State) (p : BitVec 3) (body : State → State) : State :=
  if (s.me).rp p then body s else s.advance

/-- The outcome of a word: only an open row in its seat executes one. -/
def word (s : State) (p : BitVec 3) (body : State → State) : Host.Outcome State Fault Refusal :=
  if s.seated then .next (s.guarded p body) else .fault .noOpenRow

/-- The outcome of a word without a guard (B and H formats, R47). -/
def wordAlways (s : State) (body : State → State) : Host.Outcome State Fault Refusal :=
  if s.seated then .next (body s) else .fault .noOpenRow

end Sys2Proof.Machine
end

