-- ==== Sys2Proof/Machine/Faults.lean ====
section
/-! DEFINITION. Taking a fault (R261-R267, R147) and the ends of an access that is not performed. -/

namespace Sys2Proof.Machine

/-! ## Codes and records (R261, R262) -/

/-- The class of a fault code (R261). TRAP and BKPT, which are no faults, have none: 0. -/
def classOf (code : BitVec 8) : BitVec 3 :=
  match code.toNat with
  | 1 | 2 | 3 => 0
  | 4 | 5 | 6 | 7 => 1
  | 8 => 2
  | 9 | 10 | 11 => 3
  | 12 => 4
  | 13 => 5
  | 14 => 6
  | 15 => 7
  | _ => 0

/-- Where a row's record says it was reported: the site and the executor of the row's place (R262). -/
structure Reported where
  site : BitVec 10
  bank : BitVec 3
  deriving DecidableEq, Repr

/-- The 64 bytes of a fault record (R262). -/
def recordBytes (i : FaultInfo) (t : BitVec 4) (rowid launch : BitVec 32) (at_ : Reported) (time : DWord)
    (sup posted nested nofrec scatter : Bool) : List Byte :=
  toBytes 4 ((i.cls ++ i.sub ++ i.code).setWidth 32 : BitVec 32) ++
  toBytes 4 ((BitVec.ofBool scatter ++ BitVec.ofBool nofrec ++ BitVec.ofBool nested ++ BitVec.ofBool posted ++
    BitVec.ofBool sup ++ BitVec.ofBool i.write ++ BitVec.ofBool i.defer).setWidth 32 : BitVec 32) ++
  toBytes 4 rowid ++
  toBytes 4 ((t ++ i.job).setWidth 32 : BitVec 32) ++
  toBytes 4 i.ipc ++ toBytes 4 i.cpc ++ toBytes 8 i.addr ++ toBytes 8 i.opRec ++ toBytes 4 i.prog ++
  toBytes 4 ((at_.bank ++ at_.site).setWidth 32 : BitVec 32) ++
  toBytes 8 time ++ toBytes 4 launch ++ toBytes 4 (0 : BitVec 32)

/-- The information of a fault raised at the group of a row (R266): IPC = CPC = the group's address. -/
def Row.info (r : Row) (f : Flt) : FaultInfo :=
  ⟨f.code, f.sub, classOf f.code, f.write, false, r.pc, r.pc, f.addr, f.opRec, r.prog, 0⟩

/-! ## The store of the record (R263) -/

/-- What comes of the record store at FREC: stored, not storable (FREC 0 or the store would fault), or to be waited for. -/
inductive FrecRes where
  | stored (s : State)
  | bad
  | later

/-- Row bytes written from outside: a word overwritten whole has its uncorrected error no longer (R87, R270). -/
def Row.outsideBytes (r : Row) (off : Nat) (data : List Byte) : Row :=
  { r.setBytes off data with bad := unpoison r.bad off data.length }

/-- An outside store applied at once to a row in no transit (R87); none where R89 refuses it. -/
def State.applyWindow (s : State) (k : RowKey) (rcb : Bool) (off : Nat) (data : List Byte) (sup : Bool) : Option State :=
  let r := s.row k
  if rcb then (if r.rcbStoreRefused sup false off data then none else some (s.rcbApply k off data))
  else some (s.setRow k (r.outsideBytes off data))

/-- Must the record store of a row at a place wait: for an operation that the row has sent off to those bytes (R263), save what
is to be made on the row's behalf at a boundary and what stands behind it, or for a row it goes to, which is in transit, inside a group or awaiting an answer (R87,
R110)? -/
def State.recordWaits (s : State) (k : RowKey) (l : Loc) (va : DWord) : Bool :=
  let target (k' : RowKey) : Bool :=
    let r := s.row k'
    s.inTransit k' || s.outside.any (fun x => x.row == k' && x.agent.is k && !s.stuck k x.seq) ||
      (k' != k && ((r.st == .open_ && r.await.isSome) || s.insideGroup k'))
  (s.row k).early.any (fun e => meets (e.va.toNat % 2 ^ 16) e.data.length (va.toNat % 2 ^ 16) 64 && !e.due && !s.stuck k e.seq) ||
    (match l with
     | .rcb k' _ => target k'
     | .rowSpace k' _ => target k'
     | _ =>
       s.parked.any (fun p => p.row == k && p.loc.meets p.data.length l 64 && !s.stuck k p.seq) ||
       s.reds.any (fun r => r.row == k && r.counted && r.loc.meets r.size l 64 && !s.stuck k r.seq) ||
       s.homeOps.any (fun p => p.row == k && p.op.meets l 64 && !s.stuck k p.seq))

/-- The store of a record at a row's FREC, through the tenant's translation with supervisor rights (R263). A receive window
never makes it wait; a control-window store is applied before the fault is taken. -/
def State.frecStore (s : State) (k : RowKey) (site : Nat) (rec : List Byte) : FrecRes :=
  let va := (s.row k).frec
  if va == 0 then .bad
  else
    let w : Who := ⟨k.t, true, site, true, none⟩
    match s.check w .store va 64 with
    | .ok (l, attr) s' =>
      if (match l with | .rcb k' _ => !s'.held k' | .rowSpace k' _ => !s'.held k' | _ => false) then .bad
      else if s'.recordWaits k l va then .later
      else
        match l with
        | .rcb k' o => match s'.applyWindow k' true o rec true with | some s'' => .stored s'' | none => .bad
        | .rowSpace k' o => match s'.applyWindow k' false o rec true with | some s'' => .stored s'' | none => .bad
        | _ => .stored (s'.storeAt w (.row k (s.row k).pc va) l attr CacheHint.none rec 0)
    | .fault _ => .bad
    | .wait _ _ => .later
    | .stall => .later
    | .miss _ => .later
    | .move _ => .bad

/-- An event for the queue of the field of a site (R146): it waits at its source until it is posted. Its bytes 8-31 are 0: no rule
gives a kind data (log entry 70, DESIGN CHOICE). -/
def State.fieldEvent (s : State) (kind : BitVec 8) (t : BitVec 4) (site : BitVec 10) (id : BitVec 32) : State :=
  let f := fieldOfSite site.toNat
  let x := s.field f
  s.setField f { x with evWait := x.evWait ++ [⟨kind, t, site, id⟩] }

/-! ## TakeFault (R263) -/

/-- The vector a code enters: OVEC for CODE_OVERLAY, else TVEC (R263). -/
def Tenant.vector (x : Tenant) (code : BitVec 8) : BitVec 32 := if code == 0x08 then x.ovec else x.tvec

/-- Does the tenant's policy post the fault of a row (R263)? TRAP and BKPT do not consult FPOL (R261). -/
def State.posts (s : State) (k : RowKey) (i : FaultInfo) : Bool :=
  let x := s.ten k.t
  let polled := i.code != 0x20 && i.code != 0x21 && bit (x.fpol ||| 0x80) i.cls.toNat
  polled || x.vector i.code == 0 || (s.row k).trapact || (i.code == 0x0E && i.sub == 1)

/-- The row is left FAULTED: PC := CPC, its close begins, its places are abandoned (R159), the record is queued (R147). -/
def State.postFault (s : State) (k : RowKey) (i : FaultInfo) (rec : List Byte) : State :=
  let d := s.dir k
  let s := if (s.row k).st == .open_ then s.beginClose k else s
  let s := s.setRow k { s.row k with pc := i.cpc &&& ~~~3#32, st := .faulted, waiton := 0, stepping := false, await := none,
                                        run := [], mid := .none, walked := [], again := [], gbase := none }
  let s := s.abandonPlaces k
  let s := s.setTen k.t { s.ten k.t with fqWait := (s.ten k.t).fqWait ++ [rec] }
  s.fieldEvent 2 k.t d.site k.n

/-- The in-row trap: EPC := CPC, CAUSE := SUB : CODE, TRAPACT := 1, PC := the vector; CTL.PRIV is unchanged (R263). -/
def Row.trap (r : Row) (i : FaultInfo) (vec : BitVec 32) : Row :=
  { r with epc := i.cpc, cause := i.sub ++ i.code, trapact := true, pc := vec &&& ~~~3#32, await := none, inGroup := false,
           run := [], mid := .none, walked := [], again := [], gbase := none, replayDue := false }

/-- TakeFault (R263): the record is stored at FREC, and the fault is trapped in the row or posted; none while the record store
must wait. -/
def State.takeFault? (s : State) (k : RowKey) (i : FaultInfo) : Option State :=
  let r := s.row k
  let d := s.dir k
  let post := s.posts k i
  let time := s.timeAt d.site.toNat
  let record := fun posted nofrec =>
    recordBytes i k.t r.rowid r.launch ⟨d.site, d.bank⟩ time r.priv posted r.trapact nofrec false
  match s.frecStore k d.site.toNat (record post false) with
  | .later => none
  | .bad => some (s.postFault k i (record true true)).dropRun
  | .stored s' =>
    if post then some (s'.postFault k i (record true false)).dropRun
    else some (s'.setRow k ((s'.row k).trap i ((s.ten k.t).vector i.code))).dropRun

/-- A fault taken; where its record store must wait, the group is left to be issued again. -/
def State.takeFault (s : State) (k : RowKey) (i : FaultInfo) : State := (s.takeFault? k i).getD s.abandonGroup

/-- A fault of the issuing row at its group (R264, R266). -/
def State.raise (s : State) (f : Flt) : State := s.takeFault s.cur ((s.me).info f)

/-! ## Migration begins (R258) -/

/-- Has the row a matrix job that is not complete (R322, R332)? -/
def Row.jobRunning (r : Row) : Bool := r.tickets.any (fun t => t.st == .running)

/-- Every armed monitor of a row fires (R324): its ARMED bit clears. -/
def Row.fireAll (r : Row) : Row := { r with mon := r.mon.map (fun m => { m with armed := false }) }

/-- The reductions of a row's PEND that stand at or behind a store that waits for the row itself: its move does not wait for them
(R210, R258) (log entry 91, DEDUCED). -/
def State.pendStuck (s : State) (k : RowKey) : Nat :=
  let r := s.row k
  (r.early.filter (fun e => e.reduces && (e.due || s.stuck k e.seq))).length +
    (s.reds.filter (fun x => x.row == k && x.counted && s.stuck k x.seq)).length

/-- What a move of the issuing row waits for (R258, R332): PEND, its stores, which have not all left, and its matrix jobs; but for
what is to be made on its behalf at a boundary, and what stands behind that, which go with it (R107, R267). -/
def State.moveWaits (s : State) : Bool :=
  let r := s.me
  s.pendStuck s.cur < r.pend.toNat || r.early.any (fun e => !e.due) || r.jobRunning ||
    (s.inFlight s.cur).any (fun n => !s.stuck s.cur n && !r.early.any (fun e => e.seq == n))

/-- Steps 1 and 2 of a migration to a site (R258): the row waits in its slot for what must come first; then directory write 1 sets
MOVING, and its slot is released. A stepped MIGR is followed by its STOP at the target (R90). -/
def State.startMove (s : State) (site : Nat) (pc : BitVec 32) : State :=
  let r := s.me
  if s.moveWaits then s.abandonGroup
  else
    let s := s.releaseFar s.here
    let s := s.beginClose s.cur
    let s := s.setDir s.cur { s.dir s.cur with moving := true }
    let s := s.setMe { r.fireAll with st := .moving, waiton := 0, pc := pc &&& ~~~3#32, move := some (BitVec.ofNat 10 site),
                                      stepping := r.stepping && pc == r.pc,
                                      held := if r.stepping && pc != r.pc then r.held ++ [.stop] else r.held }
    s.dropRun

/-! ## What is due at a boundary (R265-R267) -/

/-- The earliest store in program order whose fault has not been raised yet (R267). -/
def Row.faultedStore (r : Row) : Option (EarlyStore × BitVec 8 × BitVec 8) :=
  r.replay.findSome? (fun e => e.fault.map (fun c => (e, c.1, c.2)))

/-- Is something due at a row's boundary before its next group: a fault that has reached it, its replay list, or a store that waits
for the row itself (R107, R119)? -/
def Row.owing (r : Row) : Bool :=
  !r.deferred.isEmpty || r.faultedStore.isSome || (r.replayDue && !r.replay.isEmpty) || r.early.any (·.due)

/-! ## The end of a group (R245, R264) -/

/-- What the result of an access makes of the issuing row's group: the effect, a fault taken, a wait, a stall, or a
migration to the address's column with PC on the group (R107). -/
def State.ends {α : Type} (s : State) (x : Res α) (f : α → State → State) : State :=
  match x with
  | .ok v s' => f v s'
  | .fault e => s.raise e
  | .wait on k => s.waitRow { s.me with fill := k } on
  | .stall => s.abandonGroup
  | .miss va => (s.waitWalk s.who va).abandonGroup
  | .move site => s.startMove site s.group

end Sys2Proof.Machine
end

