-- ==== Sys2Proof/Machine/Atomics.lean ====
section
/-! DEFINITION. Operations at the home: returning atomics, queued reductions, full/empty operations, and the ordering
instructions (R217-R231, R311-R316). -/

namespace Sys2Proof.Machine

/-! ## The arithmetic at the home (R312, R313) -/

/-- A floating sum rounded RNE, subnormals kept, NaN canonical; no flag is raised (R312). -/
def homeFadd (f : FFmt) (a b : Nat) : Nat := (fAdd f RoundCtl.rne (f.read a) (f.read b)).1

/-- The new value of a location of `n` bits (R312, R313); none where nothing is written (a failing ACAS). -/
def AOp.apply (op : AOp) {n : Nat} (old v new : BitVec n) : Option (BitVec n) :=
  match op with
  | .add => some (old + v)
  | .min => some (if old.slt v then old else v)
  | .max => some (if old.slt v then v else old)
  | .and => some (old &&& v)
  | .or => some (old ||| v)
  | .xor => some (old ^^^ v)
  | .swap => some v
  | .cas => if old == v then some new else none
  | .fadd =>
    if n == 64 then some (BitVec.ofNat n (homeFadd FFmt.f64 old.toNat v.toNat))
    else some (BitVec.ofNat n (homeFadd FFmt.f32 old.toNat v.toNat))
  | .bf16add => some (BitVec.ofNat n (homeFadd FFmt.bf16 old.toNat v.toNat))

/-- The new bytes of a location of `size` bytes. -/
def AOp.bytes (op : AOp) (size : Nat) (old v new : DWord) : Option (List Byte) :=
  (op.apply (old.setWidth (8 * size)) (v.setWidth (8 * size)) (new.setWidth (8 * size))).map (toBytes size)

/-- The home of a line is ready for an operation of a column: its own copy and those of the home's field are merged, and end
(R219, R228, R229). -/
def State.atHome (s : State) (site pa : Nat) : State := (s.flushLine site (pa / 256)).recall (pa / 256) none

/-- One indivisible read and write of a DRAM location at its home (R228): the old value, and the state after it. The write
continues the location's release sequence (R230). -/
def State.rmwDram (s : State) (site pa size : Nat) (op : AOp) (v new : DWord) (keep : Keep) : DWord × State :=
  let s := (s.atHome site pa).touchSpan pa false
  let old := BitVec.ofNat 64 (s.memNat pa size)
  match op.bytes size old v new with
  | none => (old, s.keepLine pa keep)
  | some bs => (old, (s.homeWrite pa bs false).keepLine pa keep)

/-- The same on a span scratchpad (R115). -/
def State.rmwScratch (s : State) (span o size : Nat) (op : AOp) (v new : DWord) : DWord × State :=
  let x := s.span span
  let old := BitVec.ofNat 64 (bytesToNat (x.scratch.readBytes o size))
  match op.bytes size old v new with
  | none => (old, s)
  | some bs => (old, s.setSpan span { x with scratch := x.scratch.writeBytes o bs })

/-- The vector that the value of a location of `n` bytes carries from now on: a release joins the release sequence it continues
(R230). A write that is discarded carries none (R150). -/
def State.joinRelvec (s : State) (pa n : Nat) (v : Vector (BitVec 32) 12) : State :=
  if (List.range n).any (fun j => s.homeKeeps (pa + j)) then s
  else
    (List.range ((n + 3) / 4)).foldl (fun s j =>
      let i := pa / 4 + j
      let old := NMap.get (Vector.replicate 12 0) s.relvec i
      let held := s.relvec.any (fun (w, _) => w == i)
      let w := if held then Vector.ofFn (fun (j : Fin 12) => if bit (v[j] - old[j]) 31 then old[j] else v[j]) else v
      { s with relvec := NMap.set s.relvec i w }) s

/-- The old value as the destination takes it: whole for 8 bytes; sign-extended for .W, zero-extended for .F32 (R312). -/
def atomResult (size : Nat) (f32 : Bool) (old : DWord) : DWord :=
  if size == 8 then old
  else if f32 then ((bits old 0 32).setWidth 64) else sext 64 (bits old 0 32)

/-! ## Full/empty bits (R128, R315) -/

/-- Is the word's bit full (R128)? -/
def State.full (s : State) (pa : Nat) : Bool := !s.empty.contains (pa / 8)

/-- The word's bit set. -/
def State.setFull (s : State) (pa : Nat) (b : Bool) : State :=
  if b then { s with empty := s.empty.filter (· != pa / 8) }
  else if s.empty.contains (pa / 8) then s else { s with empty := s.empty ++ [pa / 8] }

/-- STFE at the home (R315): refused on a full word; else the word is written and full, and the oldest waiter, if there is
one, is answered, which leaves the word empty. The predicate of the issuer (log entry 47, DEDUCED). The emptying by a deferred LDFE of
another field, of which the rules do not say whether it is a write that departs, takes no departure number (log entry 98, DESIGN
CHOICE). -/
def State.stfeHome (s : State) (site pa : Nat) (v : DWord) (vec : Option (Vector (BitVec 32) 12)) (keep : Keep) : Bool × State :=
  if s.full pa then (false, s)
  else
    let s := (((s.atHome site pa).homeWrite pa (toBytes 8 v) true).keepLine pa keep).setFull pa true
    let s := match vec with
      | some x => s.carry pa 8 x
      | none => s
    let i := homeSpan pa
    let x := s.span i
    match x.defers.find? (fun d => d.pa == pa) with
    | none => (true, s)
    | some d =>
      let s := s.setSpan i { x with defers := x.defers.erase d }
      (true, { s.setFull pa false with ldfeAns := s.ldfeAns ++ [⟨d.row, pa, s.mem64 pa, d.rd, d.pd, d.scope, d.next, vec⟩] })

/-! ## A release at the home (R225, R228) -/

/-- The column a row stands in. -/
def State.siteOf (s : State) (k : RowKey) : Nat := (s.dir k).site.toNat

/-- A returning atomic performed for a row (R312): the old value goes to its register, and an acquire joins the vectors (R224)
voids what later loads of the row have fixed (R220)
and, at WAFER and SYSTEM scope, clears the column of lines of other fields (R223). `vec` is its vector where it has one. -/
def State.atomDo (s : State) (k : RowKey) (site : Nat) (op : AOp) (size : Nat) (scratch : Bool) (pa : Nat) (v new : DWord)
    (rd : BitVec 6) (f32 acq : Bool) (scope : Nat) (vec : Option (Vector (BitVec 32) 12)) (keep : Keep) : State :=
  let s := if acq then s.setRow k { s.row k with ahead := [] } else s
  let s := if acq && 3 ≤ scope then s.acquireFar site else s
  let s := if acq && !scratch then s.acquireVec k pa size else s
  let (old, s') :=
    if scratch then s.rmwScratch (spanOfSite site) pa size op v new else s.rmwDram site pa size op v new keep
  let wrote := (op.bytes size old v new).isSome
  let s' := match vec with
    | some x => if wrote && !scratch then s'.joinRelvec pa size x else s'
    | none => s'
  s'.setRow k ((s'.row k).wg rd (atomResult size f32 old))

/-- A release operation waits at its home until it may become visible: the row keeps its slot and awaits the answer (R225,
R255). -/
def State.parkHome (s : State) (home : Nat) (op : HomeDo) (scope : Nat) (keep : Keep) (v : Option (Vector (BitVec 32) 12)) :
    State :=
  let (s, num) := s.depart s.myField (home / 8) false
  let r := s.me
  { s.setMe { r with await := some s.after } with
    homeOps := s.homeOps ++ [⟨s.cur, s.ops + 1, scope, keep, s.after, BitVec.ofNat 7 home, op, v, num⟩]
    ops := s.ops + 1
    run := [] }

/-- May a release operation that the issuing row sends off now become visible at once at a home in field `g` (R220, R225)? -/
def State.mayRelease (s : State) (g : Nat) (v : Option (Vector (BitVec 32) 12)) : Bool :=
  s.releasable s.cur (s.ops + 1) s.myField g v

/-- The vector that a release of the issuing row carries at a scope (R225). -/
def State.scopeVec (s : State) (scope : Nat) : Option (Vector (BitVec 32) 12) :=
  if 3 ≤ scope then some (s.releaseVec s.cur s.myField) else none

/-- The write-back that goes before a release of the issuing row at a scope: of the lines of other fields, which no other column of
the field sees (R220, R223). -/
def State.scopeFar (s : State) (scope : Nat) : State := if 1 ≤ scope then s.releaseFar s.here else s

/-- A returning atomic of the issuing row on `size` bytes (R311, R312): relaxed, acquire, release or both by ORD. -/
def State.atomic (s : State) (op : AOp) (size : Nat) (f32 : Bool) (d a : BitVec 6) (ord : BitVec 2) (new : DWord) : State :=
  let va := (s.me).rg a
  let v := (s.me).rg d
  let acq := bit ord 0
  let rel := bit ord 1
  let scope := s.scope 3
  s.ends ((s.access s.who .atom va size).bind fun (l, attr) s =>
      if s.earlyMeets s.cur va size || s.busyAt s.cur l size || (acq && s.releasing s.cur) then .stall
      else .ok (l, attr) s)
    fun (l, attr) s =>
      let keep := keepOf attr s.cache
      let go (scratch : Bool) (pa home : Nat) (bad : Bool) : State :=
        if bad then s.raise (Flt.ecc (if scratch then 5 else 2) true)
        else if s.owesAt s.cur home then s.abandonGroup
        else
          let s := if rel then s.scopeFar scope else s
          let vec := if rel then s.scopeVec scope else none
          if rel && !s.mayRelease (home / 8) vec then s.parkHome home (.atom op size scratch pa v new d f32 acq) scope keep vec
          else
            let s := s.atomDo s.cur s.here op size scratch pa v new d f32 acq scope vec keep
            (s.depart s.myField (home / 8) true).1.advance
      match l with
      | .dram pa => go false pa (homeSpan pa) ((s.atHome s.here pa).homeBad pa size)
      | .spanScratch o => go true o (spanOfSite s.here) (poisoned (s.span (spanOfSite s.here)).bad o size)
      | _ => s.abandonGroup

/-- A returning atomic by its width field: 0 names 8 bytes, 1 names 4 (R311). -/
def atomW (op : AOp) (d a : BitVec 6) (o : BitVec 2) (w : BitVec 1) (p : BitVec 3) (s : State) :
    Host.Outcome State Fault Refusal :=
  word s p fun s => s.atomic op (if w == 1 then 4 else 8) false d a o 0

/-- AADD (R312). -/
def execAadd (d a : BitVec 6) (o : BitVec 2) (w : BitVec 1) (p : BitVec 3) (s : State) : Host.Outcome State Fault Refusal :=
  atomW .add d a o w p s

/-- AMIN (R312). -/
def execAmin (d a : BitVec 6) (o : BitVec 2) (w : BitVec 1) (p : BitVec 3) (s : State) : Host.Outcome State Fault Refusal :=
  atomW .min d a o w p s

/-- AMAX (R312). -/
def execAmax (d a : BitVec 6) (o : BitVec 2) (w : BitVec 1) (p : BitVec 3) (s : State) : Host.Outcome State Fault Refusal :=
  atomW .max d a o w p s

/-- AAND (R312). -/
def execAand (d a : BitVec 6) (o : BitVec 2) (w : BitVec 1) (p : BitVec 3) (s : State) : Host.Outcome State Fault Refusal :=
  atomW .and d a o w p s

/-- AOR (R312). -/
def execAor (d a : BitVec 6) (o : BitVec 2) (w : BitVec 1) (p : BitVec 3) (s : State) : Host.Outcome State Fault Refusal :=
  atomW .or d a o w p s

/-- AXOR (R312). -/
def execAxor (d a : BitVec 6) (o : BitVec 2) (w : BitVec 1) (p : BitVec 3) (s : State) : Host.Outcome State Fault Refusal :=
  atomW .xor d a o w p s

/-- ASWAP (R312). -/
def execAswap (d a : BitVec 6) (o : BitVec 2) (w : BitVec 1) (p : BitVec 3) (s : State) : Host.Outcome State Fault Refusal :=
  atomW .swap d a o w p s

/-- ACAS: the new value is that of g(rd + 1) (R311, R312). -/
def execAcas (d a : BitVec 6) (o : BitVec 2) (w : BitVec 1) (p : BitVec 3) (s : State) : Host.Outcome State Fault Refusal :=
  word s p fun s => s.atomic .cas (if w == 1 then 4 else 8) false d a o ((s.me).rg (d + 1))

/-- AFADD: F64 or F32, rounded RNE (R312). -/
def execAfadd (d a : BitVec 6) (o : BitVec 2) (w : BitVec 1) (p : BitVec 3) (s : State) : Host.Outcome State Fault Refusal :=
  word s p fun s => s.atomic .fadd (if w == 1 then 4 else 8) (w == 1) d a o 0

/-! ## Queued reductions (R313, R314) -/

/-- One element of a reduction sent to its home (R229): it departs with a number, and with the vector of a release (R225). What
the column's cache holds dirty of the line goes before it (R219). -/
def State.sendRed (s : State) (k : RowKey) (site : Nat) (op : AOp) (size : Nat) (l : Loc) (v : DWord) (rel : Bool)
    (vec : Option (Vector (BitVec 32) 12)) (seq count : Nat) (keep : Keep) : State :=
  let (scratch, pa, home) : Bool × Nat × Nat :=
    match l with
    | .spanScratch o => (true, o, spanOfSite site)
    | .dram pa => (false, pa, homeSpan pa)
    | _ => (false, 0, 0)
  let s := if scratch then s else s.flushLine site (pa / 256)
  let (s, num) := s.depart (fieldOfSite site) (home / 8) false
  { s with
    reds := s.reds ++ [⟨k, true, op, size, pa, scratch, BitVec.ofNat 7 home, v, rel, vec, num, seq, count, keep⟩]
    ops := max s.ops seq }

/-- Has the row a release parked on the location, which holds back its later operations there (R225)? -/
def State.parkedAt (s : State) (k : RowKey) (l : Loc) (n : Nat) : Bool :=
  s.parked.any (fun x => x.row == k && x.loc.meets x.data.length l n)

/-- The reduction of a list of elements (addresses and operands) by the issuing row (R314): every element is translated and
checked before any is sent; PEND rises by their number and never passes 64 (R210). A scalar reduction may leave before its
walk ends (R302). -/
def State.reduce (s : State) (op : AOp) (size : Nat) (rel scalar : Bool) (elems : List (DWord × DWord)) : State :=
  let n := elems.length
  let scope := s.scope 3
  let checked : Res (List (Loc × Attr × DWord)) :=
    elems.foldl (fun acc (va, v) => acc.bind fun ls s =>
      (s.access s.who .atom va size).bind fun (l, attr) s =>
        if s.earlyMeets s.cur va size || s.parkedAt s.cur l size then .stall
        else .ok (ls ++ [(l, attr, v)]) s) (.ok [] s)
  let pend (s : State) : State := s.finish { s.me with pend := (s.me).pend + BitVec.ofNat 7 n }
  let early := scalar && elems.all (fun (va, _) => aligned va.toNat size && s.leavesEarly va && !s.earlyMeets s.cur va size)
  if 64 < (s.me).pend.toNat + n then s.abandonGroup
  else if early then
    pend (elems.foldl (fun s (va, v) => s.storeEarly (.reduce op rel scope) s.cache va (toBytes size v)) s)
  else
    s.ends checked fun ls s =>
      let h := s.cache
      let s := if rel then s.scopeFar scope else s
      let vec := if rel then s.scopeVec scope else none
      let seq := s.ops + 1
      pend (ls.foldl (fun s (l, attr, v) => s.sendRed s.cur s.here op size l v rel vec seq n (keepOf attr h)) s)

/-- A scalar reduction (R313). -/
def redScalar (op : AOp) (size : Nat) (r : BitVec 1) (a g : BitVec 6) (p : BitVec 3) (s : State) :
    Host.Outcome State Fault Refusal :=
  word s p fun s => s.reduce op size (r == 1) true [((s.me).rg a, (s.me).rg g)]

/-- A scatter reduction: lanes of vs at the addresses that the index lanes of vi give (R300, R313). -/
def redScatter (op : AOp) (size : Nat) (v : BitVec 5) (r : BitVec 1) (a : BitVec 6) (i : BitVec 5) (p : BitVec 3)
    (s : State) : Host.Outcome State Fault Refusal :=
  word s p fun s =>
    let base := (s.me).rg a
    let idx := (s.me).rv i
    let src := (s.me).rv v
    s.reduce op size (r == 1) false ((List.range (16 / size)).map (fun j =>
      (base + sext 64 (bits idx (8 * size * j) (8 * size)) * BitVec.ofNat 64 size,
       (bits src (8 * size * j) (8 * size)).setWidth 64)))

/-- The size a width field names: 8 bytes for 0, 4 for 1 (R313). -/
def widthSize (w : BitVec 1) : Nat := if w == 1 then 4 else 8

/-- QADD (R313, R314). -/
def execQadd (r : BitVec 1) (a g : BitVec 6) (w : BitVec 1) (p : BitVec 3) (s : State) : Host.Outcome State Fault Refusal :=
  redScalar .add (widthSize w) r a g p s

/-- QMIN (R313, R314). -/
def execQmin (r : BitVec 1) (a g : BitVec 6) (w : BitVec 1) (p : BitVec 3) (s : State) : Host.Outcome State Fault Refusal :=
  redScalar .min (widthSize w) r a g p s

/-- QMAX (R313, R314). -/
def execQmax (r : BitVec 1) (a g : BitVec 6) (w : BitVec 1) (p : BitVec 3) (s : State) : Host.Outcome State Fault Refusal :=
  redScalar .max (widthSize w) r a g p s

/-- QAND (R313, R314). -/
def execQand (r : BitVec 1) (a g : BitVec 6) (w : BitVec 1) (p : BitVec 3) (s : State) : Host.Outcome State Fault Refusal :=
  redScalar .and (widthSize w) r a g p s

/-- QIOR (R313, R314). -/
def execQior (r : BitVec 1) (a g : BitVec 6) (w : BitVec 1) (p : BitVec 3) (s : State) : Host.Outcome State Fault Refusal :=
  redScalar .or (widthSize w) r a g p s

/-- QXOR (R313, R314). -/
def execQxor (r : BitVec 1) (a g : BitVec 6) (w : BitVec 1) (p : BitVec 3) (s : State) : Host.Outcome State Fault Refusal :=
  redScalar .xor (widthSize w) r a g p s

/-- QFADD (R313, R314). -/
def execQfadd (r : BitVec 1) (a g : BitVec 6) (w : BitVec 1) (p : BitVec 3) (s : State) : Host.Outcome State Fault Refusal :=
  redScalar .fadd (widthSize w) r a g p s

/-- QBF16ADD: a 2-byte BF16 location (R313). -/
def execQbf16add (r : BitVec 1) (a g : BitVec 6) (p : BitVec 3) (s : State) : Host.Outcome State Fault Refusal :=
  redScalar .bf16add 2 r a g p s

/-- QADDX (R313, R314). -/
def execQaddx (v : BitVec 5) (r : BitVec 1) (a : BitVec 6) (i : BitVec 5) (w : BitVec 1) (p : BitVec 3) (s : State) : Host.Outcome State Fault Refusal :=
  redScatter .add (widthSize w) v r a i p s

/-- QMINX (R313, R314). -/
def execQminx (v : BitVec 5) (r : BitVec 1) (a : BitVec 6) (i : BitVec 5) (w : BitVec 1) (p : BitVec 3) (s : State) : Host.Outcome State Fault Refusal :=
  redScatter .min (widthSize w) v r a i p s

/-- QMAXX (R313, R314). -/
def execQmaxx (v : BitVec 5) (r : BitVec 1) (a : BitVec 6) (i : BitVec 5) (w : BitVec 1) (p : BitVec 3) (s : State) : Host.Outcome State Fault Refusal :=
  redScatter .max (widthSize w) v r a i p s

/-- QANDX (R313, R314). -/
def execQandx (v : BitVec 5) (r : BitVec 1) (a : BitVec 6) (i : BitVec 5) (w : BitVec 1) (p : BitVec 3) (s : State) : Host.Outcome State Fault Refusal :=
  redScatter .and (widthSize w) v r a i p s

/-- QIORX (R313, R314). -/
def execQiorx (v : BitVec 5) (r : BitVec 1) (a : BitVec 6) (i : BitVec 5) (w : BitVec 1) (p : BitVec 3) (s : State) : Host.Outcome State Fault Refusal :=
  redScatter .or (widthSize w) v r a i p s

/-- QXORX (R313, R314). -/
def execQxorx (v : BitVec 5) (r : BitVec 1) (a : BitVec 6) (i : BitVec 5) (w : BitVec 1) (p : BitVec 3) (s : State) : Host.Outcome State Fault Refusal :=
  redScatter .xor (widthSize w) v r a i p s

/-- QFADDX (R313, R314). -/
def execQfaddx (v : BitVec 5) (r : BitVec 1) (a : BitVec 6) (i : BitVec 5) (w : BitVec 1) (p : BitVec 3) (s : State) : Host.Outcome State Fault Refusal :=
  redScatter .fadd (widthSize w) v r a i p s

/-- QBF16ADDX (R313, R314). -/
def execQbf16addx (v : BitVec 5) (r : BitVec 1) (a : BitVec 6) (i : BitVec 5) (p : BitVec 3) (s : State) : Host.Outcome State Fault Refusal :=
  redScatter .bf16add 2 v r a i p s

/-! ## Full/empty operations (R315) -/

/-- The address of a full/empty operation: an 8-byte word of DRAM (R301, R315). Operations of one row reach one home in issue
order (R228). -/
def State.feAccess (s : State) (va : DWord) : Res (Nat × Keep) :=
  (s.access s.who .fe va 8).bind fun (l, attr) s =>
    match l with
    | .dram pa =>
      if s.earlyMeets s.cur va 8 || s.busyAt s.cur l 8 || s.owesAt s.cur (homeSpan pa) then .stall
      else
        let keep := keepOf attr s.cache
        let s := ((s.atHome s.here pa).touchSpan pa false).keepLine pa keep
        if s.homeBad pa 8 then .fault (Flt.ecc 2 true) else .ok (pa, keep) s
    | _ => .fault (Flt.page 3 va true)

/-- LDFE: a full word is read and left empty, as an acquire; an empty word defers the row, or refuses it when the span's
512 deferral entries are taken (R145, R315). -/
def execLdfe (d a : BitVec 6) (q p : BitVec 3) (s : State) : Host.Outcome State Fault Refusal :=
  word s p fun s =>
    s.ends (if s.releasing s.cur then .stall else s.feAccess ((s.me).rg a)) fun (pa, _) s =>
      let i := homeSpan pa
      if s.full pa then
        let v := s.mem64 pa
        let s := ((s.setFull pa false).depart s.myField (homeField pa) true).1
        let s := (s.acquire (s.scope 3)).acquireVec s.cur pa 8
        s.finish (((s.me).wg d v).wp q true)
      else if (s.span i).defers.length < 512 then
        let s := s.setSpan i { s.span i with defers := (s.span i).defers ++ [⟨s.cur, pa, d, q, s.scope 3, s.after⟩] }
        s.waitRow s.me 4
      else s.finish ((s.me).wp q false)

/-- LDF: the word and its bit; nothing changes (R315). -/
def execLdf (d a : BitVec 6) (q p : BitVec 3) (s : State) : Host.Outcome State Fault Refusal :=
  word s p fun s =>
    s.ends (s.feAccess ((s.me).rg a)) fun (pa, _) s => s.finish (((s.me).wg d (s.mem64 pa)).wp q (s.full pa))

/-- STFE: a release into an empty word (R315, R231). -/
def execStfe (d a : BitVec 6) (q p : BitVec 3) (s : State) : Host.Outcome State Fault Refusal :=
  word s p fun s =>
    let v := (s.me).rg d
    let scope := s.scope 3
    s.ends (s.feAccess ((s.me).rg a)) fun (pa, keep) s =>
      let s := s.scopeFar scope
      let vec := s.scopeVec scope
      if !s.mayRelease (homeField pa) vec then s.parkHome (homeSpan pa) (.stfe pa v q) scope keep vec
      else
        let (b, s) := s.stfeHome s.here pa v vec keep
        let s := if b then (s.depart s.myField (homeField pa) true).1 else s
        s.finish ((s.me).wp q b)

/-- SETE: the word's bit becomes empty, its value stays (R315). -/
def execSete (a : BitVec 6) (p : BitVec 3) (s : State) : Host.Outcome State Fault Refusal :=
  word s p fun s => s.ends (s.feAccess ((s.me).rg a)) fun (pa, _) s => ((s.setFull pa false).depart s.myField (homeField pa) true).1.advance

/-! ## Ordering instructions (R222, R316) -/

/-- FENCE at a scope (R222): ROW orders nothing towards others; COLUMN and FIELD wait until every earlier store of the row
has performed, what the column holds dirty of other fields' lines being written back (R218); WAFER and SYSTEM also invalidate
those lines (R223) and wait until every field has learnt of the writes that left this one before it, so that no later write of the row can be seen before them (R225)
(log entry 59, DEDUCED). -/
def execFence (sc p : BitVec 3) (s : State) : Host.Outcome State Fault Refusal :=
  word s p fun s =>
    let scope := sc.toNat
    let pending := s.sending
    if scope == 0 then s.advance
    else if scope < 3 then (if pending then s.abandonGroup else (s.releaseFar s.here).advance)
    else
      let s := s.releaseFar s.here
      let v := s.releaseVec s.cur s.myField
      if pending || !(List.range 12).all (fun g => covers (s.field g).fav v) then s.abandonGroup
      else (s.acquireFar s.here).advance

/-- An acquire load of `n` bytes, zero-extended (R316). -/
def loadAcquire (n : Nat) (d a : BitVec 6) (p : BitVec 3) (s : State) : Host.Outcome State Fault Refusal :=
  word s p fun s =>
    s.ends (s.rowAcquire s.cache (s.scope 3) ((s.me).rg a) n) (fun bs s' => s'.finish ((s'.me).wg d (ofBytes 64 bs)))

/-- A release store of `n` bytes (R316). -/
def storeRelease (n : Nat) (d a : BitVec 6) (p : BitVec 3) (s : State) : Host.Outcome State Fault Refusal :=
  word s p fun s =>
    s.ends (s.rowRelease s.cache (s.scope 3) ((s.me).rg a) (toBytes n ((s.me).rg d))) (fun _ s' => s'.advance)

/-- LDA.D (R316). -/
def execLdaD (d a : BitVec 6) (p : BitVec 3) (s : State) : Host.Outcome State Fault Refusal :=
  loadAcquire 8 d a p s

/-- LDA.W (R316). -/
def execLdaW (d a : BitVec 6) (p : BitVec 3) (s : State) : Host.Outcome State Fault Refusal :=
  loadAcquire 4 d a p s

/-- STL.D (R316). -/
def execStlD (d a : BitVec 6) (p : BitVec 3) (s : State) : Host.Outcome State Fault Refusal :=
  storeRelease 8 d a p s

/-- STL.W (R316). -/
def execStlW (d a : BitVec 6) (p : BitVec 3) (s : State) : Host.Outcome State Fault Refusal :=
  storeRelease 4 d a p s

end Sys2Proof.Machine
end

