-- ==== Sys2Proof/Machine/Boundary.lean ====
section
/-! DEFINITION. What happens to a row between two of its groups (R53): held commands, the end of a stepped group, the answers
that a row awaits, deferred faults and the replay of faulted stores (R87, R90, R255, R265-R267). -/

namespace Sys2Proof.Machine

/-! ## Deferred faults and replay (R265-R267, R433) -/

/-- The information of a store fault that is raised at the row's present boundary (R266). -/
def Row.storeInfo (r : Row) (e : EarlyStore) (code sub : BitVec 8) : FaultInfo :=
  ⟨code, sub, classOf code, true, true, e.ipc, r.pc, e.va, 0, r.prog, 0⟩

/-- The fault that is due first at a row's boundary, taken; none where none is due, or its record store must wait. A fault that
has reached the row goes first (R87, R266); the row then raises the fault of its earliest faulted store, and its replay list is
kept (R267). -/
def State.takeDue (s : State) (k : RowKey) : Option State :=
  let r := s.row k
  match r.deferred, r.faultedStore with
  | i :: l, _ => (s.setRow k { r with deferred := l }).takeFault? k { i with cpc := r.pc, prog := r.prog }
  | [], some (e, code, sub) =>
    (s.setRow k { r with replay := r.replay.map (fun x => { x with fault := none, till := some (x.till.getD s.ops) }) }).takeFault? k
      (r.storeInfo e code sub)
  | [], none => none

/-- Every fault that is due at the boundary of an open row taken, before another event acts there (R265); none while a record
store must wait. -/
def State.faultsFirst (s : State) (k : RowKey) : Option State :=
  let r := s.row k
  let due (s : State) : Bool :=
    (s.row k).st == .open_ && (s.row k).await.isNone && (!(s.row k).deferred.isEmpty || (s.row k).faultedStore.isSome)
  (List.range (r.deferred.length + 1)).foldl (fun acc _ => acc.bind fun s => if due s then s.takeDue k else some s) (some s)

/-- A store or a scalar reduction of a row made on the row's behalf at its place in program order, with the supervisor right and
the hint it was issued with; `mot` says whether migrate-on-touch may move the row for it (R107). A store to a line of another field
goes on to its home: a release may stand behind it already, which has done its write-back (R223, R302). A store whose walk ends at a
migrate-on-touch page of another column moves its row like any other access: at the row's next boundary (log entry 91, DEDUCED). -/
def State.storeFor (s : State) (k : RowKey) (e : EarlyStore) (mot : Bool) : Res Unit :=
  let site := (s.dir k).site.toNat
  let w : Who := ⟨k.t, e.sup, site, true, none⟩
  let a : Agent := .row k e.ipc e.va
  let n := e.data.length
  let use : Use := match e.kind with | .reduce _ _ _ => .atom | _ => .store
  (if mot then s.access w use e.va n else s.check w use e.va n).bind fun (l, attr) s =>
    match e.kind with
    | .plain =>
      if s.busyStore k l n e.seq then .stall
      else (s.fillWaitAt site l n).bind fun _ s =>
        let s := s.storeAt w a l attr e.hint e.data e.seq
        .ok () (match l with
          | .dram pa => if homeField pa == fieldOfSite site then s else s.cleanLine site (pa / 256)
          | _ => s)
    | .release scope =>
      if s.busyStore k l n e.seq then .stall
      else (s.fillWaitAt site l n).bind fun _ s => .ok () (s.sendRelease k w a e.hint scope l attr e.data e.seq (some e.vec))
    | .reduce op rel scope =>
      if s.parkedAt k l n then .stall
      else
        let s := if rel && 1 ≤ scope then s.releaseFar site else s
        let vec := if rel && 3 ≤ scope then some e.vec else none
        .ok () (s.sendRed k site op n l (ofBytes 64 e.data) rel vec e.seq 1 (keepOf attr e.hint))

/-- A store joins its row's replay list at its place in program order (R267). -/
def Row.toReplay (r : Row) (e : EarlyStore) : Row :=
  { r with replay := r.replay.filter (fun x => x.seq < e.seq) ++ [e] ++ r.replay.filter (fun x => e.seq < x.seq) }

/-- An early store faults: it joins the replay list with its fault; where its row has retired it is dropped with what the row
sent off behind it (R240). -/
def State.storeFaults (s : State) (k : RowKey) (e : EarlyStore) (code sub : BitVec 8) : State :=
  let r := s.row k
  let s := s.setRow k { r with early := r.early.erase e }
  if r.st == .free || r.st == .retired then (s.dropAfter k e.seq).ackEarly k [e]
  else s.setRow k ((s.row k).toReplay { e with due := false, fault := some (code, sub) })

/-- A store of the issuing row whose walk has ended and that has waited for the row itself (R302): it is performed; or the row closes
for its receive window (R119), or moves for its migrate-on-touch page and makes it at the target (R107, R258); or it faults (R240)
(log entry 91, DEDUCED). -/
def State.makeDue (s : State) (e : EarlyStore) : State :=
  match s.storeFor s.cur e true with
  | .ok _ s' => s'.setMe { s'.me with early := (s'.me).early.erase e }
  | .fault f => s.storeFaults s.cur e f.code f.sub
  | .wait on fill => s.waitRow { s.me with fill := fill } on
  | .stall => s.abandonGroup
  | .miss _ => s.abandonGroup
  | .move site => s.startMove site s.group

/-- The first store of the issuing row's replay list made again; its fault is raised again with the same fields (R267). -/
def State.replayOne (s : State) : State :=
  let r := s.me
  match r.replay with
  | [] => s
  | e :: l =>
    match s.storeFor s.cur e true with
    | .ok _ s' => s'.setMe { s'.me with replay := l, replayDue := !l.isEmpty }
    | .fault f => ((s.setMe { r with replayDue := false }).takeFault? s.cur (r.storeInfo e f.code f.sub)).getD s.abandonGroup
    | .wait on fill => s.waitRow { r with fill := fill } on
    | .stall => s.abandonGroup
    | .miss _ => s.abandonGroup
    | .move site => s.startMove site s.group

/-- What is due is done: faults first (R265); then the first, in program order, of the stores that wait for the row and of those to be
replayed (R107, R119, R267). -/
def State.settle (s : State) : State :=
  let r := s.me
  if !r.deferred.isEmpty || r.faultedStore.isSome then (s.takeDue s.cur).getD s.abandonGroup
  else
    match r.early.find? (·.due) with
    | none => s.replayOne
    | some e => if r.replayDue && r.replay.any (fun x => x.seq < e.seq) then s.replayOne else s.makeDue e

/-! ## The boundary -/

/-- An answer's destination written, in a row that has not retired since. -/
def State.writeAnswer (s : State) (k : RowKey) (write : Row → Row) : State :=
  let r := s.row k
  if r.st == .free || r.st == .retired then s else s.setRow k (write r)

/-- The result word of STEPX (R334). -/
def stepResult (r : Row) (stepped : Bool) : DWord :=
  (BitVec.ofBool stepped ++ BitVec.ofNat 3 r.st.code ++ r.pc).setWidth 64

/-- The answer to the STEPX that stepped a row, if there is one: its result is written and its group ends (R334). -/
def State.tellStepper (s : State) (k : RowKey) (stepped : Bool) : State :=
  let r := s.row k
  match r.stepper with
  | none => s
  | some (k', rd) =>
    let s := s.writeAnswer k' (fun x => x.wg rd (stepResult r stepped))
    let s := s.setRow k { s.row k with stepper := none }
    match (s.row k').await with
    | some pc => s.setRow k' { s.row k' with pc := pc &&& ~~~3#32, await := none }
    | none => s

/-- The end of a stepped group (R90): the row, wherever its one group has left it, is STOPPED. A wait that has been answered
ends first (R315). Where the group would wait, the row stays STOPPED with PC on it, and STEPPED is 0 (R334)
(log entry 41, DEDUCED). -/
def State.endStep (s : State) (k : RowKey) : State :=
  let r := s.row k
  let stop := fun (s : State) => s.setRow k { s.row k with st := .stopped, waiton := 0, stepping := false }
  if !r.stepping then (if r.st == .moving then s else s.tellStepper k true)
  else
    match r.st with
    | .open_ => (stop (s.beginClose k)).tellStepper k true
    | .waiting => if s.answered k then s else (stop (s.endWait k)).tellStepper k false
    | .ready => (stop s).tellStepper k true
    | _ => s

/-- The boundary that ends a group of a row (R53, R255): behind the faults that are due (R265), the commands held for it act in
their order, and a step ends. -/
def State.boundary (s : State) (k : RowKey) : State :=
  let r := s.row k
  if r.held.isEmpty && !r.stepping then s.endStep k
  else
    match s.faultsFirst k with
    | none => s
    | some s =>
      let l := (s.row k).held
      let s := s.setRow k { s.row k with held := [] }
      (l.foldl (fun s c => s.command k c) s).endStep k

/-- The answer that an open row awaits has come (R254, R255): its destination is written, and its group ends. Where a
deferred fault has been taken meanwhile, the row has gone on, and only the destination is written (R240). -/
def State.answer (s : State) (k : RowKey) (write : Row → Row) : State :=
  let s := s.writeAnswer k write
  match (s.row k).await with
  | none => s
  | some pc => (s.setRow k { s.row k with pc := pc &&& ~~~3#32, await := none }).boundary k

/-- The answer to a home operation, a push or a spawn message, behind which the row goes on at `pc`. -/
def State.answerAt (s : State) (k : RowKey) (pc : BitVec 32) (write : Row → Row) : State :=
  if (s.row k).await == some pc then s.answer k write else s.writeAnswer k write

/-- A command from outside applied to a row, behind the faults that are due at its boundary (R265); it is held while a record
store must wait. A STEPX that it overtakes is answered (R90, R334). -/
def State.outsideCommand (s : State) (k : RowKey) (c : Cmd) : State :=
  match if (s.row k).st == .open_ && (s.row k).holds c then some s else s.faultsFirst k with
  | none => s.setRow k { s.row k with held := (s.row k).held ++ [c] }
  | some s =>
    let s := s.command k c
    let r := s.row k
    if r.stepping || r.st == .moving || (r.st == .open_ && r.holds c) then s else s.tellStepper k false

/-- The boundary behind the issuing row's group, unless the group is to be issued again or awaits its answer. -/
def State.afterGroup (s : State) : State :=
  if s.redo || (s.me).await.isSome then s else s.boundary s.cur

/-- Does the row stand, the stores that waited for it made, behind a group whose answer is still to come: the fault of an earlier store has been
taken meanwhile (R240)? It goes on when the answer has come. -/
def State.unanswered (s : State) (k : RowKey) : Bool :=
  let r := s.row k
  r.madeFrom.isNone && (s.homeOps.any (fun x => x.row == k && x.pc == r.pc) || s.pushes.any (fun x => x.row == k && x.next == r.pc) ||
    s.spawns.any (fun x => x.src == k && x.next == r.pc))

end Sys2Proof.Machine
end

