-- ==== Sys2Proof/Machine/Query.lean ====
section
/-! DEFINITION. The queries (R295-R299). -/

namespace Sys2Proof.Machine

/-- The bits set in a map of 30 words (R180). -/
def mapCount (l : List (BitVec 32)) : Nat :=
  l.foldl (fun n w => n + ((List.range 32).filter (fun i => bit w i)).length) 0

/-- The columns in service: harvest bit 1 and retirement bit 0 (R180). -/
def State.inService (s : State) (site : Nat) : Bool := s.good site && !bit (s.retired.getD (site / 32) 0) (site % 32)

/-- The number of columns in service. -/
def State.serviceCount (s : State) : Nat := mapCount (List.zipWith (fun h r => h &&& ~~~r) s.harvest s.retired)

/-- FEAT words (R296). -/
def State.featWord (s : State) (w : Nat) : BitVec 32 :=
  match w with
  | 0 => 0x00000004
  | 1 => 0x0000003F
  | 2 => BitVec.ofNat 32 (mapCount s.harvest) ||| 0x00680000
  | _ => 0

/-- FEAT (R296). -/
def execFeat (d : BitVec 6) (w : BitVec 2) (p : BitVec 3) (s : State) : Host.Outcome State Fault Refusal :=
  word s p fun s => s.finish ((s.me).wg d ((s.featWord w.toNat).setWidth 64))

/-- The columns of the grid with which a row's launch was placed, in tenant-index order; without a launch, those of the
tenant's partition (R181, R297). -/
def State.gridOf (s : State) (k : RowKey) : List (BitVec 10) :=
  let x := s.ten k.t
  match x.launches.find? (fun l => l.id == (s.row k).launch) with
  | some l => if l.grid.isEmpty then x.cols else l.grid
  | none => x.cols

/-- The width of a grid of `n` columns (R181). -/
def gridWidth (n : Nat) : Nat := Nat.min 30 n

/-- The tenant index of a site in a grid; their number for a site that the grid does not number, which a row of a resident launch may
reach by MIGR once REPART or SWAPIN has joined it to the partition (R297) (log entry 82, DESIGN CHOICE). -/
def indexIn (grid : List (BitVec 10)) (site : Nat) : Nat := grid.idxOf (BitVec.ofNat 10 site)

/-- The stack link of a gateway column (R375), with its number. -/
def State.linkOf (s : State) (site : Nat) : Option (Nat × Link) := s.links.find? (fun x => x.2.site.toNat == site)

/-- TOPO (R297); the number of columns in service is that of the placement of the row's launch. -/
def State.topoValue (s : State) (k : RowKey) (site sel : Nat) : Nat :=
  let grid := s.gridOf k
  let n := grid.length
  match sel with
  | 0 => gridWidth n
  | 1 => ceilDiv n 30
  | 2 => n - 30 * (ceilDiv n 30 - 1)
  | 3 => n
  | 4 => indexIn grid site
  | 5 => fieldOfSite site
  | 6 => spanOfSite site
  | 7 => if (s.linkOf site).isSome then 1 else 0
  | 8 =>
    match (s.ten k.t).launches.find? (fun l => l.id == (s.row k).launch) with
    | some l => if l.grid.isEmpty then s.serviceCount else l.wcols
    | none => s.serviceCount
  | _ => 0

/-- TOPO (R297). -/
def execTopo (d sel : BitVec 6) (p : BitVec 3) (s : State) : Host.Outcome State Fault Refusal :=
  word s p fun s => s.finish ((s.me).wg d (BitVec.ofNat 64 (s.topoValue s.cur s.here sel.toNat)))

/-- The identity registers by selector (R298). -/
def Row.identity (r : Row) (sel : Nat) : DWord :=
  match sel with
  | 0 => r.launch.setWidth 64
  | 1 => r.rowid.setWidth 64
  | 2 => r.lx.setWidth 64
  | 3 => r.ly.setWidth 64
  | 4 => r.gridw.setWidth 64
  | 5 => r.gridh.setWidth 64
  | 6 => r.ext0.setWidth 64
  | 7 => r.ext1.setWidth 64
  | 8 => r.base0.setWidth 64
  | 9 => r.base1.setWidth 64
  | _ => 0

/-- IDR (R298). -/
def execIdr (d sel : BitVec 6) (p : BitVec 3) (s : State) : Host.Outcome State Fault Refusal :=
  word s p fun s => s.finish ((s.me).wg d ((s.me).identity sel.toNat))

/-- TIME: the cycle counter of the column, sampled at issue (R299). -/
def execTime (d : BitVec 6) (p : BitVec 3) (s : State) : Host.Outcome State Fault Refusal :=
  word s p fun s => s.finish ((s.me).wg d (s.timeAt s.here))

end Sys2Proof.Machine
end

