-- ==== Sys2Proof/Machine/System.lean ====
section
/-! DEFINITION. Traps, their return, and the state registers (R91-R103, R379-R386). -/

namespace Sys2Proof.Machine

/-! ## Entering and leaving a handler (R381, R386) -/

/-- The fault information that TRAP and BKPT hand to TakeFault: class 0, ADDR 0 (R381). -/
def State.trapInfo (s : State) (code sub : BitVec 8) (cpc : BitVec 32) : FaultInfo :=
  ⟨code, sub, 0, false, false, s.group, cpc, 0, 0, (s.me).prog, 0⟩

/-- TRAP: CODE 0x20, SUB the immediate, CPC the next group (R381). -/
def execTrap (e : BitVec 8) (p : BitVec 3) (s : State) : Host.Outcome State Fault Refusal :=
  word s p fun s => s.takeFault s.cur (s.trapInfo 0x20 e s.after)

/-- BKPT: CODE 0x21, CPC the BKPT itself (R381). -/
def execBkpt (p : BitVec 3) (s : State) : Host.Outcome State Fault Refusal :=
  word s p fun s => s.takeFault s.cur (s.trapInfo 0x21 0 s.group)

/-- ERET: PC := EPC, TRAPACT := 0; the replay list is made before the next group (R386, R267). -/
def execEret (p : BitVec 3) (s : State) : Host.Outcome State Fault Refusal :=
  word s p fun s => (s.setMe { s.me with trapact := false, replayDue := !(s.me).replay.isEmpty }).goto (s.me).epc

/-! ## State registers (R92-R100, R381) -/

/-- The class of a number: bits [11:9] (R92). -/
def srClass (r : BitVec 12) : Nat := (bits r 9 3).toNat

/-- The index of a number: bits [8:0] (R92). -/
def srIndex (r : BitVec 12) : Nat := (bits r 0 9).toNat

/-- Is the register 64 bits wide (R92)? -/
def srWide (r : BitVec 12) : Bool :=
  match srClass r with
  | 0 => [12, 14, 16, 18, 30].contains (srIndex r)
  | 2 => 16 ≤ srIndex r && srIndex r < 32
  | 4 => srIndex r == 5
  | _ => false

/-- Is the register RO, or RWL after the boot lock (R9, R88, R95, R99, R100)? -/
def State.srRo (s : State) (r : BitVec 12) : Bool :=
  match srClass r with
  | 0 => [1, 11, 12, 14, 16, 18, 21].contains (srIndex r)
  | 1 => [0, 20, 21].contains (srIndex r) || (srIndex r == 2 && s.bootLock)
  | 3 => true
  | 4 => srIndex r == 0
  | _ => false

/-- A 64-bit RCB register by the index of its low word, or a 32-bit one (R92). -/
def Row.readSr (r : Row) (i : Nat) : DWord :=
  match i with
  | 12 => r.mon[0].toBits
  | 14 => r.mon[1].toBits
  | 16 => r.mon[2].toBits
  | 18 => r.mon[3].toBits
  | 30 => r.frec
  | _ => (r.rcb i).setWidth 64

/-- A column register (R95). -/
def Column.readSr (c : Column) (i : Nat) : DWord :=
  match i with
  | 0 => if c.suspect then 1 else 0
  | 1 => c.xb.setWidth 64
  | 2 => c.chg.setWidth 64
  | 3 => c.bref.setWidth 64
  | 4 => c.bcap.setWidth 64
  | 5 => c.pcap.setWidth 64
  | 20 => c.testpre.setWidth 64
  | 21 => c.cecnt.setWidth 64
  | 22 => c.cethr.setWidth 64
  | _ =>
    if 8 ≤ i && i < 16 then ((c.wmk.toList.getD (i - 8) 0).setWidth 64)
    else if 16 ≤ i && i < 20 then ((c.mb.toList.getD (i - 16) 0).setWidth 64)
    else 0

/-- A span register (R97): BASE and LIMIT stand at [43:16]. -/
def Span.readSr (x : Span) (i : Nat) : DWord :=
  if i == 0 then x.wpart.setWidth 64
  else if 16 ≤ i && i < 32 then
    let k := (i - 16) / 2
    if i % 2 == 0 then ((x.rbase.toList.getD k 0).setWidth 64) <<< 16
    else (((x.rlimit.toList.getD k 0).setWidth 64) <<< 16) ||| ((x.rfmt.toList.getD k 0).setWidth 64)
  else 0

/-- A tenant register (R100): FPOL[7] reads 1. -/
def Tenant.readSr (x : Tenant) (t : BitVec 4) (i : Nat) : DWord :=
  match i with
  | 0 => t.setWidth 64
  | 1 => (x.fpol ||| 0x80).setWidth 64
  | 2 => x.tvec.setWidth 64
  | 3 => x.ovec.setWidth 64
  | 4 => x.tailvec.setWidth 64
  | 5 => x.cwbase.setWidth 64
  | 6 => x.ota.setWidth 64
  | 7 => x.otf.setWidth 64
  | 8 => x.otcfg.setWidth 64
  | _ => 0

/-- The corrected errors of a column that lie within the last 2^30 cycles, and their number, at most 2^32 - 1 (R204, R213). -/
def Column.ceNow (c : Column) (time : Nat) : Column :=
  let l := c.ceTimes.filter (fun t => time < t + 2 ^ 30)
  { c with ceTimes := l, cecnt := BitVec.ofNat 32 (min l.length (2 ^ 32 - 1)) }

/-- A state register of the issuing row's instances (R92, R93). -/
def State.readSr (s : State) (r : BitVec 12) : DWord :=
  let i := srIndex r
  match srClass r with
  | 0 => (s.me).readSr i
  | 1 => (if i == 21 then (s.col s.here).ceNow s.time else s.col s.here).readSr i
  | 2 => (s.span (spanOfSite s.here)).readSr i
  | 3 => ((s.field s.myField).fav.toList.getD i 0).setWidth 64
  | 4 => (s.ten s.cur.t).readSr s.cur.t i
  | _ => 0

/-- The denial of a write: ADDR holds the register's number (R93, R94, R433). -/
def srDenied (r : BitVec 12) : Flt := ⟨0x07, 0, r.setWidth 64, false, 0⟩

/-- An operand value that a register refuses: ADDR holds the value (R95, R98, R100, R433). -/
def badValue (v : DWord) : Flt := ⟨0x02, 0, v, false, 0⟩

/-- May a row of this privilege write the register: a user row writes only OTA, OTF and OTCFG outside its own RCB (R94)? -/
def State.srMay (s : State) (r : BitVec 12) : Bool :=
  !s.srRo r && ((s.me).priv || srClass r == 0 || (srClass r == 4 && 6 ≤ srIndex r))

/-- A column register written; none where its value is refused (R95). Of XB the bits [16:0] are tested, the rest being reserved
(R10). A write of WMKk sets FILL alone, up to the 16,384 bytes that a window holds, and leaves the arrival map as it is: R95
gives the register RW, and no rule says more (log entry 68, DESIGN CHOICE). -/
def Column.writeSr (c : Column) (i : Nat) (v : DWord) : Option Column :=
  match i with
  | 1 =>
    let x := (bits v 0 17).toNat
    if x % 256 == 0 && 0x1000 ≤ x && x ≤ 0x10000 then some { c with xb := BitVec.ofNat 17 x } else none
  | 2 =>
    if bits v 0 8 == 0 || bits v 8 8 == 0 || bits v 16 8 == 0 || bits v 24 8 == 0 then none
    else some { c with chg := bits v 0 32 }
  | 3 => some { c with bref := bits v 0 16 }
  | 4 => some { c with bcap := bits v 0 16 }
  | 5 => some { c with pcap := bits v 0 16 }
  | 22 => some { c with cethr := bits v 0 32 }
  | _ =>
    if h : 8 ≤ i ∧ i < 16 then some { c with wmk := c.wmk.set (i - 8) (BitVec.ofNat 18 (min 16384 (bits v 0 18).toNat)) (by omega) }
    else if h : 16 ≤ i ∧ i < 20 then some { c with mb := c.mb.set (i - 16) (bits v 0 32) (by omega) }
    else some c

/-- A tenant register written; none for FAN = 3 (R100). -/
def Tenant.writeSr (x : Tenant) (i : Nat) (v : DWord) : Option Tenant :=
  match i with
  | 1 => some { x with fpol := bits v 0 8 ||| 0x80 }
  | 2 => some { x with tvec := bits v 0 32 &&& ~~~3#32 }
  | 3 => some { x with ovec := bits v 0 32 &&& ~~~3#32 }
  | 4 => some { x with tailvec := bits v 0 32 &&& ~~~3#32 }
  | 5 => some { x with cwbase := bits v 0 48 &&& ~~~0xFFFF#48 }
  | 6 => some { x with ota := bits v 0 32 }
  | 7 => some { x with otf := bits v 0 32 }
  | 8 => if bits v 0 2 == 3 then none else some { x with otcfg := bits v 0 32 &&& 0xF03 }
  | _ => some x

/-- A cached aperture line of a range is removed from the span cache and from every column cache (R98, R127). -/
def State.flushRange (s : State) (i k : Nat) : State :=
  let slot := 1024 + 8 * i + k
  let isLine := fun (line : Nat) => paSlot (256 * line) == slot
  let s : State := { s with cols := s.cols.map (fun (j, c) => (j, { c with cache := c.cache.filter (fun l => !isLine l.line) })) }
  s.setSpan i { s.span i with lines := (s.span i).lines.filter (fun l => !isLine l.line) }

/-- The issuing row keeps its slot and awaits an answer; the group is over once the answer comes (R254, R255). -/
def State.awaitAnswer (s : State) : State := { s.setMe { s.me with await := some s.after } with run := [] }

/-- WPART written (R98, R116): the transition starts, the lines of the ways that leave the cache go, and the row awaits its end;
while another transition is in progress the write waits to start. -/
def State.writeWpart (s : State) (v : DWord) : State :=
  let i := spanOfSite s.here
  let x := s.span i
  if x.trans.isSome then s.abandonGroup
  else (s.setSpan i ({ x with trans := some (bits v 0 4), transRow := some s.cur } : Span).trim).awaitAnswer

/-- A range register of a span written, the range flushed where its FRNGkC is (R98); none for FMT = 3. -/
def State.writeRange (s : State) (i idx : Nat) (v : DWord) : Option State :=
  let x := s.span i
  if h : 16 ≤ idx ∧ idx < 32 then
    if idx % 2 == 0 then some (s.setSpan i { x with rbase := x.rbase.set ((idx - 16) / 2) (bits v 16 28) (by omega) })
    else if bits v 0 2 == 3 then none
    else
      some ((s.setSpan i { x with rlimit := x.rlimit.set ((idx - 16) / 2) (bits v 16 28) (by omega),
                                  rfmt := x.rfmt.set ((idx - 16) / 2) (bits v 0 2) (by omega) }).flushRange i ((idx - 16) / 2))
  else some s

/-- A span register written (R97, R98). -/
def State.writeSpanSr (s : State) (idx : Nat) (v : DWord) : State :=
  if idx == 0 then s.writeWpart v
  else
    match s.writeRange (spanOfSite s.here) idx v with
    | some s' => s'.advance
    | none => s.raise (badValue v)

/-- A write of the row's own RCB takes effect at the boundary that ends the instruction (R91): a written PC names the next
group; a command acts on the row itself. A value that R89 withholds is denied. -/
def State.writeOwn (s : State) (r : BitVec 12) (v : DWord) : State :=
  let i := srIndex r
  let x := s.me
  if i == 30 then
    if x.rcbRefused x.priv true 30 (bits v 0 32) || x.rcbRefused x.priv true 31 (bits v 32 32) then s.raise (srDenied r)
    else
      let s := s.advance
      s.setMe (((s.me).setRcb 30 (bits v 0 32)).setRcb 31 (bits v 32 32))
  else
    let w := bits v 0 32
    let cmd := if i == 0 then (bits w 0 4).toNat else 0
    if 5 < cmd || x.rcbRefused x.priv true i w then s.raise (srDenied r)
    else
      let s := s.advance
      let s := (s.setMe ((s.me).setRcb i w)).moveBound s.cur x.launch
      match cmdOf cmd with
      | some c => s.command s.cur c
      | none => s

/-- A state register written with a value (R91-R100). -/
def State.writeSr (s : State) (r : BitVec 12) (v : DWord) : State :=
  let i := srIndex r
  if !s.srMay r then s.raise (srDenied r)
  else
    match srClass r with
    | 0 => s.writeOwn r v
    | 1 =>
      match (s.col s.here).writeSr i v with
      | some c => (s.setCol s.here c).advance
      | none => s.raise (badValue v)
    | 2 => s.writeSpanSr i v
    | 4 =>
      match (s.ten s.cur.t).writeSr i v with
      | some x => (s.setTen s.cur.t x).advance
      | none => s.raise (badValue v)
    | _ => s.advance

/-- A source at the register's width: the low 32 bits for a 32-bit register (R93). -/
def srSource (r : BitVec 12) (v : DWord) : DWord := if srWide r then v else (bits v 0 32).setWidth 64

/-- SRR (R381, R93). -/
def execSrr (d : BitVec 6) (r : BitVec 12) (p : BitVec 3) (s : State) : Host.Outcome State Fault Refusal :=
  word s p fun s => s.finish ((s.me).wg d (s.readSr r))

/-- SRW (R381, R93). -/
def execSrw (d : BitVec 6) (r : BitVec 12) (p : BitVec 3) (s : State) : Host.Outcome State Fault Refusal :=
  word s p fun s => s.writeSr r (srSource r ((s.me).rg d))

/-- SRS: the source is ORed into the register (R381, R93). -/
def execSrs (d : BitVec 6) (r : BitVec 12) (p : BitVec 3) (s : State) : Host.Outcome State Fault Refusal :=
  word s p fun s => s.writeSr r (s.readSr r ||| srSource r ((s.me).rg d))

/-- SRC: the bits that are 1 in the source are cleared in the register (R381, R93). -/
def execSrc (d : BitVec 6) (r : BitVec 12) (p : BitVec 3) (s : State) : Host.Outcome State Fault Refusal :=
  word s p fun s => s.writeSr r (s.readSr r &&& ~~~(srSource r ((s.me).rg d)))

end Sys2Proof.Machine
end

