-- ==== Sys2Proof/Machine/Units.lean ====
section
/-! DEFINITION. What units do for a row: reading a descriptor or a source, reductions that engines and launch units make,
and resuming a row with an acquire (R141, R208, R233, R239). -/

namespace Sys2Proof.Machine

/-! ## Reading descriptors, records and sources -/

/-- The pieces of [va, va + n), each within one aligned block of `g` bytes. -/
def piecesOf (g : Nat) (va : DWord) (n : Nat) : List (DWord × Nat) :=
  if n == 0 then []
  else
    let o := va.toNat % g
    (List.range ((o + n - 1) / g + 1)).map (fun j =>
      let lo := max (g * j) o
      (va + BitVec.ofNat 64 (lo - o), min (g * (j + 1)) (o + n) - lo))

/-- `n` bytes, a multiple of 32 or fewer than 32, read by the issuing row sector by sector from an address that lies in the
sectors' order; a receive window is waited for (R119), and what the row must follow is (R219). -/
def State.readAs (s : State) (va : DWord) (n : Nat) : Res (List Byte) :=
  (List.range (ceilDiv n 32)).foldl (fun acc j => acc.bind fun bs s =>
    let a := va + BitVec.ofNat 64 (32 * j)
    let m := min 32 (n - 32 * j)
    (s.access s.who .load a 1).bind fun (l, attr) s =>
      if s.earlyMeets s.cur a m || s.busyAt s.cur l m then .stall
      else (s.fillWait l m).bind fun _ s =>
        (s.loadAt s.who l attr CacheHint.none a m).bind fun x s => .ok (bs ++ x) s) (.ok [] s)

/-- The addresses at which the 64 KiB pages of [va, va + n) are translated: `va` itself and every later page's first byte. -/
def pagesOf (va : DWord) (n : Nat) : List DWord :=
  if n == 0 then []
  else
    let o := va.toNat % 2 ^ 16
    (List.range ((o + n - 1) / 2 ^ 16 + 1)).map (fun j => if j == 0 then va else va + BitVec.ofNat 64 (2 ^ 16 * j - o))

/-- Every page of a source translated as a load (R342). -/
def State.checkPages (s : State) (l : List DWord) : Res Unit :=
  l.foldl (fun acc a => acc.bind fun _ s => (s.check s.who .load a 1).bind fun _ s => .ok () s) (.ok () s)

/-- `n` bytes of a source, from a multiple of 32 on, as the copy unit reads them: after every earlier store of the row to them
(R239) (log entry 42, DEDUCED). -/
def State.sourceBytes (s : State) (va : DWord) (n : Nat) : Res (List Byte) :=
  (List.range (ceilDiv n 32)).foldl (fun acc j => acc.bind fun bs s =>
    let a := va + BitVec.ofNat 64 (32 * j)
    let m := min 32 (n - 32 * j)
    (s.check s.who .load a 1).bind fun (l, attr) s =>
      if s.earlyMeets s.cur a m || s.busyAt s.cur l m then .stall
      else (s.loadAt s.who l attr CacheHint.none a m).bind fun x s => .ok (bs ++ x) s) (.ok [] s)

/-- A 48-bit address field of a descriptor as an address (R300): sign-extended (log entry 44, DEDUCED). -/
def addr48 (x : BitVec 48) : DWord := sext 64 x

/-- An address that must name DRAM, translated as a write-type access with an attribute PAGE for any other place, whatever that
place itself would refuse (R342, R371). -/
def State.dramWord (s : State) (va : DWord) : Res (Nat × Keep) :=
  (s.translate s.who true va).bind fun (pa, attr) s =>
    match s.locate s.who pa attr with
    | .error n => .fault (Flt.page (BitVec.ofNat 8 n) va true)
    | .ok (.dram pa) => .ok (pa, keepOf attr CacheHint.none) s
    | .ok _ => .fault (Flt.page 3 va true)

/-- The DONE word of a transfer: an 8-byte word of DRAM translated as a write-type access (R342), with what its page makes of its
line at the home; none for 0. -/
def State.doneWord (s : State) (done : BitVec 48) : Res (Option (Nat × Keep)) :=
  if done == 0 then .ok none s else (s.dramWord (addr48 done)).bind fun x s => .ok (some x) s

/-! ## Reductions of units (R141, R208) -/

/-- A reduction that a unit of a column makes on a DRAM word: no row's PEND counts it. It is a release, with its vector where it
has one. -/
def State.unitRed (s : State) (k : RowKey) (site : Nat) (x : Nat × Keep) (v : DWord) (vec : Option (Vector (BitVec 32) 12)) : State :=
  let (pa, keep) := x
  let (s, num) := s.depart (fieldOfSite site) (homeField pa) false
  { s with reds := s.reds ++ [⟨k, false, .add, 8, pa, false, BitVec.ofNat 7 (homeSpan pa), v, true, vec, num, s.ops + 1, 1,
      keep⟩], ops := s.ops + 1 }

/-! ## Releases and acquires of a row -/

/-- The element-wise maximum of two vectors, in the wrap-safe order (R212, R224). -/
def joinVec (a b : Vector (BitVec 32) 12) : Vector (BitVec 32) 12 :=
  Vector.ofFn (fun (j : Fin 12) => if bit (a[j] - b[j]) 31 then b[j] else a[j])

/-- A vector joined into a row's dependency vector (R224); no later load of the row has fixed its value before this acquire (R220). -/
def State.joinDv (s : State) (k : RowKey) (v : Vector (BitVec 32) 12) : State :=
  let r := s.row k
  s.setRow k { r with dv := joinVec r.dv v, ahead := [] }

/-- The acquire of a row that a command, a start or an arrival resumes at WAFER scope (R233, R223): the vector joins its
own, and the lines of other fields leave its column's cache. -/
def State.resumeAcquire (s : State) (k : RowKey) (v : Vector (BitVec 32) 12) : State :=
  (s.joinDv k v).acquireFar (s.siteOf k)

/-- The vector of a release that a unit of field `f` performs, behind the releases it has followed (R225). -/
def State.unitVec (s : State) (f : Nat) (v : Vector (BitVec 32) 12) : Vector (BitVec 32) 12 :=
  let x := s.field f
  Vector.ofFn (fun (j : Fin 12) => if j.val == f then x.dep else if bit (v[j] - x.fav[j]) 31 then x.fav[j] else v[j])

/-- Are writes of the issuing row still on their way that a release must follow (R220, R225)? -/
def State.releaseWaits (s : State) : Bool := s.sending

end Sys2Proof.Machine
end

