-- ==== Sys2Proof/Machine/Channels.lean ====
section
/-! DEFINITION. The channels (R131-R136, R320-R323, R338) and the arrival of a neighbour push (R134). -/

namespace Sys2Proof.Machine

/-! ## References (R132) -/

/-- CHANNEL_BIND (R132): its ADDR is 0 (R433). -/
def channelBind : Flt := ⟨0x0B, 0, 0, false, 0⟩

/-- The neighbour of a site in a grid: place 1 N, 2 E, 3 S, 4 W (R132, R181). -/
def neighbour (grid : List (BitVec 10)) (site place : Nat) : Option (BitVec 10) :=
  let n := grid.length
  let i := indexIn grid site
  let w := gridWidth n
  if n ≤ i then none
  else
    match place with
    | 1 => if w ≤ i then grid[i - w]? else none
    | 2 => if i % w + 1 < w then grid[i + 1]? else none
    | 3 => grid[i + w]?
    | 4 => if i % w != 0 then grid[i - 1]? else none
    | _ => none

/-- A channel of a column. -/
def State.chan (s : State) (site : Nat) (k : BitVec 4) : Chan := (s.col site).chans[k.toNat]

/-- A column with a channel replaced. -/
def Column.setChan (c : Column) (k : BitVec 4) (x : Chan) : Column := { c with chans := c.chans.set k.toNat x }

/-- The column that a reference names, after the checks of R132; none raises CHANNEL_BIND. -/
def State.chanRef (s : State) (k : BitVec 4) (place : Nat) : Option Nat :=
  let site : Option Nat :=
    if place == 0 then some s.here
    else
      match neighbour (s.gridOf s.cur) s.here place with
      | some t => if (s.col t.toNat).owner == some s.cur.t then some t.toNat else none
      | none => none
  match site with
  | none => none
  | some t =>
    let x := s.chan t k
    if x.bound && x.lnch != (s.me).launch then none else some t

/-! ## The ring (R131, R133) -/

/-- The scratchpad offset of entry `i` of channel `k` (R131). -/
def ringOff (k : BitVec 4) (i : BitVec 9) : Nat := 0x20000 + 0x1000 * k.toNat + 8 * i.toNat

/-- push of R133 on a column; none where the ring is full. -/
def Column.push (c : Column) (k : BitVec 4) (v : DWord) (ctl : Bool) : Option Column :=
  let x := c.chans[k.toNat]
  if 512 ≤ x.count.toNat then none
  else
    some ((c.scratchStore (ringOff k x.tail) (toBytes 8 v)).setChan k
      { x with tail := x.tail + 1, count := x.count + 1, ctl := setBit x.ctl x.tail.toNat ctl })

/-- The value at the head of a channel's ring. -/
def Column.headValue (c : Column) (k : BitVec 4) : DWord := ofBytes 64 (c.scratch.readBytes (ringOff k c.chans[k.toNat].head) 8)

/-- Has the head entry an uncorrected error (R270)? -/
def Column.headBad (c : Column) (k : BitVec 4) : Bool := poisoned c.badScratch (ringOff k c.chans[k.toNat].head) 8

/-- Is the head entry a fibre end (R135)? -/
def Column.headCtl (c : Column) (k : BitVec 4) : Bool := bit c.chans[k.toNat].ctl c.chans[k.toNat].head.toNat

/-- The head entry taken (R133). -/
def Column.pop (c : Column) (k : BitVec 4) : Column :=
  let x := c.chans[k.toNat]
  c.setChan k { x with head := x.head + 1, count := x.count - 1 }

/-! ## QPUSH and QPUSHC (R322) -/

/-- A push to a neighbour leaves, and the row awaits its answer (R134). -/
def State.sendPush (s : State) (target : Nat) (k : BitVec 4) (v : DWord) (ctl : Bool) (pd : BitVec 3)
    (vec : Option (Vector (BitVec 32) 12)) : State :=
  let m : Push :=
    ⟨s.cur, s.after, s.ops + 1, BitVec.ofNat 10 target, k, v, ctl, pd, (s.me).launch, (s.chan target k).bound, vec⟩
  let s : State := { s with pushes := s.pushes ++ [m], ops := s.ops + 1 }
  s.awaitAnswer

/-- Has the row an earlier push on its way to the channel? Pushes of one row to one channel are applied in issue order (R133): a trap
handler's waits, too, for one that stands behind a store still to be replayed (log entry 50, DEDUCED). -/
def State.pushAhead (s : State) (k : RowKey) (target : Nat) (ch : BitVec 4) (q : Nat) : Bool :=
  s.pushes.any (fun m => m.row == k && m.target.toNat == target && m.ch == ch && m.seq < q)

/-- A push at the named column. On the own column it is applied at once, as a release at COLUMN scope; a push to a neighbour
is sent, and the row awaits its answer (R134); every earlier write of the row becomes visible before it (R239). Towards another
field it carries its vector (R225). -/
def State.pushTo (s : State) (target : Nat) (k : BitVec 4) (v : DWord) (ctl : Bool) (pd : BitVec 3) : State :=
  if target == s.here then
    if s.releaseWaits || s.pushAhead s.cur target k (s.ops + 1) then s.abandonGroup
    else
      match (s.col target).push k v ctl with
      | some c => (s.setCol target c).finish ((s.me).wp pd true)
      | none => s.finish ((s.me).wp pd false)
  else if fieldOfSite target == s.myField then (s.releaseFar s.here).sendPush target k v ctl pd none
  else
    let s := s.releaseFar s.here
    let vec := s.releaseVec s.cur s.myField
    s.sendPush target k v ctl pd (some vec)

/-- A push instruction (R322). -/
def pushWord (g : BitVec 6) (c : BitVec 4) (q l p : BitVec 3) (ctl : Bool) (s : State) : Host.Outcome State Fault Refusal :=
  word s p fun s =>
    match s.chanRef c l.toNat with
    | none => s.raise channelBind
    | some t => s.pushTo t c ((s.me).rg g) ctl q

/-- QPUSH (R322). -/
def execQpush (g : BitVec 6) (c : BitVec 4) (q l p : BitVec 3) (s : State) : Host.Outcome State Fault Refusal :=
  pushWord g c q l p false s

/-- QPUSHC (R322). -/
def execQpushc (g : BitVec 6) (c : BitVec 4) (q l p : BitVec 3) (s : State) : Host.Outcome State Fault Refusal :=
  pushWord g c q l p true s

/-- The push that `sel.k` names, and the rest. -/
def State.selPush (s : State) : Option Push := s.pushes[s.sel.k]?

/-- NEIGHBOUR_PUSH_ARRIVAL (R133, R134): a push reaches its target, where the release that it is has waited until it may become
visible (R225, R239). A push that meets a channel unbound or rebound since is discarded. -/
def execNeighbourPushArrival (s : State) : Host.Outcome State Fault Refusal :=
  match s.selPush with
  | none => .next s
  | some m =>
    if !s.releasable m.row m.seq (fieldOfSite (s.siteOf m.row)) (fieldOfSite m.target.toNat) m.vec ||
      s.pushAhead m.row m.target.toNat m.ch m.seq then .next s
    else
      let s : State := { s with pushes := s.pushes.eraseIdx s.sel.k }
      let x := s.chan m.target.toNat m.ch
      let gone := (m.bound && !x.bound) || (x.bound && x.lnch != m.lnch)
      if gone then .next (s.answerAt m.row m.next (fun r => r.wp m.pd false))
      else
        match (s.col m.target.toNat).push m.ch m.value m.ctl with
        | some c => .next ((s.setCol m.target.toNat c).answerAt m.row m.next (fun r => r.wp m.pd true))
        | none => .next (s.answerAt m.row m.next (fun r => r.wp m.pd false))

/-! ## QPOP, QPEEK, QCNT, TAILRET (R322, R135, R338) -/

/-- The acquire of a successful pop: the entries of its ring are known in the field (R133, R224) (log entry 45, DEDUCED). -/
def State.popAcquire (s : State) : State := (s.joinDv s.cur (s.field s.myField).fav).acquireFar s.here

/-- A read of the head entry: it follows the row's earlier stores to the ring; a poisoned word faults (R219, R270). -/
def State.ringRead (s : State) (c : BitVec 4) (f : State → State) : State :=
  let col := s.col s.here
  if s.earlyMeets s.cur (BitVec.ofNat 64 (ringOff c col.chans[c.toNat].head)) 8 then s.abandonGroup
  else if col.headBad c then s.raise (Flt.ecc 4 false)
  else f s

/-- QPOP (R322, R133, R135) (log entry 45, DEDUCED). -/
def execQpop (d : BitVec 6) (c : BitVec 4) (q p : BitVec 3) (s : State) : Host.Outcome State Fault Refusal :=
  word s p fun s =>
    match s.chanRef c 0 with
    | none => s.raise channelBind
    | some _ =>
      let col := s.col s.here
      let tail := bit (s.me).tailpc 0
      if col.chans[c.toNat].count == 0 || (col.headCtl c && tail) then s.finish ((s.me).wp q false)
      else if s.releasing s.cur then s.abandonGroup
      else
        s.ringRead c fun s =>
          let ctl := col.headCtl c
          let v := col.headValue c
          let s := (s.setCol s.here (col.pop c)).popAcquire
          let r := ((s.me).wg d v).wp q true
          if ctl then (s.setMe { r with tailpc := s.after ||| 1 }).goto (s.ten s.cur.t).tailvec
          else s.finish r

/-- QPEEK: the head entry, the channel unchanged (R322). -/
def execQpeek (d : BitVec 6) (c : BitVec 4) (q p : BitVec 3) (s : State) : Host.Outcome State Fault Refusal :=
  word s p fun s =>
    match s.chanRef c 0 with
    | none => s.raise channelBind
    | some _ =>
      let col := s.col s.here
      if col.chans[c.toNat].count == 0 then s.finish ((s.me).wp q false)
      else s.ringRead c fun s => s.finish (((s.me).wg d (col.headValue c)).wp q true)

/-- The state word of a channel (R131). -/
def Chan.word (x : Chan) : BitVec 32 := (BitVec.ofBool x.bound ++ x.tail ++ x.head ++ x.count).setWidth 32

/-- QCNT (R322). -/
def execQcnt (d : BitVec 6) (c : BitVec 4) (p : BitVec 3) (s : State) : Host.Outcome State Fault Refusal :=
  word s p fun s =>
    match s.chanRef c 0 with
    | none => s.raise channelBind
    | some t => s.finish ((s.me).wg d ((s.chan t c).word.setWidth 64))

/-- TAILRET (R338). -/
def execTailret (p : BitVec 3) (s : State) : Host.Outcome State Fault Refusal :=
  word s p fun s =>
    let t := (s.me).tailpc
    if bit t 0 then (s.setMe { s.me with tailpc := t &&& ~~~1#32 }).goto (t &&& ~~~3#32)
    else s.raise channelBind

/-! ## Binding (R136, R148) -/

/-- A channel bound to a launch: empty, its control bits clear (R136). -/
def boundChan (l : BitVec 32) : Chan := ⟨0, 0, 0, true, l, 0⟩

/-- The channels of a column bound to a launch are unbound and their entries discarded; each posts field event 5 (R136,
R146). -/
def State.unbindAt (s : State) (t : BitVec 4) (l : BitVec 32) (site : BitVec 10) : State :=
  let c := s.col site.toNat
  (List.finRange 16).foldl (fun s (k : Fin 16) =>
    let x := c.chans[k]
    if x.bound && x.lnch == l then
      let c' := s.col site.toNat
      (s.setCol site.toNat { c' with chans := c'.chans.set k Chan.reset }).fieldEvent 5 t site l
    else s) s

end Sys2Proof.Machine
end

