-- ==== Sys2Proof/WellFormed.lean ====
section
/-! DEFINITION. Which terms of `Instr` are instructions: the field values that each entry's limits allow
(R46, R57 step 4). A word whose fields break a limit is no instruction and raises ILLEGAL_FIELD, or ILLEGAL_OPCODE
where the entry says so; the decoder refuses it. -/

namespace Sys2Proof

/-- The lane count n of each EF code (R64, R72); K8 (13) names sixteen elements. -/
def efLanes (ef : BitVec 4) : Nat :=
  match ef.toNat with
  | 0 => 4 | 1 => 8 | 2 => 8 | 3 => 16 | 4 => 16 | 5 => 21 | 6 => 32 | 7 => 16
  | 8 => 21 | 9 => 32 | 10 => 16 | 11 => 32 | 12 => 64 | 13 => 16 | 14 => 8 | _ => 4

/-- The number of parts q of a VCVT between two formats (R349). -/
def vcvtParts (dst src : BitVec 4) : Nat :=
  let a := max (efLanes dst) (efLanes src)
  let b := min (efLanes dst) (efLanes src)
  (a + b - 1) / b

/-- Is a 12-bit state-register number assigned (R92, R381)? Row class: RCB words 0x000-0x01E but the
high words of MON0-MON3; column, span, field and tenant classes as R95, R97, R99 and R100 list them. -/
def srAssigned (r : BitVec 12) : Bool :=
  let n := r.toNat
  (n ≤ 0x01E && n != 0x00D && n != 0x00F && n != 0x011 && n != 0x013) ||
  (0x200 ≤ n && n ≤ 0x205) || (0x208 ≤ n && n ≤ 0x216) ||
  n == 0x400 || (0x410 ≤ n && n ≤ 0x41F) ||
  (0x600 ≤ n && n ≤ 0x60B) || (0x800 ≤ n && n ≤ 0x808)

/-- The limits on the fields of each instruction's entry (R46, R57 step 4). -/
def Instr.wellFormed : Instr → Bool
  | .cachex e v w l => !(e == 0 && v == 0 && w == 0 && l == 0) && w != 3 && (e == 1 || v == 0)
  | .scopex s => s.toNat ≤ 4
  | .prefx _ _ s => s != 0
  | .ignoredHint .. => true
  | .addD .. => true
  | .addW .. => true
  | .subD .. => true
  | .subW .. => true
  | .mulD .. => true
  | .mulW .. => true
  | .mulh .. => true
  | .mulhn .. => true
  | .divD .. => true
  | .divW .. => true
  | .divnD .. => true
  | .divnW .. => true
  | .remD .. => true
  | .remW .. => true
  | .remnD .. => true
  | .remnW .. => true
  | .min .. => true
  | .max .. => true
  | .minn .. => true
  | .maxn .. => true
  | .and .. => true
  | .or .. => true
  | .xor .. => true
  | .andn .. => true
  | .shl .. => true
  | .shr .. => true
  | .sra .. => true
  | .rot .. => true
  | .bext .. => true
  | .bins .. => true
  | .sel .. => true
  | .absD .. => true
  | .absW .. => true
  | .clzD .. => true
  | .clzW .. => true
  | .popcD .. => true
  | .popcW .. => true
  | .addi .. => true
  | .andi .. => true
  | .ori .. => true
  | .xori .. => true
  | .shli _ _ w c _ => w == 0 || c.toNat ≤ 31
  | .shri _ _ w c _ => w == 0 || c.toNat ≤ 31
  | .srai _ _ w c _ => w == 0 || c.toNat ≤ 31
  | .roti _ _ w c _ => w == 0 || c.toNat ≤ 31
  | .cmp _ c _ _ _ _ => c.toNat ≤ 5
  | .cmpi _ c _ _ _ => c.toNat ≤ 5
  | .pand .. => true
  | .por .. => true
  | .pxor .. => true
  | .pnot .. => true
  | .pmov .. => true
  | .movi .. => true
  | .br .. => true
  | .brn s _ => s != 0
  | .call .. => true
  | .calln s _ => s != 0
  | .jr .. => true
  | .ret .. => true
  | .loop c _ _ => c != 0
  | .ldb .. => true
  | .ldh .. => true
  | .ldw .. => true
  | .ldd .. => true
  | .stb .. => true
  | .sth .. => true
  | .stw .. => true
  | .std .. => true
  | .ldv .. => true
  | .stv .. => true
  | .ldxH d _ v _ => d != v
  | .ldxW d _ v _ => d != v
  | .ldxD d _ v _ => d != v
  | .stxH .. => true
  | .stxW .. => true
  | .stxD .. => true
  | .ldblk .. => true
  | .stblk .. => true
  | .ldbs .. => true
  | .ldhs .. => true
  | .ldws .. => true
  | .lwd _ o _ => 64 ≤ o.toNat && o.toNat ≤ 255
  | .swd _ o _ => 64 ≤ o.toNat && o.toNat ≤ 255
  | .aadd .. => true
  | .amin .. => true
  | .amax .. => true
  | .aand .. => true
  | .aor .. => true
  | .axor .. => true
  | .aswap .. => true
  | .acas d _ _ _ _ => d.toNat % 2 == 0
  | .afadd .. => true
  | .qadd .. => true
  | .qmin .. => true
  | .qmax .. => true
  | .qand .. => true
  | .qior .. => true
  | .qxor .. => true
  | .qfadd .. => true
  | .qbf16add .. => true
  | .qaddx .. => true
  | .qminx .. => true
  | .qmaxx .. => true
  | .qandx .. => true
  | .qiorx .. => true
  | .qxorx .. => true
  | .qfaddx .. => true
  | .qbf16addx .. => true
  | .ldfe .. => true
  | .ldf .. => true
  | .stfe .. => true
  | .sete .. => true
  | .fence s _ => s.toNat ≤ 4
  | .ldaD .. => true
  | .ldaW .. => true
  | .stlD .. => true
  | .stlW .. => true
  | .yield .. => true
  | .close .. => true
  | .halt .. => true
  | .arm .. => true
  | .disarm k _ => k.toNat ≤ 4
  | .waitm .. => true
  | .spawn .. => true
  | .migr .. => true
  | .stepx .. => true
  | .qpush _ _ _ l _ => l.toNat ≤ 4
  | .qpushc _ _ _ l _ => l.toNat ≤ 4
  | .qpop .. => true
  | .qpeek .. => true
  | .qcnt .. => true
  | .tailret .. => true
  | .send .. => true
  | .sendq .. => true
  | .halo .. => true
  | .wmk .. => true
  | .hclaim .. => true
  | .hwait .. => true
  | .htest .. => true
  | .kwalk .. => true
  | .kapnd .. => true
  | .ksum .. => true
  | .mxq .. => true
  | .mxs .. => true
  | .mxw .. => true
  | .mxt .. => true
  | .mxcan .. => true
  | .gnext .. => true
  | .gdone .. => true
  | .launch .. => true
  | .lhint .. => true
  | .waitp s _ => s.toNat ≤ 4
  | .cancel .. => true
  | .joinw .. => true
  | .vadd .. => true
  | .vsub .. => true
  | .vmul .. => true
  | .vfma .. => true
  | .vfms .. => true
  | .vmin .. => true
  | .vmax .. => true
  | .vabs .. => true
  | .vneg .. => true
  | .vdot2 _ _ _ t _ => t != 1
  | .vdot4 .. => true
  | .viadd .. => true
  | .visub .. => true
  | .vimul .. => true
  | .viadds .. => true
  | .visubs .. => true
  | .vimuls .. => true
  | .vshl .. => true
  | .vshr .. => true
  | .vand .. => true
  | .vor .. => true
  | .vxor .. => true
  | .vnadd .. => true
  | .vnsub .. => true
  | .vnmul .. => true
  | .vnfma .. => true
  | .vnmax .. => true
  | .vndot .. => true
  | .vquant .. => true
  | .vbaq d _ _ k _ => d.toNat != 20 + k.toNat / 2
  | .vcvt _ _ r x y _ => x != 13 && y != 13 && r.toNat < vcvtParts x y
  | .vshuf .. => true
  | .vbcast .. => true
  | .vext _ i _ w _ => i.toNat < 16 >>> w.toNat
  | .vins _ _ i w _ => i.toNat < 16 >>> w.toNat
  | .vselv .. => true
  | .vrsum .. => true
  | .vrmax .. => true
  | .vrmin .. => true
  | .vexp2 .. => true
  | .vlog2 .. => true
  | .vrcp .. => true
  | .vrsq .. => true
  | .vsin .. => true
  | .vtanh .. => true
  | .vsig .. => true
  | .vcmp _ _ _ c _ _ => c.toNat ≤ 4
  | .vany _ _ _ c _ _ => c.toNat ≤ 4
  | .vall _ _ _ c _ _ => c.toNat ≤ 4
  | .fadd .. => true
  | .fsub .. => true
  | .fmul .. => true
  | .ffma .. => true
  | .fdiv .. => true
  | .fsqrt .. => true
  | .fmin .. => true
  | .fmax .. => true
  | .fcvt _ _ x y _ => x != y && !(4 ≤ x.toNat && 4 ≤ y.toNat)
  | .fcmpeq .. => true
  | .fcmplt .. => true
  | .fcmple .. => true
  | .trap .. => true
  | .eret .. => true
  | .bkpt .. => true
  | .srr _ r _ => srAssigned r
  | .srw _ r _ => srAssigned r
  | .srs _ r _ => srAssigned r
  | .src _ r _ => srAssigned r
  | .cflush .. => true
  | .cinv .. => true
  | .czero .. => true
  | .tlbi _ s _ => 1 ≤ s.toNat && s.toNat ≤ 3
  | .tlbiAll s _ => 1 ≤ s.toNat && s.toNat ≤ 3
  | .xbset .. => true
  | .wayset .. => true
  | .wfx .. => true
  | .feat _ w _ => w != 3
  | .topo _ s _ => s.toNat ≤ 8
  | .idr _ s _ => s.toNat ≤ 9
  | .time .. => true
  | .immx .. => true
  | .rndx m => m.toNat ≤ 4
  | .hmove .. => true
  | .hend .. => true
  | .hinfo .. => true
  | .kstat .. => true
  | .start => true
  | .stop => true
  | .redirect => true
  | .kill => true
  | .step => true
  | .outsideStore => true
  | .controlWindowRefusal => true
  | .activation => true
  | .activationComplete => true
  | .rowCloseComplete => true
  | .quantumExpiry => true
  | .preEmption => true
  | .budgetRefill => true
  | .budgetClosure => true
  | .windowSumClear => true
  | .deferredStoreFault => true
  | .faultQueueAppend => true
  | .faultRingHeadReread => true
  | .pageWalkComplete => true
  | .tlbiComplete => true
  | .reductionPerform => true
  | .reductionAck => true
  | .homeOperation => true
  | .performanceNotice => true
  | .parkedReleaseApply => true
  | .writeBack => true
  | .ldfeAnswerWake => true
  | .wake => true
  | .monitorFire => true
  | .joinwWake => true
  | .wfxDeadline => true
  | .windowFillWake => true
  | .waitpWake => true
  | .placeAbandonment => true
  | .spawnMessageArrival => true
  | .spawnServe => true
  | .migrationPlacement => true
  | .launchPlacement => true
  | .launchRowStart => true
  | .successorIssue => true
  | .retirementCount => true
  | .columnReport => true
  | .fieldReport => true
  | .neighbourPushArrival => true
  | .sectorArrival => true
  | .haloArrival => true
  | .metadataArrival => true
  | .targetAcknowledgement => true
  | .jobStart => true
  | .tileComplete => true
  | .jobCompletion => true
  | .completionNotice => true
  | .operandFault => true
  | .mxcanAtColumn => true
  | .tlockGrant => true
  | .walkerRequestComplete => true
  | .walkerRequestStart => true
  | .gatewayBlockArrival => true
  | .peerQueued => true
  | .pairingComplete => true
  | .linkFailure => true
  | .wpartTransitionComplete => true
  | .wayWakeComplete => true
  | .correctedError => true
  | .cecntExpiry => true
  | .columnRetirement => true
  | .testerWindow => true
  | .fieldEventPost => true
  | .thermalSensor => true
  | .mplim => true
  | .vctlReset => true
  | .vctlStop => true
  | .vctlStart => true
  | .tenantStopDrain => true
  | .tenantResetDrain => true
  | .functionLevelReset => true
  | .cqbell => true
  | .hostLaunch => true
  | .hostCancel => true
  | .counter => true
  | .seal => true
  | .load => true
  | .mqbell => true
  | .create => true
  | .repart => true
  | .swapout => true
  | .swapin => true
  | .remove => true
  | .hostwin => true
  | .pair => true
  | .unpair => true
  | .reinstate => true
  | .hostHdmAccess => true
  | .doeSpdmRequest => true
  | .registerWrite => true
  | .powerUp => true
  | .illegalEncoding => true
  | .kilnTranslationComplete => true
  | .pairingEnd => true
  | .hostLinkTraining => true

/-- Is the term an instruction word (true) or an event of the device (false)? -/
def Instr.isWord : Instr → Bool
  | .cachex .. => true
  | .scopex .. => true
  | .prefx .. => true
  | .ignoredHint .. => true
  | .addD .. => true
  | .addW .. => true
  | .subD .. => true
  | .subW .. => true
  | .mulD .. => true
  | .mulW .. => true
  | .mulh .. => true
  | .mulhn .. => true
  | .divD .. => true
  | .divW .. => true
  | .divnD .. => true
  | .divnW .. => true
  | .remD .. => true
  | .remW .. => true
  | .remnD .. => true
  | .remnW .. => true
  | .min .. => true
  | .max .. => true
  | .minn .. => true
  | .maxn .. => true
  | .and .. => true
  | .or .. => true
  | .xor .. => true
  | .andn .. => true
  | .shl .. => true
  | .shr .. => true
  | .sra .. => true
  | .rot .. => true
  | .bext .. => true
  | .bins .. => true
  | .sel .. => true
  | .absD .. => true
  | .absW .. => true
  | .clzD .. => true
  | .clzW .. => true
  | .popcD .. => true
  | .popcW .. => true
  | .addi .. => true
  | .andi .. => true
  | .ori .. => true
  | .xori .. => true
  | .shli .. => true
  | .shri .. => true
  | .srai .. => true
  | .roti .. => true
  | .cmp .. => true
  | .cmpi .. => true
  | .pand .. => true
  | .por .. => true
  | .pxor .. => true
  | .pnot .. => true
  | .pmov .. => true
  | .movi .. => true
  | .br .. => true
  | .brn .. => true
  | .call .. => true
  | .calln .. => true
  | .jr .. => true
  | .ret .. => true
  | .loop .. => true
  | .ldb .. => true
  | .ldh .. => true
  | .ldw .. => true
  | .ldd .. => true
  | .stb .. => true
  | .sth .. => true
  | .stw .. => true
  | .std .. => true
  | .ldv .. => true
  | .stv .. => true
  | .ldxH .. => true
  | .ldxW .. => true
  | .ldxD .. => true
  | .stxH .. => true
  | .stxW .. => true
  | .stxD .. => true
  | .ldblk .. => true
  | .stblk .. => true
  | .ldbs .. => true
  | .ldhs .. => true
  | .ldws .. => true
  | .lwd .. => true
  | .swd .. => true
  | .aadd .. => true
  | .amin .. => true
  | .amax .. => true
  | .aand .. => true
  | .aor .. => true
  | .axor .. => true
  | .aswap .. => true
  | .acas .. => true
  | .afadd .. => true
  | .qadd .. => true
  | .qmin .. => true
  | .qmax .. => true
  | .qand .. => true
  | .qior .. => true
  | .qxor .. => true
  | .qfadd .. => true
  | .qbf16add .. => true
  | .qaddx .. => true
  | .qminx .. => true
  | .qmaxx .. => true
  | .qandx .. => true
  | .qiorx .. => true
  | .qxorx .. => true
  | .qfaddx .. => true
  | .qbf16addx .. => true
  | .ldfe .. => true
  | .ldf .. => true
  | .stfe .. => true
  | .sete .. => true
  | .fence .. => true
  | .ldaD .. => true
  | .ldaW .. => true
  | .stlD .. => true
  | .stlW .. => true
  | .yield .. => true
  | .close .. => true
  | .halt .. => true
  | .arm .. => true
  | .disarm .. => true
  | .waitm .. => true
  | .spawn .. => true
  | .migr .. => true
  | .stepx .. => true
  | .qpush .. => true
  | .qpushc .. => true
  | .qpop .. => true
  | .qpeek .. => true
  | .qcnt .. => true
  | .tailret .. => true
  | .send .. => true
  | .sendq .. => true
  | .halo .. => true
  | .wmk .. => true
  | .hclaim .. => true
  | .hwait .. => true
  | .htest .. => true
  | .kwalk .. => true
  | .kapnd .. => true
  | .ksum .. => true
  | .mxq .. => true
  | .mxs .. => true
  | .mxw .. => true
  | .mxt .. => true
  | .mxcan .. => true
  | .gnext .. => true
  | .gdone .. => true
  | .launch .. => true
  | .lhint .. => true
  | .waitp .. => true
  | .cancel .. => true
  | .joinw .. => true
  | .vadd .. => true
  | .vsub .. => true
  | .vmul .. => true
  | .vfma .. => true
  | .vfms .. => true
  | .vmin .. => true
  | .vmax .. => true
  | .vabs .. => true
  | .vneg .. => true
  | .vdot2 .. => true
  | .vdot4 .. => true
  | .viadd .. => true
  | .visub .. => true
  | .vimul .. => true
  | .viadds .. => true
  | .visubs .. => true
  | .vimuls .. => true
  | .vshl .. => true
  | .vshr .. => true
  | .vand .. => true
  | .vor .. => true
  | .vxor .. => true
  | .vnadd .. => true
  | .vnsub .. => true
  | .vnmul .. => true
  | .vnfma .. => true
  | .vnmax .. => true
  | .vndot .. => true
  | .vquant .. => true
  | .vbaq .. => true
  | .vcvt .. => true
  | .vshuf .. => true
  | .vbcast .. => true
  | .vext .. => true
  | .vins .. => true
  | .vselv .. => true
  | .vrsum .. => true
  | .vrmax .. => true
  | .vrmin .. => true
  | .vexp2 .. => true
  | .vlog2 .. => true
  | .vrcp .. => true
  | .vrsq .. => true
  | .vsin .. => true
  | .vtanh .. => true
  | .vsig .. => true
  | .vcmp .. => true
  | .vany .. => true
  | .vall .. => true
  | .fadd .. => true
  | .fsub .. => true
  | .fmul .. => true
  | .ffma .. => true
  | .fdiv .. => true
  | .fsqrt .. => true
  | .fmin .. => true
  | .fmax .. => true
  | .fcvt .. => true
  | .fcmpeq .. => true
  | .fcmplt .. => true
  | .fcmple .. => true
  | .trap .. => true
  | .eret .. => true
  | .bkpt .. => true
  | .srr .. => true
  | .srw .. => true
  | .srs .. => true
  | .src .. => true
  | .cflush .. => true
  | .cinv .. => true
  | .czero .. => true
  | .tlbi .. => true
  | .tlbiAll .. => true
  | .xbset .. => true
  | .wayset .. => true
  | .wfx .. => true
  | .feat .. => true
  | .topo .. => true
  | .idr .. => true
  | .time .. => true
  | .immx .. => true
  | .rndx .. => true
  | .hmove .. => true
  | .hend .. => true
  | .hinfo .. => true
  | .kstat .. => true
  | .start => false
  | .stop => false
  | .redirect => false
  | .kill => false
  | .step => false
  | .outsideStore => false
  | .controlWindowRefusal => false
  | .activation => false
  | .activationComplete => false
  | .rowCloseComplete => false
  | .quantumExpiry => false
  | .preEmption => false
  | .budgetRefill => false
  | .budgetClosure => false
  | .windowSumClear => false
  | .deferredStoreFault => false
  | .faultQueueAppend => false
  | .faultRingHeadReread => false
  | .pageWalkComplete => false
  | .tlbiComplete => false
  | .reductionPerform => false
  | .reductionAck => false
  | .homeOperation => false
  | .performanceNotice => false
  | .parkedReleaseApply => false
  | .writeBack => false
  | .ldfeAnswerWake => false
  | .wake => false
  | .monitorFire => false
  | .joinwWake => false
  | .wfxDeadline => false
  | .windowFillWake => false
  | .waitpWake => false
  | .placeAbandonment => false
  | .spawnMessageArrival => false
  | .spawnServe => false
  | .migrationPlacement => false
  | .launchPlacement => false
  | .launchRowStart => false
  | .successorIssue => false
  | .retirementCount => false
  | .columnReport => false
  | .fieldReport => false
  | .neighbourPushArrival => false
  | .sectorArrival => false
  | .haloArrival => false
  | .metadataArrival => false
  | .targetAcknowledgement => false
  | .jobStart => false
  | .tileComplete => false
  | .jobCompletion => false
  | .completionNotice => false
  | .operandFault => false
  | .mxcanAtColumn => false
  | .tlockGrant => false
  | .walkerRequestComplete => false
  | .walkerRequestStart => false
  | .gatewayBlockArrival => false
  | .peerQueued => false
  | .pairingComplete => false
  | .linkFailure => false
  | .wpartTransitionComplete => false
  | .wayWakeComplete => false
  | .correctedError => false
  | .cecntExpiry => false
  | .columnRetirement => false
  | .testerWindow => false
  | .fieldEventPost => false
  | .thermalSensor => false
  | .mplim => false
  | .vctlReset => false
  | .vctlStop => false
  | .vctlStart => false
  | .tenantStopDrain => false
  | .tenantResetDrain => false
  | .functionLevelReset => false
  | .cqbell => false
  | .hostLaunch => false
  | .hostCancel => false
  | .counter => false
  | .seal => false
  | .load => false
  | .mqbell => false
  | .create => false
  | .repart => false
  | .swapout => false
  | .swapin => false
  | .remove => false
  | .hostwin => false
  | .pair => false
  | .unpair => false
  | .reinstate => false
  | .hostHdmAccess => false
  | .doeSpdmRequest => false
  | .registerWrite => false
  | .powerUp => false
  | .illegalEncoding => false
  | .kilnTranslationComplete => false
  | .pairingEnd => false
  | .hostLinkTraining => false

end Sys2Proof
end

