-- ==== Sys2Proof/Decode.lean ====
section
/-! DEFINITION. The decoder: from any 32-bit word to an instruction, or to the encoding fault that the word
raises by itself (R50, R51, R57 steps 2 to 4); and the encoder of the same tables. Checks that need the row's state
(the type check of R51, the run rules of R52-R56) are made at issue (Sys2Proof/Machine/Issue.lean). -/

namespace Sys2Proof

/-- Why a word is no instruction: an unassigned opcode or selector code, or a reserved bit or a field outside its
limits (R57 steps 2 to 4). -/
inductive DecodeError where
  | illegalOpcode
  | illegalField
  deriving DecidableEq, Repr

/-- Step 4 of R57: the reserved fields are zero and every field is within its entry's limits (R46). -/
def fields (reservedZero : Bool) (i : Instr) : Except DecodeError Instr :=
  if reservedZero && i.wellFormed then .ok i else .error .illegalField

/-- Op 0x01, the hint words (R52-R60, R424, R425). Kinds 5-7 raise ILLEGAL_FIELD (R55); kinds 8-15 are the ignored hints (R56). -/
def decodeHint (w : Word) : Except DecodeError Instr :=
  match (bits w 22 4).toNat with
  | 0 => fields (true) (.immx (bits w 0 22))
  | 1 => fields (bits w 3 19 == 0) (.rndx (bits w 0 3))
  | 2 => fields (bits w 7 15 == 0) (.cachex (bits w 6 1) (bits w 4 2) (bits w 2 2) (bits w 0 2))
  | 3 => fields (bits w 3 19 == 0) (.scopex (bits w 0 3))
  | 4 => fields (true) (.prefx (bits w 21 1) (bits w 16 5) (bits w 0 16))
  | 5 => .error .illegalField
  | 6 => .error .illegalField
  | 7 => .error .illegalField
  | _ => .ok (.ignoredHint (bits w 22 3) (bits w 0 22))

/-- Op 0x02, INT-R (R280); fn 31 takes rb as a second selector (R285). -/
def decodeIntR (w : Word) : Except DecodeError Instr :=
  match (bits w 3 5).toNat with
  | 0 => fields (true) (.addD (bits w 20 6) (bits w 14 6) (bits w 8 6) (bits w 0 3))
  | 1 => fields (true) (.addW (bits w 20 6) (bits w 14 6) (bits w 8 6) (bits w 0 3))
  | 2 => fields (true) (.subD (bits w 20 6) (bits w 14 6) (bits w 8 6) (bits w 0 3))
  | 3 => fields (true) (.subW (bits w 20 6) (bits w 14 6) (bits w 8 6) (bits w 0 3))
  | 4 => fields (true) (.mulD (bits w 20 6) (bits w 14 6) (bits w 8 6) (bits w 0 3))
  | 5 => fields (true) (.mulW (bits w 20 6) (bits w 14 6) (bits w 8 6) (bits w 0 3))
  | 6 => fields (true) (.mulh (bits w 20 6) (bits w 14 6) (bits w 8 6) (bits w 0 3))
  | 7 => fields (true) (.mulhn (bits w 20 6) (bits w 14 6) (bits w 8 6) (bits w 0 3))
  | 8 => fields (true) (.divD (bits w 20 6) (bits w 14 6) (bits w 8 6) (bits w 0 3))
  | 9 => fields (true) (.divW (bits w 20 6) (bits w 14 6) (bits w 8 6) (bits w 0 3))
  | 10 => fields (true) (.divnD (bits w 20 6) (bits w 14 6) (bits w 8 6) (bits w 0 3))
  | 11 => fields (true) (.divnW (bits w 20 6) (bits w 14 6) (bits w 8 6) (bits w 0 3))
  | 12 => fields (true) (.remD (bits w 20 6) (bits w 14 6) (bits w 8 6) (bits w 0 3))
  | 13 => fields (true) (.remW (bits w 20 6) (bits w 14 6) (bits w 8 6) (bits w 0 3))
  | 14 => fields (true) (.remnD (bits w 20 6) (bits w 14 6) (bits w 8 6) (bits w 0 3))
  | 15 => fields (true) (.remnW (bits w 20 6) (bits w 14 6) (bits w 8 6) (bits w 0 3))
  | 16 => fields (true) (.min (bits w 20 6) (bits w 14 6) (bits w 8 6) (bits w 0 3))
  | 17 => fields (true) (.max (bits w 20 6) (bits w 14 6) (bits w 8 6) (bits w 0 3))
  | 18 => fields (true) (.minn (bits w 20 6) (bits w 14 6) (bits w 8 6) (bits w 0 3))
  | 19 => fields (true) (.maxn (bits w 20 6) (bits w 14 6) (bits w 8 6) (bits w 0 3))
  | 20 => fields (true) (.and (bits w 20 6) (bits w 14 6) (bits w 8 6) (bits w 0 3))
  | 21 => fields (true) (.or (bits w 20 6) (bits w 14 6) (bits w 8 6) (bits w 0 3))
  | 22 => fields (true) (.xor (bits w 20 6) (bits w 14 6) (bits w 8 6) (bits w 0 3))
  | 23 => fields (true) (.andn (bits w 20 6) (bits w 14 6) (bits w 8 6) (bits w 0 3))
  | 24 => fields (true) (.shl (bits w 20 6) (bits w 14 6) (bits w 8 6) (bits w 0 3))
  | 25 => fields (true) (.shr (bits w 20 6) (bits w 14 6) (bits w 8 6) (bits w 0 3))
  | 26 => fields (true) (.sra (bits w 20 6) (bits w 14 6) (bits w 8 6) (bits w 0 3))
  | 27 => fields (true) (.rot (bits w 20 6) (bits w 14 6) (bits w 8 6) (bits w 0 3))
  | 28 => fields (true) (.bext (bits w 20 6) (bits w 14 6) (bits w 8 6) (bits w 0 3))
  | 29 => fields (true) (.bins (bits w 20 6) (bits w 14 6) (bits w 8 6) (bits w 0 3))
  | 30 => fields (true) (.sel (bits w 20 6) (bits w 14 6) (bits w 8 6) (bits w 0 3))
  | 31 =>
    match (bits w 8 6).toNat with
    | 0 => fields (true) (.absD (bits w 20 6) (bits w 14 6) (bits w 0 3))
    | 1 => fields (true) (.absW (bits w 20 6) (bits w 14 6) (bits w 0 3))
    | 2 => fields (true) (.clzD (bits w 20 6) (bits w 14 6) (bits w 0 3))
    | 3 => fields (true) (.clzW (bits w 20 6) (bits w 14 6) (bits w 0 3))
    | 4 => fields (true) (.popcD (bits w 20 6) (bits w 14 6) (bits w 0 3))
    | 5 => fields (true) (.popcW (bits w 20 6) (bits w 14 6) (bits w 0 3))
    | _ => .error .illegalOpcode
  | _ => .error .illegalOpcode

/-- Op 0x07, SHIFT-I (R287). -/
def decodeShiftI (w : Word) : Except DecodeError Instr :=
  match (bits w 11 3).toNat with
  | 0 => fields (bits w 10 1 == 0) (.shli (bits w 20 6) (bits w 14 6) (bits w 9 1) (bits w 3 6) (bits w 0 3))
  | 1 => fields (bits w 10 1 == 0) (.shri (bits w 20 6) (bits w 14 6) (bits w 9 1) (bits w 3 6) (bits w 0 3))
  | 2 => fields (bits w 10 1 == 0) (.srai (bits w 20 6) (bits w 14 6) (bits w 9 1) (bits w 3 6) (bits w 0 3))
  | 3 => fields (bits w 10 1 == 0) (.roti (bits w 20 6) (bits w 14 6) (bits w 9 1) (bits w 3 6) (bits w 0 3))
  | _ => .error .illegalOpcode

/-- Op 0x08, CMP-R (R288). -/
def decodeCmpR (w : Word) : Except DecodeError Instr :=
  match (bits w 4 4).toNat with
  | 0 =>
    if 5 < (bits w 20 3).toNat then .error .illegalOpcode
    else fields (true) (.cmp (bits w 23 3) (bits w 20 3) (bits w 14 6) (bits w 8 6) (bits w 3 1) (bits w 0 3))
  | _ => .error .illegalOpcode

/-- Op 0x09, CMP-I (R288). -/
def decodeCmpI (w : Word) : Except DecodeError Instr :=
  if 5 < (bits w 20 3).toNat then .error .illegalOpcode
  else fields (true) (.cmpi (bits w 23 3) (bits w 20 3) (bits w 14 6) (bits w 3 11) (bits w 0 3))

/-- Op 0x0A, PRED (R289). -/
def decodePred (w : Word) : Except DecodeError Instr :=
  match (bits w 3 5).toNat with
  | 0 => fields (bits w 8 3 == 0 && bits w 14 3 == 0 && bits w 20 3 == 0) (.pand (bits w 23 3) (bits w 17 3) (bits w 11 3) (bits w 0 3))
  | 1 => fields (bits w 8 3 == 0 && bits w 14 3 == 0 && bits w 20 3 == 0) (.por (bits w 23 3) (bits w 17 3) (bits w 11 3) (bits w 0 3))
  | 2 => fields (bits w 8 3 == 0 && bits w 14 3 == 0 && bits w 20 3 == 0) (.pxor (bits w 23 3) (bits w 17 3) (bits w 11 3) (bits w 0 3))
  | 3 => fields (bits w 8 9 == 0 && bits w 20 3 == 0) (.pnot (bits w 23 3) (bits w 17 3) (bits w 0 3))
  | 4 => fields (bits w 8 9 == 0 && bits w 20 3 == 0) (.pmov (bits w 23 3) (bits w 17 3) (bits w 0 3))
  | _ => .error .illegalOpcode

/-- Op 0x0C, BR and BRN (R291). -/
def decodeBr (w : Word) : Except DecodeError Instr :=
  match (bits w 22 1).toNat with
  | 0 => fields (true) (.br (bits w 23 3) (bits w 0 22))
  | 1 => fields (true) (.brn (bits w 23 3) (bits w 0 22))
  | _ => .error .illegalOpcode

/-- Op 0x0D, CALL and CALLN (R292). -/
def decodeCall (w : Word) : Except DecodeError Instr :=
  match (bits w 22 1).toNat with
  | 0 => fields (true) (.call (bits w 23 3) (bits w 0 22))
  | 1 => fields (true) (.calln (bits w 23 3) (bits w 0 22))
  | _ => .error .illegalOpcode

/-- Op 0x0E, JR and RET (R293). -/
def decodeJr (w : Word) : Except DecodeError Instr :=
  match (bits w 3 5).toNat with
  | 0 => fields (bits w 8 6 == 0) (.jr (bits w 20 6) (bits w 14 6) (bits w 0 3))
  | 1 => fields (bits w 8 18 == 0) (.ret (bits w 0 3))
  | _ => .error .illegalOpcode

/-- Op 0x1A, indexed and block (R306). -/
def decodeIndexed (w : Word) : Except DecodeError Instr :=
  match (bits w 3 5).toNat with
  | 0 => fields (bits w 8 1 == 0 && bits w 20 1 == 0) (.ldxH (bits w 21 5) (bits w 14 6) (bits w 9 5) (bits w 0 3))
  | 1 => fields (bits w 8 1 == 0 && bits w 20 1 == 0) (.ldxW (bits w 21 5) (bits w 14 6) (bits w 9 5) (bits w 0 3))
  | 2 => fields (bits w 8 1 == 0 && bits w 20 1 == 0) (.ldxD (bits w 21 5) (bits w 14 6) (bits w 9 5) (bits w 0 3))
  | 3 => fields (bits w 8 1 == 0 && bits w 20 1 == 0) (.stxH (bits w 21 5) (bits w 14 6) (bits w 9 5) (bits w 0 3))
  | 4 => fields (bits w 8 1 == 0 && bits w 20 1 == 0) (.stxW (bits w 21 5) (bits w 14 6) (bits w 9 5) (bits w 0 3))
  | 5 => fields (bits w 8 1 == 0 && bits w 20 1 == 0) (.stxD (bits w 21 5) (bits w 14 6) (bits w 9 5) (bits w 0 3))
  | 6 => fields (true) (.ldblk (bits w 20 6) (bits w 14 6) (bits w 8 6) (bits w 0 3))
  | 7 => fields (true) (.stblk (bits w 20 6) (bits w 14 6) (bits w 8 6) (bits w 0 3))
  | 8 => fields (true) (.ldbs (bits w 20 6) (bits w 14 6) (bits w 8 6) (bits w 0 3))
  | 9 => fields (true) (.ldhs (bits w 20 6) (bits w 14 6) (bits w 8 6) (bits w 0 3))
  | 10 => fields (true) (.ldws (bits w 20 6) (bits w 14 6) (bits w 8 6) (bits w 0 3))
  | _ => .error .illegalOpcode

/-- Op 0x1B, working data; ra selects (R310). -/
def decodeWorkingData (w : Word) : Except DecodeError Instr :=
  match (bits w 14 6).toNat with
  | 0 => fields (true) (.lwd (bits w 20 6) (bits w 3 11) (bits w 0 3))
  | 1 => fields (true) (.swd (bits w 20 6) (bits w 3 11) (bits w 0 3))
  | _ => .error .illegalOpcode

/-- Op 0x1C, ATOM (R311); fn[4:1] selects, fn[0] is the width. -/
def decodeAtom (w : Word) : Except DecodeError Instr :=
  match (bits w 4 4).toNat with
  | 0 => fields (bits w 8 4 == 0) (.aadd (bits w 20 6) (bits w 14 6) (bits w 12 2) (bits w 3 1) (bits w 0 3))
  | 1 => fields (bits w 8 4 == 0) (.amin (bits w 20 6) (bits w 14 6) (bits w 12 2) (bits w 3 1) (bits w 0 3))
  | 2 => fields (bits w 8 4 == 0) (.amax (bits w 20 6) (bits w 14 6) (bits w 12 2) (bits w 3 1) (bits w 0 3))
  | 3 => fields (bits w 8 4 == 0) (.aand (bits w 20 6) (bits w 14 6) (bits w 12 2) (bits w 3 1) (bits w 0 3))
  | 4 => fields (bits w 8 4 == 0) (.aor (bits w 20 6) (bits w 14 6) (bits w 12 2) (bits w 3 1) (bits w 0 3))
  | 5 => fields (bits w 8 4 == 0) (.axor (bits w 20 6) (bits w 14 6) (bits w 12 2) (bits w 3 1) (bits w 0 3))
  | 6 => fields (bits w 8 4 == 0) (.aswap (bits w 20 6) (bits w 14 6) (bits w 12 2) (bits w 3 1) (bits w 0 3))
  | 7 => fields (bits w 8 4 == 0) (.acas (bits w 20 6) (bits w 14 6) (bits w 12 2) (bits w 3 1) (bits w 0 3))
  | 8 => fields (bits w 8 4 == 0) (.afadd (bits w 20 6) (bits w 14 6) (bits w 12 2) (bits w 3 1) (bits w 0 3))
  | _ => .error .illegalOpcode

/-- Op 0x1D, RED (R313); fn[4] = 1 is the scatter form. -/
def decodeRed (w : Word) : Except DecodeError Instr :=
  match (bits w 4 4).toNat with
  | 0 => fields (bits w 21 5 == 0) (.qadd (bits w 20 1) (bits w 14 6) (bits w 8 6) (bits w 3 1) (bits w 0 3))
  | 1 => fields (bits w 21 5 == 0) (.qmin (bits w 20 1) (bits w 14 6) (bits w 8 6) (bits w 3 1) (bits w 0 3))
  | 2 => fields (bits w 21 5 == 0) (.qmax (bits w 20 1) (bits w 14 6) (bits w 8 6) (bits w 3 1) (bits w 0 3))
  | 3 => fields (bits w 21 5 == 0) (.qand (bits w 20 1) (bits w 14 6) (bits w 8 6) (bits w 3 1) (bits w 0 3))
  | 4 => fields (bits w 21 5 == 0) (.qior (bits w 20 1) (bits w 14 6) (bits w 8 6) (bits w 3 1) (bits w 0 3))
  | 5 => fields (bits w 21 5 == 0) (.qxor (bits w 20 1) (bits w 14 6) (bits w 8 6) (bits w 3 1) (bits w 0 3))
  | 6 => fields (bits w 21 5 == 0) (.qfadd (bits w 20 1) (bits w 14 6) (bits w 8 6) (bits w 3 1) (bits w 0 3))
  | 7 =>
    if bits w 3 1 == 1 then .error .illegalOpcode
    else fields (bits w 21 5 == 0) (.qbf16add (bits w 20 1) (bits w 14 6) (bits w 8 6) (bits w 0 3))
  | 8 => fields (bits w 8 1 == 0) (.qaddx (bits w 21 5) (bits w 20 1) (bits w 14 6) (bits w 9 5) (bits w 3 1) (bits w 0 3))
  | 9 => fields (bits w 8 1 == 0) (.qminx (bits w 21 5) (bits w 20 1) (bits w 14 6) (bits w 9 5) (bits w 3 1) (bits w 0 3))
  | 10 => fields (bits w 8 1 == 0) (.qmaxx (bits w 21 5) (bits w 20 1) (bits w 14 6) (bits w 9 5) (bits w 3 1) (bits w 0 3))
  | 11 => fields (bits w 8 1 == 0) (.qandx (bits w 21 5) (bits w 20 1) (bits w 14 6) (bits w 9 5) (bits w 3 1) (bits w 0 3))
  | 12 => fields (bits w 8 1 == 0) (.qiorx (bits w 21 5) (bits w 20 1) (bits w 14 6) (bits w 9 5) (bits w 3 1) (bits w 0 3))
  | 13 => fields (bits w 8 1 == 0) (.qxorx (bits w 21 5) (bits w 20 1) (bits w 14 6) (bits w 9 5) (bits w 3 1) (bits w 0 3))
  | 14 => fields (bits w 8 1 == 0) (.qfaddx (bits w 21 5) (bits w 20 1) (bits w 14 6) (bits w 9 5) (bits w 3 1) (bits w 0 3))
  | 15 =>
    if bits w 3 1 == 1 then .error .illegalOpcode
    else fields (bits w 8 1 == 0) (.qbf16addx (bits w 21 5) (bits w 20 1) (bits w 14 6) (bits w 9 5) (bits w 0 3))
  | _ => .error .illegalOpcode

/-- Op 0x1E, FE (R315). -/
def decodeFe (w : Word) : Except DecodeError Instr :=
  match (bits w 3 5).toNat with
  | 0 => fields (bits w 8 3 == 0) (.ldfe (bits w 20 6) (bits w 14 6) (bits w 11 3) (bits w 0 3))
  | 1 => fields (bits w 8 3 == 0) (.ldf (bits w 20 6) (bits w 14 6) (bits w 11 3) (bits w 0 3))
  | 2 => fields (bits w 8 3 == 0) (.stfe (bits w 20 6) (bits w 14 6) (bits w 11 3) (bits w 0 3))
  | 3 => fields (bits w 8 6 == 0 && bits w 20 6 == 0) (.sete (bits w 14 6) (bits w 0 3))
  | _ => .error .illegalOpcode

/-- Op 0x1F, ORDER (R316). -/
def decodeOrder (w : Word) : Except DecodeError Instr :=
  match (bits w 3 5).toNat with
  | 0 => fields (bits w 11 15 == 0) (.fence (bits w 8 3) (bits w 0 3))
  | 1 => fields (bits w 8 6 == 0) (.ldaD (bits w 20 6) (bits w 14 6) (bits w 0 3))
  | 2 => fields (bits w 8 6 == 0) (.ldaW (bits w 20 6) (bits w 14 6) (bits w 0 3))
  | 3 => fields (bits w 8 6 == 0) (.stlD (bits w 20 6) (bits w 14 6) (bits w 0 3))
  | 4 => fields (bits w 8 6 == 0) (.stlW (bits w 20 6) (bits w 14 6) (bits w 0 3))
  | _ => .error .illegalOpcode

/-- Op 0x20, ROW (R319). -/
def decodeRow (w : Word) : Except DecodeError Instr :=
  match (bits w 3 5).toNat with
  | 0 => fields (bits w 8 18 == 0) (.yield (bits w 0 3))
  | 1 => fields (bits w 8 18 == 0) (.close (bits w 0 3))
  | 2 => fields (bits w 8 18 == 0) (.halt (bits w 0 3))
  | 3 => fields (bits w 8 6 == 0 && bits w 20 3 == 0) (.arm (bits w 23 3) (bits w 14 6) (bits w 0 3))
  | 4 => fields (bits w 14 12 == 0) (.disarm (bits w 8 6) (bits w 0 3))
  | 5 => fields (bits w 8 18 == 0) (.waitm (bits w 0 3))
  | 6 => fields (bits w 20 3 == 0) (.spawn (bits w 23 3) (bits w 14 6) (bits w 8 6) (bits w 0 3))
  | 7 => fields (bits w 8 6 == 0 && bits w 20 6 == 0) (.migr (bits w 14 6) (bits w 0 3))
  | 8 => fields (bits w 8 6 == 0) (.stepx (bits w 20 6) (bits w 14 6) (bits w 0 3))
  | _ => .error .illegalOpcode

/-- Op 0x21, CHAN (R320). -/
def decodeChan (w : Word) : Except DecodeError Instr :=
  match (bits w 3 5).toNat with
  | 0 => fields (bits w 14 2 == 0) (.qpush (bits w 20 6) (bits w 16 4) (bits w 11 3) (bits w 8 3) (bits w 0 3))
  | 1 => fields (bits w 14 2 == 0) (.qpushc (bits w 20 6) (bits w 16 4) (bits w 11 3) (bits w 8 3) (bits w 0 3))
  | 2 => fields (bits w 8 3 == 0 && bits w 14 2 == 0) (.qpop (bits w 20 6) (bits w 16 4) (bits w 11 3) (bits w 0 3))
  | 3 => fields (bits w 8 3 == 0 && bits w 14 2 == 0) (.qpeek (bits w 20 6) (bits w 16 4) (bits w 11 3) (bits w 0 3))
  | 4 => fields (bits w 8 8 == 0) (.qcnt (bits w 20 6) (bits w 16 4) (bits w 0 3))
  | 5 => fields (bits w 8 18 == 0) (.tailret (bits w 0 3))
  | _ => .error .illegalOpcode

/-- Op 0x22, SEND (R324). -/
def decodeSend (w : Word) : Except DecodeError Instr :=
  match (bits w 3 5).toNat with
  | 0 => fields (bits w 8 6 == 0 && bits w 20 3 == 0) (.send (bits w 23 3) (bits w 14 6) (bits w 0 3))
  | 1 => fields (bits w 8 6 == 0 && bits w 20 3 == 0) (.sendq (bits w 23 3) (bits w 14 6) (bits w 0 3))
  | 2 => fields (bits w 8 6 == 0 && bits w 20 3 == 0) (.halo (bits w 23 3) (bits w 14 6) (bits w 0 3))
  | 3 => fields (bits w 8 6 == 0 && bits w 20 3 == 0) (.wmk (bits w 23 3) (bits w 14 6) (bits w 0 3))
  | _ => .error .illegalOpcode

/-- Op 0x23, HOLD (R162). -/
def decodeHold (w : Word) : Except DecodeError Instr :=
  match (bits w 3 5).toNat with
  | 0 => fields (bits w 8 3 == 0) (.hclaim (bits w 20 6) (bits w 14 6) (bits w 11 3) (bits w 0 3))
  | 1 => fields (bits w 8 6 == 0 && bits w 20 6 == 0) (.hwait (bits w 14 6) (bits w 0 3))
  | 2 => fields (bits w 8 6 == 0 && bits w 20 3 == 0) (.htest (bits w 23 3) (bits w 14 6) (bits w 0 3))
  | 3 => fields (bits w 20 3 == 0) (.hmove 0#1 (bits w 23 3) (bits w 14 6) (bits w 8 6) (bits w 0 3))
  | 4 => fields (bits w 20 3 == 0) (.hmove 1#1 (bits w 23 3) (bits w 14 6) (bits w 8 6) (bits w 0 3))
  | 5 => fields (bits w 8 6 == 0 && bits w 20 6 == 0) (.hend 0#1 (bits w 14 6) (bits w 0 3))
  | 6 => fields (bits w 8 6 == 0 && bits w 20 6 == 0) (.hend 1#1 (bits w 14 6) (bits w 0 3))
  | 7 => fields (bits w 8 6 == 0) (.hinfo (bits w 20 6) (bits w 14 6) (bits w 0 3))
  | _ => .error .illegalOpcode

/-- Op 0x24, WALK (R201). -/
def decodeWalk (w : Word) : Except DecodeError Instr :=
  match (bits w 3 5).toNat with
  | 0 => fields (bits w 20 3 == 0) (.kwalk (bits w 23 3) (bits w 14 6) (bits w 8 6) (bits w 0 3))
  | 1 => fields (bits w 20 3 == 0) (.kapnd (bits w 23 3) (bits w 14 6) (bits w 8 6) (bits w 0 3))
  | 2 => fields (bits w 20 3 == 0) (.ksum (bits w 23 3) (bits w 14 6) (bits w 8 6) (bits w 0 3))
  | 3 => fields (bits w 8 6 == 0 && bits w 20 6 == 0) (.kstat 0#1 (bits w 14 6) (bits w 0 3))
  | 4 => fields (bits w 8 6 == 0 && bits w 20 6 == 0) (.kstat 1#1 (bits w 14 6) (bits w 0 3))
  | _ => .error .illegalOpcode

/-- Op 0x25, MX (R370). -/
def decodeMx (w : Word) : Except DecodeError Instr :=
  match (bits w 3 5).toNat with
  | 0 => fields (bits w 8 3 == 0) (.mxq (bits w 20 6) (bits w 14 6) (bits w 11 3) (bits w 0 3))
  | 1 => fields (bits w 8 3 == 0) (.mxs (bits w 20 6) (bits w 14 6) (bits w 11 3) (bits w 0 3))
  | 2 => fields (bits w 8 6 == 0) (.mxw (bits w 20 6) (bits w 14 6) (bits w 0 3))
  | 3 => fields (bits w 8 3 == 0) (.mxt (bits w 20 6) (bits w 14 6) (bits w 11 3) (bits w 0 3))
  | 4 => fields (bits w 8 3 == 0 && bits w 20 6 == 0) (.mxcan (bits w 14 6) (bits w 11 3) (bits w 0 3))
  | _ => .error .illegalOpcode

/-- Op 0x26, GATE (R377). -/
def decodeGate (w : Word) : Except DecodeError Instr :=
  match (bits w 3 5).toNat with
  | 0 => fields (bits w 8 6 == 0 && bits w 20 3 == 0) (.gnext (bits w 23 3) (bits w 14 6) (bits w 0 3))
  | 1 => fields (bits w 8 6 == 0 && bits w 20 3 == 0) (.gdone (bits w 23 3) (bits w 14 6) (bits w 0 3))
  | _ => .error .illegalOpcode

/-- Op 0x27, LNCH (R328). -/
def decodeLnch (w : Word) : Except DecodeError Instr :=
  match (bits w 3 5).toNat with
  | 0 => fields (bits w 8 3 == 0) (.launch (bits w 20 6) (bits w 14 6) (bits w 11 3) (bits w 0 3))
  | 1 => fields (bits w 8 18 == 0) (.lhint (bits w 0 3))
  | 2 => fields (bits w 11 15 == 0) (.waitp (bits w 8 3) (bits w 0 3))
  | 3 => fields (bits w 10 4 == 0) (.cancel (bits w 20 6) (bits w 14 6) (bits w 8 2) (bits w 0 3))
  | 4 => fields (bits w 20 6 == 0) (.joinw (bits w 14 6) (bits w 8 6) (bits w 0 3))
  | _ => .error .illegalOpcode

/-- Op 0x28, V-FP (R337). -/
def decodeVFp (w : Word) : Except DecodeError Instr :=
  match (bits w 5 6).toNat with
  | 0 => fields (true) (.vadd (bits w 21 5) (bits w 16 5) (bits w 11 5) (bits w 3 2) (bits w 0 3))
  | 1 => fields (true) (.vsub (bits w 21 5) (bits w 16 5) (bits w 11 5) (bits w 3 2) (bits w 0 3))
  | 2 => fields (true) (.vmul (bits w 21 5) (bits w 16 5) (bits w 11 5) (bits w 3 2) (bits w 0 3))
  | 3 => fields (true) (.vfma (bits w 21 5) (bits w 16 5) (bits w 11 5) (bits w 3 2) (bits w 0 3))
  | 4 => fields (true) (.vfms (bits w 21 5) (bits w 16 5) (bits w 11 5) (bits w 3 2) (bits w 0 3))
  | 5 => fields (true) (.vmin (bits w 21 5) (bits w 16 5) (bits w 11 5) (bits w 3 2) (bits w 0 3))
  | 6 => fields (true) (.vmax (bits w 21 5) (bits w 16 5) (bits w 11 5) (bits w 3 2) (bits w 0 3))
  | 7 => fields (bits w 11 5 == 0) (.vabs (bits w 21 5) (bits w 16 5) (bits w 3 2) (bits w 0 3))
  | 8 => fields (bits w 11 5 == 0) (.vneg (bits w 21 5) (bits w 16 5) (bits w 3 2) (bits w 0 3))
  | 9 => fields (true) (.vdot2 (bits w 21 5) (bits w 16 5) (bits w 11 5) (bits w 3 2) (bits w 0 3))
  | 10 => fields (bits w 3 2 == 0) (.vdot4 (bits w 21 5) (bits w 16 5) (bits w 11 5) (bits w 0 3))
  | _ => .error .illegalOpcode

/-- Op 0x29, V-INT (R340). -/
def decodeVInt (w : Word) : Except DecodeError Instr :=
  match (bits w 5 6).toNat with
  | 0 => fields (true) (.viadd (bits w 21 5) (bits w 16 5) (bits w 11 5) (bits w 3 2) (bits w 0 3))
  | 1 => fields (true) (.visub (bits w 21 5) (bits w 16 5) (bits w 11 5) (bits w 3 2) (bits w 0 3))
  | 2 => fields (true) (.vimul (bits w 21 5) (bits w 16 5) (bits w 11 5) (bits w 3 2) (bits w 0 3))
  | 3 => fields (true) (.viadds (bits w 21 5) (bits w 16 5) (bits w 11 5) (bits w 3 2) (bits w 0 3))
  | 4 => fields (true) (.visubs (bits w 21 5) (bits w 16 5) (bits w 11 5) (bits w 3 2) (bits w 0 3))
  | 5 => fields (true) (.vimuls (bits w 21 5) (bits w 16 5) (bits w 11 5) (bits w 3 2) (bits w 0 3))
  | 6 => fields (true) (.vshl (bits w 21 5) (bits w 16 5) (bits w 11 5) (bits w 3 2) (bits w 0 3))
  | 7 => fields (true) (.vshr (bits w 21 5) (bits w 16 5) (bits w 11 5) (bits w 3 2) (bits w 0 3))
  | 8 => fields (true) (.vand (bits w 21 5) (bits w 16 5) (bits w 11 5) (bits w 3 2) (bits w 0 3))
  | 9 => fields (true) (.vor (bits w 21 5) (bits w 16 5) (bits w 11 5) (bits w 3 2) (bits w 0 3))
  | 10 => fields (true) (.vxor (bits w 21 5) (bits w 16 5) (bits w 11 5) (bits w 3 2) (bits w 0 3))
  | _ => .error .illegalOpcode

/-- Op 0x2A, V-NARROW (R341): fn6[5:3] selects, ty must be 0. -/
def decodeVNarrow (w : Word) : Except DecodeError Instr :=
  match (bits w 8 3).toNat with
  | 0 => fields (bits w 3 5 == 0) (.vnadd (bits w 21 5) (bits w 16 5) (bits w 11 5) (bits w 0 3))
  | 1 => fields (bits w 3 5 == 0) (.vnsub (bits w 21 5) (bits w 16 5) (bits w 11 5) (bits w 0 3))
  | 2 => fields (bits w 3 5 == 0) (.vnmul (bits w 21 5) (bits w 16 5) (bits w 11 5) (bits w 0 3))
  | 3 => fields (bits w 3 5 == 0) (.vnfma (bits w 21 5) (bits w 16 5) (bits w 11 5) (bits w 0 3))
  | 4 => fields (bits w 3 5 == 0) (.vnmax (bits w 21 5) (bits w 16 5) (bits w 11 5) (bits w 0 3))
  | 5 => fields (bits w 3 2 == 0) (.vndot (bits w 21 5) (bits w 16 5) (bits w 11 5) (bits w 5 3) (bits w 0 3))
  | 6 => fields (bits w 3 2 == 0 && bits w 11 5 == 0) (.vquant (bits w 21 5) (bits w 16 5) (bits w 5 3) (bits w 0 3))
  | 7 => fields (bits w 3 2 == 0) (.vbaq (bits w 21 5) (bits w 16 5) (bits w 11 5) (bits w 5 3) (bits w 0 3))
  | _ => .error .illegalOpcode

/-- Op 0x2C, V-PERM (R351). -/
def decodeVPerm (w : Word) : Except DecodeError Instr :=
  match (bits w 5 6).toNat with
  | 0 => fields (true) (.vshuf (bits w 21 5) (bits w 16 5) (bits w 11 5) (bits w 3 2) (bits w 0 3))
  | 1 => fields (bits w 11 4 == 0) (.vbcast (bits w 21 5) (bits w 15 6) (bits w 3 2) (bits w 0 3))
  | 2 => fields (true) (.vext (bits w 20 6) (bits w 16 4) (bits w 11 5) (bits w 3 2) (bits w 0 3))
  | 3 => fields (true) (.vins (bits w 21 5) (bits w 15 6) (bits w 11 4) (bits w 3 2) (bits w 0 3))
  | 4 => fields (bits w 3 2 == 0) (.vselv (bits w 21 5) (bits w 16 5) (bits w 11 5) (bits w 0 3))
  | _ => .error .illegalOpcode

/-- Op 0x2D, V-RED (R353). -/
def decodeVRed (w : Word) : Except DecodeError Instr :=
  match (bits w 5 6).toNat with
  | 0 => fields (true) (.vrsum (bits w 21 5) (bits w 16 5) (bits w 11 5) (bits w 3 2) (bits w 0 3))
  | 1 => fields (true) (.vrmax (bits w 21 5) (bits w 16 5) (bits w 11 5) (bits w 3 2) (bits w 0 3))
  | 2 => fields (true) (.vrmin (bits w 21 5) (bits w 16 5) (bits w 11 5) (bits w 3 2) (bits w 0 3))
  | _ => .error .illegalOpcode

/-- Op 0x2E, SFU (R357). -/
def decodeSfu (w : Word) : Except DecodeError Instr :=
  match (bits w 5 6).toNat with
  | 0 => fields (bits w 11 5 == 0) (.vexp2 (bits w 21 5) (bits w 16 5) (bits w 3 2) (bits w 0 3))
  | 1 => fields (bits w 11 5 == 0) (.vlog2 (bits w 21 5) (bits w 16 5) (bits w 3 2) (bits w 0 3))
  | 2 => fields (bits w 11 5 == 0) (.vrcp (bits w 21 5) (bits w 16 5) (bits w 3 2) (bits w 0 3))
  | 3 => fields (bits w 11 5 == 0) (.vrsq (bits w 21 5) (bits w 16 5) (bits w 3 2) (bits w 0 3))
  | 4 => fields (bits w 11 5 == 0) (.vsin (bits w 21 5) (bits w 16 5) (bits w 3 2) (bits w 0 3))
  | 5 => fields (bits w 11 5 == 0) (.vtanh (bits w 21 5) (bits w 16 5) (bits w 3 2) (bits w 0 3))
  | 6 => fields (bits w 11 5 == 0) (.vsig (bits w 21 5) (bits w 16 5) (bits w 3 2) (bits w 0 3))
  | _ => .error .illegalOpcode

/-- Op 0x2F, V-CMP (R355): fn6[4:3] is the form, fn6[2:0] the condition. fn6[5] must be 0 (taken as a reserved field: log entry 11, DEDUCED). -/
def decodeVCmp (w : Word) : Except DecodeError Instr :=
  match (bits w 8 2).toNat with
  | 0 =>
    if 4 < (bits w 5 3).toNat then .error .illegalOpcode
    else fields (bits w 10 1 == 0) (.vcmp (bits w 21 5) (bits w 16 5) (bits w 11 5) (bits w 5 3) (bits w 3 2) (bits w 0 3))
  | 1 =>
    if 4 < (bits w 5 3).toNat then .error .illegalOpcode
    else fields (bits w 10 1 == 0 && bits w 21 2 == 0) (.vany (bits w 23 3) (bits w 16 5) (bits w 11 5) (bits w 5 3) (bits w 3 2) (bits w 0 3))
  | 2 =>
    if 4 < (bits w 5 3).toNat then .error .illegalOpcode
    else fields (bits w 10 1 == 0 && bits w 21 2 == 0) (.vall (bits w 23 3) (bits w 16 5) (bits w 11 5) (bits w 5 3) (bits w 3 2) (bits w 0 3))
  | _ => .error .illegalOpcode

/-- Op 0x30, F-R (R359); fn[4:1] selects, fn[0] = 1 is F32. -/
def decodeFR (w : Word) : Except DecodeError Instr :=
  match (bits w 4 4).toNat with
  | 0 => fields (true) (.fadd (bits w 20 6) (bits w 14 6) (bits w 8 6) (bits w 3 1) (bits w 0 3))
  | 1 => fields (true) (.fsub (bits w 20 6) (bits w 14 6) (bits w 8 6) (bits w 3 1) (bits w 0 3))
  | 2 => fields (true) (.fmul (bits w 20 6) (bits w 14 6) (bits w 8 6) (bits w 3 1) (bits w 0 3))
  | 3 => fields (true) (.ffma (bits w 20 6) (bits w 14 6) (bits w 8 6) (bits w 3 1) (bits w 0 3))
  | 4 => fields (true) (.fdiv (bits w 20 6) (bits w 14 6) (bits w 8 6) (bits w 3 1) (bits w 0 3))
  | 5 => fields (bits w 8 6 == 0) (.fsqrt (bits w 20 6) (bits w 14 6) (bits w 3 1) (bits w 0 3))
  | 6 => fields (true) (.fmin (bits w 20 6) (bits w 14 6) (bits w 8 6) (bits w 3 1) (bits w 0 3))
  | 7 => fields (true) (.fmax (bits w 20 6) (bits w 14 6) (bits w 8 6) (bits w 3 1) (bits w 0 3))
  | 8 =>
    if bits w 3 1 == 1 then .error .illegalOpcode
    else fields (true) (.fcvt (bits w 20 6) (bits w 14 6) (bits w 11 3) (bits w 8 3) (bits w 0 3))
  | _ => .error .illegalOpcode

/-- Op 0x31, F-CMP (R360). -/
def decodeFCmp (w : Word) : Except DecodeError Instr :=
  match (bits w 4 4).toNat with
  | 0 => fields (bits w 20 3 == 0) (.fcmpeq (bits w 23 3) (bits w 14 6) (bits w 8 6) (bits w 3 1) (bits w 0 3))
  | 1 => fields (bits w 20 3 == 0) (.fcmplt (bits w 23 3) (bits w 14 6) (bits w 8 6) (bits w 3 1) (bits w 0 3))
  | 2 => fields (bits w 20 3 == 0) (.fcmple (bits w 23 3) (bits w 14 6) (bits w 8 6) (bits w 3 1) (bits w 0 3))
  | _ => .error .illegalOpcode

/-- Op 0x38, SYS (R379). -/
def decodeSys (w : Word) : Except DecodeError Instr :=
  match (bits w 3 5).toNat with
  | 0 => fields (bits w 16 10 == 0) (.trap (bits w 8 8) (bits w 0 3))
  | 1 => fields (bits w 8 18 == 0) (.eret (bits w 0 3))
  | 2 => fields (bits w 8 18 == 0) (.bkpt (bits w 0 3))
  | 3 => fields (true) (.srr (bits w 20 6) (bits w 8 12) (bits w 0 3))
  | 4 => fields (true) (.srw (bits w 20 6) (bits w 8 12) (bits w 0 3))
  | 5 => fields (true) (.srs (bits w 20 6) (bits w 8 12) (bits w 0 3))
  | 6 => fields (true) (.src (bits w 20 6) (bits w 8 12) (bits w 0 3))
  | _ => .error .illegalOpcode

/-- Op 0x39, MAINT (R379). -/
def decodeMaint (w : Word) : Except DecodeError Instr :=
  match (bits w 3 5).toNat with
  | 0 => fields (bits w 9 5 == 0 && bits w 20 6 == 0) (.cflush (bits w 14 6) (bits w 8 1) (bits w 0 3))
  | 1 => fields (bits w 8 6 == 0 && bits w 20 6 == 0) (.cinv (bits w 14 6) (bits w 0 3))
  | 2 => fields (bits w 8 6 == 0 && bits w 20 6 == 0) (.czero (bits w 14 6) (bits w 0 3))
  | 3 =>
    match (bits w 11 3).toNat with
    | 0 => fields (bits w 20 6 == 0) (.tlbi (bits w 14 6) (bits w 8 3) (bits w 0 3))
    | 1 => fields (bits w 14 12 == 0) (.tlbiAll (bits w 8 3) (bits w 0 3))
    | _ => .error .illegalField
  | 4 => fields (bits w 8 6 == 0 && bits w 20 6 == 0) (.xbset (bits w 14 6) (bits w 0 3))
  | 5 => fields (bits w 8 6 == 0 && bits w 20 3 == 0) (.wayset (bits w 23 3) (bits w 14 6) (bits w 0 3))
  | 6 => fields (bits w 8 6 == 0) (.wfx (bits w 20 6) (bits w 14 6) (bits w 0 3))
  | _ => .error .illegalOpcode

/-- Op 0x3A, QUERY (R295). -/
def decodeQuery (w : Word) : Except DecodeError Instr :=
  match (bits w 3 5).toNat with
  | 0 => fields (bits w 8 12 == 0) (.feat (bits w 20 6) (bits w 3 2) (bits w 0 3))
  | 1 => fields (bits w 8 12 == 0) (.feat (bits w 20 6) (bits w 3 2) (bits w 0 3))
  | 2 => fields (bits w 8 12 == 0) (.feat (bits w 20 6) (bits w 3 2) (bits w 0 3))
  | 3 => fields (bits w 14 6 == 0) (.topo (bits w 20 6) (bits w 8 6) (bits w 0 3))
  | 4 => fields (bits w 14 6 == 0) (.idr (bits w 20 6) (bits w 8 6) (bits w 0 3))
  | 5 => fields (bits w 8 12 == 0) (.time (bits w 20 6) (bits w 0 3))
  | _ => .error .illegalOpcode

/-- The instruction a word encodes, or the encoding fault it raises (R50, R57 steps 2 to 4). Opcodes that R50
marks reserved raise ILLEGAL_OPCODE. -/
def decode (w : Word) : Except DecodeError Instr :=
  match (bits w 26 6).toNat with
  | 0x01 => decodeHint w
  | 0x02 => decodeIntR w
  | 0x03 => fields (true) (.addi (bits w 20 6) (bits w 14 6) (bits w 3 11) (bits w 0 3))
  | 0x04 => fields (true) (.andi (bits w 20 6) (bits w 14 6) (bits w 3 11) (bits w 0 3))
  | 0x05 => fields (true) (.ori (bits w 20 6) (bits w 14 6) (bits w 3 11) (bits w 0 3))
  | 0x06 => fields (true) (.xori (bits w 20 6) (bits w 14 6) (bits w 3 11) (bits w 0 3))
  | 0x07 => decodeShiftI w
  | 0x08 => decodeCmpR w
  | 0x09 => decodeCmpI w
  | 0x0A => decodePred w
  | 0x0B => fields (true) (.movi (bits w 20 6) (bits w 3 17) (bits w 0 3))
  | 0x0C => decodeBr w
  | 0x0D => decodeCall w
  | 0x0E => decodeJr w
  | 0x0F => fields (true) (.loop (bits w 20 6) (bits w 3 17) (bits w 0 3))
  | 0x10 => fields (true) (.ldb (bits w 20 6) (bits w 14 6) (bits w 3 11) (bits w 0 3))
  | 0x11 => fields (true) (.ldh (bits w 20 6) (bits w 14 6) (bits w 3 11) (bits w 0 3))
  | 0x12 => fields (true) (.ldw (bits w 20 6) (bits w 14 6) (bits w 3 11) (bits w 0 3))
  | 0x13 => fields (true) (.ldd (bits w 20 6) (bits w 14 6) (bits w 3 11) (bits w 0 3))
  | 0x14 => fields (true) (.stb (bits w 20 6) (bits w 14 6) (bits w 3 11) (bits w 0 3))
  | 0x15 => fields (true) (.sth (bits w 20 6) (bits w 14 6) (bits w 3 11) (bits w 0 3))
  | 0x16 => fields (true) (.stw (bits w 20 6) (bits w 14 6) (bits w 3 11) (bits w 0 3))
  | 0x17 => fields (true) (.std (bits w 20 6) (bits w 14 6) (bits w 3 11) (bits w 0 3))
  | 0x18 => fields (bits w 20 1 == 0) (.ldv (bits w 21 5) (bits w 14 6) (bits w 3 11) (bits w 0 3))
  | 0x19 => fields (bits w 20 1 == 0) (.stv (bits w 21 5) (bits w 14 6) (bits w 3 11) (bits w 0 3))
  | 0x1A => decodeIndexed w
  | 0x1B => decodeWorkingData w
  | 0x1C => decodeAtom w
  | 0x1D => decodeRed w
  | 0x1E => decodeFe w
  | 0x1F => decodeOrder w
  | 0x20 => decodeRow w
  | 0x21 => decodeChan w
  | 0x22 => decodeSend w
  | 0x23 => decodeHold w
  | 0x24 => decodeWalk w
  | 0x25 => decodeMx w
  | 0x26 => decodeGate w
  | 0x27 => decodeLnch w
  | 0x28 => decodeVFp w
  | 0x29 => decodeVInt w
  | 0x2A => decodeVNarrow w
  | 0x2B => fields (true) (.vcvt (bits w 21 5) (bits w 16 5) (bits w 11 5) (bits w 7 4) (bits w 3 4) (bits w 0 3))
  | 0x2C => decodeVPerm w
  | 0x2D => decodeVRed w
  | 0x2E => decodeSfu w
  | 0x2F => decodeVCmp w
  | 0x30 => decodeFR w
  | 0x31 => decodeFCmp w
  | 0x38 => decodeSys w
  | 0x39 => decodeMaint w
  | 0x3A => decodeQuery w
  | _ => .error .illegalOpcode

/-- A field's bits at their place in a word. -/
def place {n : Nat} (lo : Nat) (v : BitVec n) : Word := v.setWidth 32 <<< lo

/-- The word of an instruction: the opcode and selector bits of its entry, its fields at their places, and every
reserved field 0. An event has no word; it is given 0, which encodes no instruction. -/
def encode : Instr → Word
  | .cachex e v w l => 0x04800000#32 ||| place 6 e ||| place 4 v ||| place 2 w ||| place 0 l
  | .scopex s => 0x04C00000#32 ||| place 0 s
  | .prefx o c s => 0x05000000#32 ||| place 21 o ||| place 16 c ||| place 0 s
  | .ignoredHint k x => 0x06000000#32 ||| place 22 k ||| place 0 x
  | .addD d a b p => 0x08000000#32 ||| place 20 d ||| place 14 a ||| place 8 b ||| place 0 p
  | .addW d a b p => 0x08000008#32 ||| place 20 d ||| place 14 a ||| place 8 b ||| place 0 p
  | .subD d a b p => 0x08000010#32 ||| place 20 d ||| place 14 a ||| place 8 b ||| place 0 p
  | .subW d a b p => 0x08000018#32 ||| place 20 d ||| place 14 a ||| place 8 b ||| place 0 p
  | .mulD d a b p => 0x08000020#32 ||| place 20 d ||| place 14 a ||| place 8 b ||| place 0 p
  | .mulW d a b p => 0x08000028#32 ||| place 20 d ||| place 14 a ||| place 8 b ||| place 0 p
  | .mulh d a b p => 0x08000030#32 ||| place 20 d ||| place 14 a ||| place 8 b ||| place 0 p
  | .mulhn d a b p => 0x08000038#32 ||| place 20 d ||| place 14 a ||| place 8 b ||| place 0 p
  | .divD d a b p => 0x08000040#32 ||| place 20 d ||| place 14 a ||| place 8 b ||| place 0 p
  | .divW d a b p => 0x08000048#32 ||| place 20 d ||| place 14 a ||| place 8 b ||| place 0 p
  | .divnD d a b p => 0x08000050#32 ||| place 20 d ||| place 14 a ||| place 8 b ||| place 0 p
  | .divnW d a b p => 0x08000058#32 ||| place 20 d ||| place 14 a ||| place 8 b ||| place 0 p
  | .remD d a b p => 0x08000060#32 ||| place 20 d ||| place 14 a ||| place 8 b ||| place 0 p
  | .remW d a b p => 0x08000068#32 ||| place 20 d ||| place 14 a ||| place 8 b ||| place 0 p
  | .remnD d a b p => 0x08000070#32 ||| place 20 d ||| place 14 a ||| place 8 b ||| place 0 p
  | .remnW d a b p => 0x08000078#32 ||| place 20 d ||| place 14 a ||| place 8 b ||| place 0 p
  | .min d a b p => 0x08000080#32 ||| place 20 d ||| place 14 a ||| place 8 b ||| place 0 p
  | .max d a b p => 0x08000088#32 ||| place 20 d ||| place 14 a ||| place 8 b ||| place 0 p
  | .minn d a b p => 0x08000090#32 ||| place 20 d ||| place 14 a ||| place 8 b ||| place 0 p
  | .maxn d a b p => 0x08000098#32 ||| place 20 d ||| place 14 a ||| place 8 b ||| place 0 p
  | .and d a b p => 0x080000A0#32 ||| place 20 d ||| place 14 a ||| place 8 b ||| place 0 p
  | .or d a b p => 0x080000A8#32 ||| place 20 d ||| place 14 a ||| place 8 b ||| place 0 p
  | .xor d a b p => 0x080000B0#32 ||| place 20 d ||| place 14 a ||| place 8 b ||| place 0 p
  | .andn d a b p => 0x080000B8#32 ||| place 20 d ||| place 14 a ||| place 8 b ||| place 0 p
  | .shl d a b p => 0x080000C0#32 ||| place 20 d ||| place 14 a ||| place 8 b ||| place 0 p
  | .shr d a b p => 0x080000C8#32 ||| place 20 d ||| place 14 a ||| place 8 b ||| place 0 p
  | .sra d a b p => 0x080000D0#32 ||| place 20 d ||| place 14 a ||| place 8 b ||| place 0 p
  | .rot d a b p => 0x080000D8#32 ||| place 20 d ||| place 14 a ||| place 8 b ||| place 0 p
  | .bext d a b p => 0x080000E0#32 ||| place 20 d ||| place 14 a ||| place 8 b ||| place 0 p
  | .bins d a b p => 0x080000E8#32 ||| place 20 d ||| place 14 a ||| place 8 b ||| place 0 p
  | .sel d a b p => 0x080000F0#32 ||| place 20 d ||| place 14 a ||| place 8 b ||| place 0 p
  | .absD d a p => 0x080000F8#32 ||| place 20 d ||| place 14 a ||| place 0 p
  | .absW d a p => 0x080001F8#32 ||| place 20 d ||| place 14 a ||| place 0 p
  | .clzD d a p => 0x080002F8#32 ||| place 20 d ||| place 14 a ||| place 0 p
  | .clzW d a p => 0x080003F8#32 ||| place 20 d ||| place 14 a ||| place 0 p
  | .popcD d a p => 0x080004F8#32 ||| place 20 d ||| place 14 a ||| place 0 p
  | .popcW d a p => 0x080005F8#32 ||| place 20 d ||| place 14 a ||| place 0 p
  | .addi d a i p => 0x0C000000#32 ||| place 20 d ||| place 14 a ||| place 3 i ||| place 0 p
  | .andi d a i p => 0x10000000#32 ||| place 20 d ||| place 14 a ||| place 3 i ||| place 0 p
  | .ori d a i p => 0x14000000#32 ||| place 20 d ||| place 14 a ||| place 3 i ||| place 0 p
  | .xori d a i p => 0x18000000#32 ||| place 20 d ||| place 14 a ||| place 3 i ||| place 0 p
  | .shli d a w c p => 0x1C000000#32 ||| place 20 d ||| place 14 a ||| place 9 w ||| place 3 c ||| place 0 p
  | .shri d a w c p => 0x1C000800#32 ||| place 20 d ||| place 14 a ||| place 9 w ||| place 3 c ||| place 0 p
  | .srai d a w c p => 0x1C001000#32 ||| place 20 d ||| place 14 a ||| place 9 w ||| place 3 c ||| place 0 p
  | .roti d a w c p => 0x1C001800#32 ||| place 20 d ||| place 14 a ||| place 9 w ||| place 3 c ||| place 0 p
  | .cmp d c a b w p => 0x20000000#32 ||| place 23 d ||| place 20 c ||| place 14 a ||| place 8 b ||| place 3 w ||| place 0 p
  | .cmpi d c a i p => 0x24000000#32 ||| place 23 d ||| place 20 c ||| place 14 a ||| place 3 i ||| place 0 p
  | .pand d a b p => 0x28000000#32 ||| place 23 d ||| place 17 a ||| place 11 b ||| place 0 p
  | .por d a b p => 0x28000008#32 ||| place 23 d ||| place 17 a ||| place 11 b ||| place 0 p
  | .pxor d a b p => 0x28000010#32 ||| place 23 d ||| place 17 a ||| place 11 b ||| place 0 p
  | .pnot d a p => 0x28000018#32 ||| place 23 d ||| place 17 a ||| place 0 p
  | .pmov d a p => 0x28000020#32 ||| place 23 d ||| place 17 a ||| place 0 p
  | .movi d i p => 0x2C000000#32 ||| place 20 d ||| place 3 i ||| place 0 p
  | .br s d => 0x30000000#32 ||| place 23 s ||| place 0 d
  | .brn s d => 0x30400000#32 ||| place 23 s ||| place 0 d
  | .call s d => 0x34000000#32 ||| place 23 s ||| place 0 d
  | .calln s d => 0x34400000#32 ||| place 23 s ||| place 0 d
  | .jr d a p => 0x38000000#32 ||| place 20 d ||| place 14 a ||| place 0 p
  | .ret p => 0x38000008#32 ||| place 0 p
  | .loop c i p => 0x3C000000#32 ||| place 20 c ||| place 3 i ||| place 0 p
  | .ldb t a i p => 0x40000000#32 ||| place 20 t ||| place 14 a ||| place 3 i ||| place 0 p
  | .ldh t a i p => 0x44000000#32 ||| place 20 t ||| place 14 a ||| place 3 i ||| place 0 p
  | .ldw t a i p => 0x48000000#32 ||| place 20 t ||| place 14 a ||| place 3 i ||| place 0 p
  | .ldd t a i p => 0x4C000000#32 ||| place 20 t ||| place 14 a ||| place 3 i ||| place 0 p
  | .stb t a i p => 0x50000000#32 ||| place 20 t ||| place 14 a ||| place 3 i ||| place 0 p
  | .sth t a i p => 0x54000000#32 ||| place 20 t ||| place 14 a ||| place 3 i ||| place 0 p
  | .stw t a i p => 0x58000000#32 ||| place 20 t ||| place 14 a ||| place 3 i ||| place 0 p
  | .std t a i p => 0x5C000000#32 ||| place 20 t ||| place 14 a ||| place 3 i ||| place 0 p
  | .ldv t a i p => 0x60000000#32 ||| place 21 t ||| place 14 a ||| place 3 i ||| place 0 p
  | .stv t a i p => 0x64000000#32 ||| place 21 t ||| place 14 a ||| place 3 i ||| place 0 p
  | .ldxH d a v p => 0x68000000#32 ||| place 21 d ||| place 14 a ||| place 9 v ||| place 0 p
  | .ldxW d a v p => 0x68000008#32 ||| place 21 d ||| place 14 a ||| place 9 v ||| place 0 p
  | .ldxD d a v p => 0x68000010#32 ||| place 21 d ||| place 14 a ||| place 9 v ||| place 0 p
  | .stxH s a v p => 0x68000018#32 ||| place 21 s ||| place 14 a ||| place 9 v ||| place 0 p
  | .stxW s a v p => 0x68000020#32 ||| place 21 s ||| place 14 a ||| place 9 v ||| place 0 p
  | .stxD s a v p => 0x68000028#32 ||| place 21 s ||| place 14 a ||| place 9 v ||| place 0 p
  | .ldblk w a n p => 0x68000030#32 ||| place 20 w ||| place 14 a ||| place 8 n ||| place 0 p
  | .stblk w a n p => 0x68000038#32 ||| place 20 w ||| place 14 a ||| place 8 n ||| place 0 p
  | .ldbs d a b p => 0x68000040#32 ||| place 20 d ||| place 14 a ||| place 8 b ||| place 0 p
  | .ldhs d a b p => 0x68000048#32 ||| place 20 d ||| place 14 a ||| place 8 b ||| place 0 p
  | .ldws d a b p => 0x68000050#32 ||| place 20 d ||| place 14 a ||| place 8 b ||| place 0 p
  | .lwd d o p => 0x6C000000#32 ||| place 20 d ||| place 3 o ||| place 0 p
  | .swd d o p => 0x6C004000#32 ||| place 20 d ||| place 3 o ||| place 0 p
  | .aadd d a o w p => 0x70000000#32 ||| place 20 d ||| place 14 a ||| place 12 o ||| place 3 w ||| place 0 p
  | .amin d a o w p => 0x70000010#32 ||| place 20 d ||| place 14 a ||| place 12 o ||| place 3 w ||| place 0 p
  | .amax d a o w p => 0x70000020#32 ||| place 20 d ||| place 14 a ||| place 12 o ||| place 3 w ||| place 0 p
  | .aand d a o w p => 0x70000030#32 ||| place 20 d ||| place 14 a ||| place 12 o ||| place 3 w ||| place 0 p
  | .aor d a o w p => 0x70000040#32 ||| place 20 d ||| place 14 a ||| place 12 o ||| place 3 w ||| place 0 p
  | .axor d a o w p => 0x70000050#32 ||| place 20 d ||| place 14 a ||| place 12 o ||| place 3 w ||| place 0 p
  | .aswap d a o w p => 0x70000060#32 ||| place 20 d ||| place 14 a ||| place 12 o ||| place 3 w ||| place 0 p
  | .acas d a o w p => 0x70000070#32 ||| place 20 d ||| place 14 a ||| place 12 o ||| place 3 w ||| place 0 p
  | .afadd d a o w p => 0x70000080#32 ||| place 20 d ||| place 14 a ||| place 12 o ||| place 3 w ||| place 0 p
  | .qadd r a s w p => 0x74000000#32 ||| place 20 r ||| place 14 a ||| place 8 s ||| place 3 w ||| place 0 p
  | .qmin r a s w p => 0x74000010#32 ||| place 20 r ||| place 14 a ||| place 8 s ||| place 3 w ||| place 0 p
  | .qmax r a s w p => 0x74000020#32 ||| place 20 r ||| place 14 a ||| place 8 s ||| place 3 w ||| place 0 p
  | .qand r a s w p => 0x74000030#32 ||| place 20 r ||| place 14 a ||| place 8 s ||| place 3 w ||| place 0 p
  | .qior r a s w p => 0x74000040#32 ||| place 20 r ||| place 14 a ||| place 8 s ||| place 3 w ||| place 0 p
  | .qxor r a s w p => 0x74000050#32 ||| place 20 r ||| place 14 a ||| place 8 s ||| place 3 w ||| place 0 p
  | .qfadd r a s w p => 0x74000060#32 ||| place 20 r ||| place 14 a ||| place 8 s ||| place 3 w ||| place 0 p
  | .qbf16add r a s p => 0x74000070#32 ||| place 20 r ||| place 14 a ||| place 8 s ||| place 0 p
  | .qaddx v r a i w p => 0x74000080#32 ||| place 21 v ||| place 20 r ||| place 14 a ||| place 9 i ||| place 3 w ||| place 0 p
  | .qminx v r a i w p => 0x74000090#32 ||| place 21 v ||| place 20 r ||| place 14 a ||| place 9 i ||| place 3 w ||| place 0 p
  | .qmaxx v r a i w p => 0x740000A0#32 ||| place 21 v ||| place 20 r ||| place 14 a ||| place 9 i ||| place 3 w ||| place 0 p
  | .qandx v r a i w p => 0x740000B0#32 ||| place 21 v ||| place 20 r ||| place 14 a ||| place 9 i ||| place 3 w ||| place 0 p
  | .qiorx v r a i w p => 0x740000C0#32 ||| place 21 v ||| place 20 r ||| place 14 a ||| place 9 i ||| place 3 w ||| place 0 p
  | .qxorx v r a i w p => 0x740000D0#32 ||| place 21 v ||| place 20 r ||| place 14 a ||| place 9 i ||| place 3 w ||| place 0 p
  | .qfaddx v r a i w p => 0x740000E0#32 ||| place 21 v ||| place 20 r ||| place 14 a ||| place 9 i ||| place 3 w ||| place 0 p
  | .qbf16addx v r a i p => 0x740000F0#32 ||| place 21 v ||| place 20 r ||| place 14 a ||| place 9 i ||| place 0 p
  | .ldfe d a q p => 0x78000000#32 ||| place 20 d ||| place 14 a ||| place 11 q ||| place 0 p
  | .ldf d a q p => 0x78000008#32 ||| place 20 d ||| place 14 a ||| place 11 q ||| place 0 p
  | .stfe d a q p => 0x78000010#32 ||| place 20 d ||| place 14 a ||| place 11 q ||| place 0 p
  | .sete a p => 0x78000018#32 ||| place 14 a ||| place 0 p
  | .fence s p => 0x7C000000#32 ||| place 8 s ||| place 0 p
  | .ldaD d a p => 0x7C000008#32 ||| place 20 d ||| place 14 a ||| place 0 p
  | .ldaW d a p => 0x7C000010#32 ||| place 20 d ||| place 14 a ||| place 0 p
  | .stlD d a p => 0x7C000018#32 ||| place 20 d ||| place 14 a ||| place 0 p
  | .stlW d a p => 0x7C000020#32 ||| place 20 d ||| place 14 a ||| place 0 p
  | .yield p => 0x80000000#32 ||| place 0 p
  | .close p => 0x80000008#32 ||| place 0 p
  | .halt p => 0x80000010#32 ||| place 0 p
  | .arm q a p => 0x80000018#32 ||| place 23 q ||| place 14 a ||| place 0 p
  | .disarm k p => 0x80000020#32 ||| place 8 k ||| place 0 p
  | .waitm p => 0x80000028#32 ||| place 0 p
  | .spawn q c j p => 0x80000030#32 ||| place 23 q ||| place 14 c ||| place 8 j ||| place 0 p
  | .migr a p => 0x80000038#32 ||| place 14 a ||| place 0 p
  | .stepx d r p => 0x80000040#32 ||| place 20 d ||| place 14 r ||| place 0 p
  | .qpush s c q l p => 0x84000000#32 ||| place 20 s ||| place 16 c ||| place 11 q ||| place 8 l ||| place 0 p
  | .qpushc s c q l p => 0x84000008#32 ||| place 20 s ||| place 16 c ||| place 11 q ||| place 8 l ||| place 0 p
  | .qpop d c q p => 0x84000010#32 ||| place 20 d ||| place 16 c ||| place 11 q ||| place 0 p
  | .qpeek d c q p => 0x84000018#32 ||| place 20 d ||| place 16 c ||| place 11 q ||| place 0 p
  | .qcnt d c p => 0x84000020#32 ||| place 20 d ||| place 16 c ||| place 0 p
  | .tailret p => 0x84000028#32 ||| place 0 p
  | .send q a p => 0x88000000#32 ||| place 23 q ||| place 14 a ||| place 0 p
  | .sendq q a p => 0x88000008#32 ||| place 23 q ||| place 14 a ||| place 0 p
  | .halo q a p => 0x88000010#32 ||| place 23 q ||| place 14 a ||| place 0 p
  | .wmk k v p => 0x88000018#32 ||| place 23 k ||| place 14 v ||| place 0 p
  | .hclaim d a q p => 0x8C000000#32 ||| place 20 d ||| place 14 a ||| place 11 q ||| place 0 p
  | .hwait h p => 0x8C000008#32 ||| place 14 h ||| place 0 p
  | .htest q h p => 0x8C000010#32 ||| place 23 q ||| place 14 h ||| place 0 p
  | .kwalk q a b p => 0x90000000#32 ||| place 23 q ||| place 14 a ||| place 8 b ||| place 0 p
  | .kapnd q a b p => 0x90000008#32 ||| place 23 q ||| place 14 a ||| place 8 b ||| place 0 p
  | .ksum q a b p => 0x90000010#32 ||| place 23 q ||| place 14 a ||| place 8 b ||| place 0 p
  | .mxq d a q p => 0x94000000#32 ||| place 20 d ||| place 14 a ||| place 11 q ||| place 0 p
  | .mxs d a q p => 0x94000008#32 ||| place 20 d ||| place 14 a ||| place 11 q ||| place 0 p
  | .mxw d j p => 0x94000010#32 ||| place 20 d ||| place 14 j ||| place 0 p
  | .mxt d j q p => 0x94000018#32 ||| place 20 d ||| place 14 j ||| place 11 q ||| place 0 p
  | .mxcan j q p => 0x94000020#32 ||| place 14 j ||| place 11 q ||| place 0 p
  | .gnext q a p => 0x98000000#32 ||| place 23 q ||| place 14 a ||| place 0 p
  | .gdone q a p => 0x98000008#32 ||| place 23 q ||| place 14 a ||| place 0 p
  | .launch d a q p => 0x9C000000#32 ||| place 20 d ||| place 14 a ||| place 11 q ||| place 0 p
  | .lhint p => 0x9C000008#32 ||| place 0 p
  | .waitp s p => 0x9C000010#32 ||| place 8 s ||| place 0 p
  | .cancel d i l p => 0x9C000018#32 ||| place 20 d ||| place 14 i ||| place 8 l ||| place 0 p
  | .joinw j t p => 0x9C000020#32 ||| place 14 j ||| place 8 t ||| place 0 p
  | .vadd d a b t p => 0xA0000000#32 ||| place 21 d ||| place 16 a ||| place 11 b ||| place 3 t ||| place 0 p
  | .vsub d a b t p => 0xA0000020#32 ||| place 21 d ||| place 16 a ||| place 11 b ||| place 3 t ||| place 0 p
  | .vmul d a b t p => 0xA0000040#32 ||| place 21 d ||| place 16 a ||| place 11 b ||| place 3 t ||| place 0 p
  | .vfma d a b t p => 0xA0000060#32 ||| place 21 d ||| place 16 a ||| place 11 b ||| place 3 t ||| place 0 p
  | .vfms d a b t p => 0xA0000080#32 ||| place 21 d ||| place 16 a ||| place 11 b ||| place 3 t ||| place 0 p
  | .vmin d a b t p => 0xA00000A0#32 ||| place 21 d ||| place 16 a ||| place 11 b ||| place 3 t ||| place 0 p
  | .vmax d a b t p => 0xA00000C0#32 ||| place 21 d ||| place 16 a ||| place 11 b ||| place 3 t ||| place 0 p
  | .vabs d a t p => 0xA00000E0#32 ||| place 21 d ||| place 16 a ||| place 3 t ||| place 0 p
  | .vneg d a t p => 0xA0000100#32 ||| place 21 d ||| place 16 a ||| place 3 t ||| place 0 p
  | .vdot2 d a b t p => 0xA0000120#32 ||| place 21 d ||| place 16 a ||| place 11 b ||| place 3 t ||| place 0 p
  | .vdot4 d a b p => 0xA0000140#32 ||| place 21 d ||| place 16 a ||| place 11 b ||| place 0 p
  | .viadd d a b t p => 0xA4000000#32 ||| place 21 d ||| place 16 a ||| place 11 b ||| place 3 t ||| place 0 p
  | .visub d a b t p => 0xA4000020#32 ||| place 21 d ||| place 16 a ||| place 11 b ||| place 3 t ||| place 0 p
  | .vimul d a b t p => 0xA4000040#32 ||| place 21 d ||| place 16 a ||| place 11 b ||| place 3 t ||| place 0 p
  | .viadds d a b t p => 0xA4000060#32 ||| place 21 d ||| place 16 a ||| place 11 b ||| place 3 t ||| place 0 p
  | .visubs d a b t p => 0xA4000080#32 ||| place 21 d ||| place 16 a ||| place 11 b ||| place 3 t ||| place 0 p
  | .vimuls d a b t p => 0xA40000A0#32 ||| place 21 d ||| place 16 a ||| place 11 b ||| place 3 t ||| place 0 p
  | .vshl d a b t p => 0xA40000C0#32 ||| place 21 d ||| place 16 a ||| place 11 b ||| place 3 t ||| place 0 p
  | .vshr d a b t p => 0xA40000E0#32 ||| place 21 d ||| place 16 a ||| place 11 b ||| place 3 t ||| place 0 p
  | .vand d a b t p => 0xA4000100#32 ||| place 21 d ||| place 16 a ||| place 11 b ||| place 3 t ||| place 0 p
  | .vor d a b t p => 0xA4000120#32 ||| place 21 d ||| place 16 a ||| place 11 b ||| place 3 t ||| place 0 p
  | .vxor d a b t p => 0xA4000140#32 ||| place 21 d ||| place 16 a ||| place 11 b ||| place 3 t ||| place 0 p
  | .vnadd d a b p => 0xA8000000#32 ||| place 21 d ||| place 16 a ||| place 11 b ||| place 0 p
  | .vnsub d a b p => 0xA8000100#32 ||| place 21 d ||| place 16 a ||| place 11 b ||| place 0 p
  | .vnmul d a b p => 0xA8000200#32 ||| place 21 d ||| place 16 a ||| place 11 b ||| place 0 p
  | .vnfma d a b p => 0xA8000300#32 ||| place 21 d ||| place 16 a ||| place 11 b ||| place 0 p
  | .vnmax d a b p => 0xA8000400#32 ||| place 21 d ||| place 16 a ||| place 11 b ||| place 0 p
  | .vndot d a b k p => 0xA8000500#32 ||| place 21 d ||| place 16 a ||| place 11 b ||| place 5 k ||| place 0 p
  | .vquant d a k p => 0xA8000600#32 ||| place 21 d ||| place 16 a ||| place 5 k ||| place 0 p
  | .vbaq d a b k p => 0xA8000700#32 ||| place 21 d ||| place 16 a ||| place 11 b ||| place 5 k ||| place 0 p
  | .vcvt d a r x y p => 0xAC000000#32 ||| place 21 d ||| place 16 a ||| place 11 r ||| place 7 x ||| place 3 y ||| place 0 p
  | .vshuf d a b w p => 0xB0000000#32 ||| place 21 d ||| place 16 a ||| place 11 b ||| place 3 w ||| place 0 p
  | .vbcast d s w p => 0xB0000020#32 ||| place 21 d ||| place 15 s ||| place 3 w ||| place 0 p
  | .vext d i s w p => 0xB0000040#32 ||| place 20 d ||| place 16 i ||| place 11 s ||| place 3 w ||| place 0 p
  | .vins d s i w p => 0xB0000060#32 ||| place 21 d ||| place 15 s ||| place 11 i ||| place 3 w ||| place 0 p
  | .vselv d a b p => 0xB0000080#32 ||| place 21 d ||| place 16 a ||| place 11 b ||| place 0 p
  | .vrsum d a m t p => 0xB4000000#32 ||| place 21 d ||| place 16 a ||| place 11 m ||| place 3 t ||| place 0 p
  | .vrmax d a m t p => 0xB4000020#32 ||| place 21 d ||| place 16 a ||| place 11 m ||| place 3 t ||| place 0 p
  | .vrmin d a m t p => 0xB4000040#32 ||| place 21 d ||| place 16 a ||| place 11 m ||| place 3 t ||| place 0 p
  | .vexp2 d a t p => 0xB8000000#32 ||| place 21 d ||| place 16 a ||| place 3 t ||| place 0 p
  | .vlog2 d a t p => 0xB8000020#32 ||| place 21 d ||| place 16 a ||| place 3 t ||| place 0 p
  | .vrcp d a t p => 0xB8000040#32 ||| place 21 d ||| place 16 a ||| place 3 t ||| place 0 p
  | .vrsq d a t p => 0xB8000060#32 ||| place 21 d ||| place 16 a ||| place 3 t ||| place 0 p
  | .vsin d a t p => 0xB8000080#32 ||| place 21 d ||| place 16 a ||| place 3 t ||| place 0 p
  | .vtanh d a t p => 0xB80000A0#32 ||| place 21 d ||| place 16 a ||| place 3 t ||| place 0 p
  | .vsig d a t p => 0xB80000C0#32 ||| place 21 d ||| place 16 a ||| place 3 t ||| place 0 p
  | .vcmp d a b c t p => 0xBC000000#32 ||| place 21 d ||| place 16 a ||| place 11 b ||| place 5 c ||| place 3 t ||| place 0 p
  | .vany q a b c t p => 0xBC000100#32 ||| place 23 q ||| place 16 a ||| place 11 b ||| place 5 c ||| place 3 t ||| place 0 p
  | .vall q a b c t p => 0xBC000200#32 ||| place 23 q ||| place 16 a ||| place 11 b ||| place 5 c ||| place 3 t ||| place 0 p
  | .fadd d a b w p => 0xC0000000#32 ||| place 20 d ||| place 14 a ||| place 8 b ||| place 3 w ||| place 0 p
  | .fsub d a b w p => 0xC0000010#32 ||| place 20 d ||| place 14 a ||| place 8 b ||| place 3 w ||| place 0 p
  | .fmul d a b w p => 0xC0000020#32 ||| place 20 d ||| place 14 a ||| place 8 b ||| place 3 w ||| place 0 p
  | .ffma d a b w p => 0xC0000030#32 ||| place 20 d ||| place 14 a ||| place 8 b ||| place 3 w ||| place 0 p
  | .fdiv d a b w p => 0xC0000040#32 ||| place 20 d ||| place 14 a ||| place 8 b ||| place 3 w ||| place 0 p
  | .fsqrt d a w p => 0xC0000050#32 ||| place 20 d ||| place 14 a ||| place 3 w ||| place 0 p
  | .fmin d a b w p => 0xC0000060#32 ||| place 20 d ||| place 14 a ||| place 8 b ||| place 3 w ||| place 0 p
  | .fmax d a b w p => 0xC0000070#32 ||| place 20 d ||| place 14 a ||| place 8 b ||| place 3 w ||| place 0 p
  | .fcvt d a x y p => 0xC0000080#32 ||| place 20 d ||| place 14 a ||| place 11 x ||| place 8 y ||| place 0 p
  | .fcmpeq q a b w p => 0xC4000000#32 ||| place 23 q ||| place 14 a ||| place 8 b ||| place 3 w ||| place 0 p
  | .fcmplt q a b w p => 0xC4000010#32 ||| place 23 q ||| place 14 a ||| place 8 b ||| place 3 w ||| place 0 p
  | .fcmple q a b w p => 0xC4000020#32 ||| place 23 q ||| place 14 a ||| place 8 b ||| place 3 w ||| place 0 p
  | .trap e p => 0xE0000000#32 ||| place 8 e ||| place 0 p
  | .eret p => 0xE0000008#32 ||| place 0 p
  | .bkpt p => 0xE0000010#32 ||| place 0 p
  | .srr d r p => 0xE0000018#32 ||| place 20 d ||| place 8 r ||| place 0 p
  | .srw d r p => 0xE0000020#32 ||| place 20 d ||| place 8 r ||| place 0 p
  | .srs d r p => 0xE0000028#32 ||| place 20 d ||| place 8 r ||| place 0 p
  | .src d r p => 0xE0000030#32 ||| place 20 d ||| place 8 r ||| place 0 p
  | .cflush a l p => 0xE4000000#32 ||| place 14 a ||| place 8 l ||| place 0 p
  | .cinv a p => 0xE4000008#32 ||| place 14 a ||| place 0 p
  | .czero a p => 0xE4000010#32 ||| place 14 a ||| place 0 p
  | .tlbi a s p => 0xE4000018#32 ||| place 14 a ||| place 8 s ||| place 0 p
  | .tlbiAll s p => 0xE4000818#32 ||| place 8 s ||| place 0 p
  | .xbset s p => 0xE4000020#32 ||| place 14 s ||| place 0 p
  | .wayset q s p => 0xE4000028#32 ||| place 23 q ||| place 14 s ||| place 0 p
  | .wfx d t p => 0xE4000030#32 ||| place 20 d ||| place 14 t ||| place 0 p
  | .feat d w p => 0xE8000000#32 ||| place 20 d ||| place 3 w ||| place 0 p
  | .topo d s p => 0xE8000018#32 ||| place 20 d ||| place 8 s ||| place 0 p
  | .idr d s p => 0xE8000020#32 ||| place 20 d ||| place 8 s ||| place 0 p
  | .time d p => 0xE8000028#32 ||| place 20 d ||| place 0 p
  | .immx e => 0x04000000#32 ||| place 0 e
  | .rndx m => 0x04400000#32 ||| place 0 m
  | .hmove f q h r p => (if f == 1 then 0x8C000020#32 else 0x8C000018#32) ||| place 23 q ||| place 14 h ||| place 8 r ||| place 0 p
  | .hend f h p => (if f == 1 then 0x8C000030#32 else 0x8C000028#32) ||| place 14 h ||| place 0 p
  | .hinfo d h p => 0x8C000038#32 ||| place 20 d ||| place 14 h ||| place 0 p
  | .kstat f a p => (if f == 1 then 0x90000020#32 else 0x90000018#32) ||| place 14 a ||| place 0 p
  | .start => 0
  | .stop => 0
  | .redirect => 0
  | .kill => 0
  | .step => 0
  | .outsideStore => 0
  | .controlWindowRefusal => 0
  | .activation => 0
  | .activationComplete => 0
  | .rowCloseComplete => 0
  | .quantumExpiry => 0
  | .preEmption => 0
  | .budgetRefill => 0
  | .budgetClosure => 0
  | .windowSumClear => 0
  | .deferredStoreFault => 0
  | .faultQueueAppend => 0
  | .faultRingHeadReread => 0
  | .pageWalkComplete => 0
  | .tlbiComplete => 0
  | .reductionPerform => 0
  | .reductionAck => 0
  | .homeOperation => 0
  | .performanceNotice => 0
  | .parkedReleaseApply => 0
  | .writeBack => 0
  | .ldfeAnswerWake => 0
  | .wake => 0
  | .monitorFire => 0
  | .joinwWake => 0
  | .wfxDeadline => 0
  | .windowFillWake => 0
  | .waitpWake => 0
  | .placeAbandonment => 0
  | .spawnMessageArrival => 0
  | .spawnServe => 0
  | .migrationPlacement => 0
  | .launchPlacement => 0
  | .launchRowStart => 0
  | .successorIssue => 0
  | .retirementCount => 0
  | .columnReport => 0
  | .fieldReport => 0
  | .neighbourPushArrival => 0
  | .sectorArrival => 0
  | .haloArrival => 0
  | .metadataArrival => 0
  | .targetAcknowledgement => 0
  | .jobStart => 0
  | .tileComplete => 0
  | .jobCompletion => 0
  | .completionNotice => 0
  | .operandFault => 0
  | .mxcanAtColumn => 0
  | .tlockGrant => 0
  | .walkerRequestComplete => 0
  | .walkerRequestStart => 0
  | .gatewayBlockArrival => 0
  | .peerQueued => 0
  | .pairingComplete => 0
  | .linkFailure => 0
  | .wpartTransitionComplete => 0
  | .wayWakeComplete => 0
  | .correctedError => 0
  | .cecntExpiry => 0
  | .columnRetirement => 0
  | .testerWindow => 0
  | .fieldEventPost => 0
  | .thermalSensor => 0
  | .mplim => 0
  | .vctlReset => 0
  | .vctlStop => 0
  | .vctlStart => 0
  | .tenantStopDrain => 0
  | .tenantResetDrain => 0
  | .functionLevelReset => 0
  | .cqbell => 0
  | .hostLaunch => 0
  | .hostCancel => 0
  | .counter => 0
  | .seal => 0
  | .load => 0
  | .mqbell => 0
  | .create => 0
  | .repart => 0
  | .swapout => 0
  | .swapin => 0
  | .remove => 0
  | .hostwin => 0
  | .pair => 0
  | .unpair => 0
  | .reinstate => 0
  | .hostHdmAccess => 0
  | .doeSpdmRequest => 0
  | .registerWrite => 0
  | .powerUp => 0
  | .illegalEncoding => 0
  | .kilnTranslationComplete => 0
  | .pairingEnd => 0
  | .hostLinkTraining => 0

/-- The instruction that the decoder reads from the bits of an opcode-table row: every instruction of the W4 is one
32-bit word (R44). -/
def decodeTableWord (nbits w : Nat) : Option Instr :=
  match decode (BitVec.ofNat 32 (w % 2 ^ nbits)) with
  | .ok i => some i
  | .error _ => none

end Sys2Proof
end

