-- ==== Sys2Proof/Machine/Hints.lean ====
section
/-! DEFINITION. The hint words (R52-R60, R424, R425): a hint of kind 0-4 joins the run of its group and has no effect until
the group's target executes (R53); a word of kind 8-15 is a group on its own without effect (R56). -/

namespace Sys2Proof.Machine

/-- A hint word joins the run: it takes an issue slot, and the group goes on with the next word (R52). -/
def State.pushHint (s : State) (w : Word) : State := { s with run := s.run ++ [w] }

/-- A hint word of kind 0-4 issued. -/
def hintWord (i : Instr) (s : State) : Host.Outcome State Fault Refusal := wordAlways s (fun s => s.pushHint (encode i))

/-- CACHEX (R58): what it changes of the target's accesses is read from the run. -/
def execCachex (e : BitVec 1) (v w l : BitVec 2) (s : State) : Host.Outcome State Fault Refusal :=
  hintWord (.cachex e v w l) s

/-- SCOPEX (R60). -/
def execScopex (c : BitVec 3) (s : State) : Host.Outcome State Fault Refusal := hintWord (.scopex c) s

/-- PREFX (R60). -/
def execPrefx (o : BitVec 1) (c : BitVec 5) (d : BitVec 16) (s : State) : Host.Outcome State Fault Refusal :=
  hintWord (.prefx o c d) s

/-- IMMX (R424, R48). -/
def execImmx (e : BitVec 22) (s : State) : Host.Outcome State Fault Refusal := hintWord (.immx e) s

/-- RNDX (R425). -/
def execRndx (m : BitVec 3) (s : State) : Host.Outcome State Fault Refusal := hintWord (.rndx m) s

/-- A HINT word of kind 8-15: no effect, whatever its payload (R56). -/
def execIgnoredHint (_k : BitVec 3) (_x : BitVec 22) (s : State) : Host.Outcome State Fault Refusal :=
  wordAlways s State.advance

end Sys2Proof.Machine
end

