-- ==== Sys2Proof/Machine/Elementary.lean ====
section
/-! DEFINITION. The special functions of the SFU (R357): each result is the exact function value, rounded once.
A value that is no dyadic number is represented by enough of its leading bits, with its last bit set in place of the
(never zero) remainder: integer arithmetic encloses it between two bounds, and the working precision is doubled until
both agree in all the bits that Round reads. -/

namespace Sys2Proof
namespace Elementary

/-- Sum of t/(2k+1) for k = 0, 1, …, t divided by `n2` each time, signs alternating when `alt` holds. -/
def oddSeries (alt : Bool) (n2 : Nat) : Nat → Nat → Nat → Int → Int
  | 0, _, _, acc => acc
  | fuel + 1, k, t, acc =>
    let term : Int := (t / (2 * k + 1) : Nat)
    let acc := if alt && k % 2 == 1 then acc - term else acc + term
    oddSeries alt n2 fuel (k + 1) (t / n2) acc

/-- π · 2^p, by π = 16 atan(1/5) − 4 atan(1/239), correct but for the last bits. -/
def piFix (p : Nat) : Nat :=
  let one := 2 ^ p
  (16 * oddSeries true 25 (p / 4 + 8) 0 (one / 5) 0 - 4 * oddSeries true 57121 (p / 15 + 8) 0 (one / 239) 0).toNat

/-- ln 2 · 2^p, by ln 2 = 18 atanh(1/26) − 2 atanh(1/4801) + 8 atanh(1/8749). -/
def ln2Fix (p : Nat) : Nat :=
  let one := 2 ^ p
  let f (n : Nat) := oddSeries false (n * n) (p / 9 + 8) 0 (one / n) 0
  (18 * f 26 - 2 * f 4801 + 8 * f 8749).toNat

/-- Taylor terms t · y^k / k! accumulated: exp(y) · 2^p for 0 ≤ y < 2. -/
def expGo (p y : Nat) : Nat → Nat → Nat → Nat → Nat
  | 0, _, _, acc => acc
  | fuel + 1, k, t, acc =>
    let t := t * y / 2 ^ p / k
    expGo p y fuel (k + 1) t (acc + t)

/-- exp(y) · 2^p for y given in units of 2^-p, 0 ≤ y < 2. -/
def expFix (p y : Nat) : Nat := expGo p y (p / 3 + 16) 1 (2 ^ p) (2 ^ p)

/-- exp(−y) · 2^p for y ≥ 0 in units of 2^-p. -/
def expNegFix (p y : Nat) : Nat :=
  let l := ln2Fix p
  let k := y / l
  2 ^ (2 * p) / expFix p (y - k * l) / 2 ^ k

/-- z^(2k+1)/(2k+1) summed: atanh(z) · 2^p for z in units of 2^-p. -/
def atanhGo (p z2 : Nat) : Nat → Nat → Nat → Nat → Nat
  | 0, _, _, acc => acc
  | fuel + 1, k, t, acc => atanhGo p z2 fuel (k + 1) (t * z2 / 2 ^ p) (acc + t / (2 * k + 1))

/-- ln(r) · 2^p for 1 ≤ r < 2 in units of 2^-p. -/
def lnFix (p r : Nat) : Nat :=
  let one := 2 ^ p
  let z := (r - one) * one / (r + one)
  2 * atanhGo p (z * z / one) (p / 3 + 16) 0 z 0

/-- Alternating Taylor terms: t, −t y²/(k(k+1)), …; `k` is the next factor. -/
def sinGo (p y2 : Nat) : Nat → Nat → Nat → Bool → Int → Int
  | 0, _, _, _, acc => acc
  | fuel + 1, k, t, neg, acc =>
    let t' := t * y2 / 2 ^ p / (k * (k + 1))
    sinGo p y2 fuel (k + 2) t' (!neg) (if neg then acc - (t' : Int) else acc + (t' : Int))

/-- sin(y) · 2^p for 0 ≤ y < 1 in units of 2^-p. -/
def sinFix (p y : Nat) : Int := sinGo p (y * y / 2 ^ p) (p / 4 + 16) 2 y true (y : Int)

/-- cos(y) · 2^p for 0 ≤ y < 1 in units of 2^-p. -/
def cosFix (p y : Nat) : Int := sinGo p (y * y / 2 ^ p) (p / 4 + 16) 1 (2 ^ p) true ((2 ^ p : Nat) : Int)

/-- m · 2^e in units of 2^-p, truncated. -/
def toFix (p m : Nat) (e : Int) : Nat :=
  let s := e + p
  if 0 ≤ s then m * 2 ^ s.toNat else m / 2 ^ (-s).toNat

/-- The part of an enclosed value v, lo < v < hi in units of 2^-p, that Round reads, if both bounds agree in its
`bitsWanted` leading bits: those bits and a last bit for the remainder. -/
def agree (bitsWanted p lo hi : Nat) : Option (Nat × Int) :=
  let s := bitLen lo - bitsWanted
  if lo != 0 && lo / 2 ^ s == hi / 2 ^ s then some (2 * (lo / 2 ^ s) + 1, (s : Int) - (p : Int) - 1) else none

/-- The enclosure of `g p ± 2^12` at precisions p, 2p, 4p, … until the bounds agree. -/
def refine (g : Nat → Nat) : Nat → Nat → Nat × Int
  | 0, p => (2 * g p + 1, -(p : Int) - 1)
  | fuel + 1, p =>
    let v := g p
    match agree 40 p (v - 4096) (v + 4096) with
    | some r => r
    | none => refine g fuel (2 * p)

/-- A starting precision for an argument m · 2^e: enough for arguments far below 1. -/
def startPrec (m : Nat) (e : Int) : Nat :=
  let top : Int := e + (bitLen m : Int)
  192 + 3 * (-top).toNat + (-e).toNat

/-- 2^x for x = ±m · 2^e, m ≠ 0: exact when x is an integer. -/
def exp2 (neg : Bool) (m : Nat) (e : Int) : Nat × Int :=
  let clampExp : Int → Int := fun i => if i < -4096 then -4096 else if 4096 < i then 4096 else i
  let (k, inx) := roundAt .rdn neg m e 0
  let i : Int := if neg then -(k : Int) else (k : Int)
  if !inx then (1, clampExp i)
  else
    -- f = x − floor(x) in (0, 1)
    let f : Nat → Nat := fun p => if neg then k * 2 ^ p - toFix p m e else toFix p m e - k * 2 ^ p
    let (r, re) := refine (fun p => expFix p (f p * ln2Fix p / 2 ^ p)) 5 (startPrec m e)
    (r, re + clampExp i)

/-- |log2(x)| and its sign for x = m · 2^e, m ≠ 0: exact for a power of two. -/
def log2 (m : Nat) (e : Int) : Bool × Nat × Int :=
  let n := bitLen m - 1
  let k : Int := e + n
  if m == 2 ^ n then (decide (k < 0), k.natAbs, 0)
  else
    let neg := decide (k < 0)
    let frac : Nat → Nat := fun p =>
      let q := p + 2 * n
      (lnFix q (toFix q m (-(n : Int))) * 2 ^ q / ln2Fix q) / 2 ^ (2 * n)
    let g : Nat → Nat := fun p => if neg then k.natAbs * 2 ^ p - frac p else k.natAbs * 2 ^ p + frac p
    let (r, re) := refine g 5 (192 + 2 * n)
    (neg, r, re)

/-- |sin x| and its sign for x = m · 2^e > 0. -/
def sin (m : Nat) (e : Int) : Bool × Nat × Int :=
  let big := (e + (bitLen m : Int)).toNat
  let quad : Nat → Nat × Nat := fun p =>
    let q := p + big + 16
    let half := piFix q / 2
    let x := toFix q m e
    (x / half, x % half / 2 ^ (big + 16))
  let g : Nat → Nat := fun p =>
    let (k, r) := quad p
    let half := piFix p / 2
    -- |sin| on the four quadrants, with the argument brought below π/4
    let s : Nat → Int := fun y => if 2 * y < half then sinFix p y else cosFix p (half - y)
    (if k % 2 == 0 then s r else s (half - r)).natAbs
  let (r, re) := refine g 5 (startPrec m e)
  (decide ((quad 256).1 / 2 % 2 = 1), r, re)

/-- tanh(x) for x = m · 2^e > 0: within (0, 1). -/
def tanh (m : Nat) (e : Int) : Nat × Int :=
  if 400 ≤ toFix 0 m e then (2 ^ 1024 - 1, -1024)
  else
    refine (fun p =>
      let y := expNegFix p (2 * toFix p m e)
      (2 ^ p - y) * 2 ^ p / (2 ^ p + y)) 5 (startPrec m e + 2 * toFix 0 m e * 2)

/-- 1 / (1 + e^−x) for x = ±m · 2^e, m ≠ 0. -/
def sigmoid (neg : Bool) (m : Nat) (e : Int) : Nat × Int :=
  if 400 ≤ toFix 0 m e then (if neg then (1, -4096) else (2 ^ 1024 - 1, -1024))
  else
    refine (fun p =>
      let y := expNegFix p (toFix p m e)
      (if neg then y else 2 ^ p) * 2 ^ p / (2 ^ p + y)) 5 (startPrec m e + 2 * toFix 0 m e * 2)

end Elementary

/-- The seven special functions (R357). -/
inductive SfuOp where
  | exp2 | log2 | rcp | rsq | sin | tanh | sig
  deriving DecidableEq, Repr

/-- The value of a special function, its special inputs and its flags (R357), rounded once. -/
def sfu (op : SfuOp) (f : FFmt) (c : RoundCtl) (v : FVal) : Nat × Flags :=
  let inv : Nat × Flags := (f.nanBits, { nv := true })
  let out : Bool → Nat × Int → Nat × Flags := fun neg r => f.roundFin c neg r.1 r.2
  match v with
  | .nan s => (f.nanBits, Flags.nvIf s)
  | .inf n =>
    match op with
    | .exp2 => if n then (0, Flags.none) else f.infinity c false
    | .log2 => if n then inv else f.infinity c false
    | .rcp => (f.withSign n 0, Flags.none)
    | .rsq => if n then inv else (0, Flags.none)
    | .sin => inv
    | .tanh => out n (1, 0)
    | .sig => if n then (0, Flags.none) else out false (1, 0)
  | .fin n m e =>
    if m == 0 then
      match op with
      | .exp2 => out false (1, 0)
      | .log2 => ((f.infinity c true).1, { dz := true })
      | .rcp => ((f.infinity c n).1, { dz := true })
      | .rsq => ((f.infinity c n).1, { dz := true })
      | .sin => (f.withSign n 0, Flags.none)
      | .tanh => (f.withSign n 0, Flags.none)
      | .sig => out false (1, -1)
    else
      match op with
      | .exp2 => out false (Elementary.exp2 n m e)
      | .log2 => if n then inv else
        let (neg, r) := Elementary.log2 m e
        out neg r
      | .rcp =>
        let (q, k) := divSticky 1 m (f.fb + 4)
        out n (q, k - e)
      | .rsq => if n then inv else
        -- 1/√(m · 2^e), e made even first: √(2^(2s) / m') with the remainders of both steps kept
        let (m', e') := if e % 2 == 0 then (m, e) else (2 * m, e - 1)
        let s := 2 * (f.fb + 8) + bitLen m'
        let q := 2 ^ (2 * s) / m'
        let r := isqrt q
        let exact := r * r * m' == 2 ^ (2 * s)
        out false (2 * r + (if exact then 0 else 1), -(s : Int) - e' / 2 - 1)
      | .sin =>
        let (neg, r) := Elementary.sin m e
        out (neg != n) r
      | .tanh => out n (Elementary.tanh m e)
      | .sig => out false (Elementary.sigmoid n m e)

end Sys2Proof
end

