-- ==== Sys2Proof/Machine/Vector.lean ====
section
/-! DEFINITION. The vector instructions (R332-R340, R351-R358): each reads all its sources, a destination that it also reads
among them, computes every lane on its own (R77), charges BUD (R335), and writes its destination and ORs its flags into EXC
at the end of its group (R332). The type check of R333 and the rounding-mode check of R64 come before (R57). -/

namespace Sys2Proof.Machine

/-! ## Types, lanes and charges (R51, R72, R333-R335) -/

/-- The EF code of the element type of a V-FP, V-RED, SFU or V-CMP word: 01 F32, 10 BF16, 11 H16, 00 FMT.EF (R51). -/
def Row.fpType (r : Row) (t : BitVec 2) : Nat :=
  match t.toNat with
  | 1 => 0
  | 2 => 1
  | 3 => 2
  | _ => r.ef

/-- The EF code of the element type of a V-INT word: 01 I32, 10 I16, 11 I8, 00 FMT.EF (R51). -/
def Row.intType (r : Row) (t : BitVec 2) : Nat :=
  match t.toNat with
  | 1 => 15
  | 2 => 14
  | 3 => 7
  | _ => r.ef

/-- The number n of lanes of an EF code in 128 bits (R72). -/
def efCount (ef : Nat) : Nat := 128 / efWidth ef

/-- The floating format of an EF code; a code that names none, which R333 refuses, is read as F32. -/
def fltOf (ef : Nat) : FFmt := match efmt ef with | .flt f => f | _ => .f32

/-- The integer format of an EF code; a code that names none, which R333 refuses, is read as I32. -/
def intOf (ef : Nat) : IFmt := match efmt ef with | .int f => f | _ => ⟨32, true⟩

/-- Lane `i` of width `w` (R72). -/
def vlane (x : VWord) (w i : Nat) : Nat := x.toNat / 2 ^ (w * i) % 2 ^ w

/-- Lanes of width `w` packed from lane 0 upwards; bits outside every lane are 0 (R72). -/
def packLanes (w : Nat) (l : List Nat) : VWord := BitVec.ofNat 128 (l.foldr (fun v acc => v % 2 ^ w + 2 ^ w * acc) 0)

/-- The lanes computed each on its own: the packed result and the OR of the flags (R77). -/
def lanewise (w n : Nat) (f : Nat → Nat × Flags) : VWord × Flags :=
  let l := (List.range n).map f
  (packLanes w (l.map (·.1)), Flags.orAll (l.map (·.2)))

/-- CHG.INT of a column (R95, R334). -/
def Column.chgInt (c : Column) : Nat := (bits c.chg 0 8).toNat

/-- CHG.FPV (R95, R334). -/
def Column.chgFpv (c : Column) : Nat := (bits c.chg 8 8).toNat

/-- CHG.NRW (R95, R334). -/
def Column.chgNrw (c : Column) : Nat := (bits c.chg 16 8).toNat

/-- CHG.SFU (R95, R334). -/
def Column.chgSfu (c : Column) : Nat := (bits c.chg 24 8).toNat

/-- The first cycle behind `now` of a count of 256 cycles that reaches `at_`, or that has gone on since (R96). -/
def nextCycle (at_ now : Nat) : Nat := if now < at_ then at_ else at_ + ((now - at_) / 256 + 1) * 256

/-- Charge (R335): BUD falls by the cost and the column's window sum rises by it. -/
def State.charge (s : State) (cost : Nat) : State :=
  let c := s.col s.here
  let s := s.setMe { s.me with bud := s.me.bud - BitVec.ofNat 32 cost }
  s.setCol s.here { c with
    winSum := c.winSum + BitVec.ofNat 32 cost
    clearAt := if c.winSum == 0 then nextCycle c.clearAt s.time else c.clearAt }

/-- The end of a charged word: the row with its destination written, its flags ORed into EXC (R65, R332). -/
def State.endVec (s : State) (cost : Nat) (fl : Flags) (write : Row → Row) : State :=
  let s := s.charge cost
  s.finish ((write s.me).raise fl.toBits)

/-! ## V-FP (R337-R339) -/

/-- A V-FP word of lane-wise form: lanes of va, vb and the old vd as values and as encodings. -/
def vfp (f : FFmt → RoundCtl → Nat → Nat → Nat → Nat × Flags) (d a b : BitVec 5) (t : BitVec 2) (p : BitVec 3) (s : State) :
    Host.Outcome State Fault Refusal :=
  word s p fun s =>
    let r := s.me
    let fm := fltOf (r.fpType t)
    let w := fm.width
    let x := lanewise w (128 / w) fun i => f fm s.ctl (vlane (r.rv a) w i) (vlane (r.rv b) w i) (vlane (r.rv d) w i)
    s.endVec (s.col s.here).chgFpv x.2 (fun r => r.wv d x.1)

/-- The operands of a lane read as values under FTZ (R74). -/
def onVals (f : FFmt → RoundCtl → FVal → FVal → FVal → Nat × Flags) (fm : FFmt) (c : RoundCtl) (a b d : Nat) : Nat × Flags :=
  f fm c (fm.readFtz c.ftz a) (fm.readFtz c.ftz b) (fm.readFtz c.ftz d)

/-- A value written as it is but for its sign: a NaN gives the canonical NaN, and NV only if it is signalling (R337). -/
def rewrite (fm : FFmt) (c : RoundCtl) (v : FVal) (neg : Bool) : Nat × Flags :=
  match v with
  | .nan sg => (fm.nanBits, Flags.nvIf sg)
  | .inf _ => (fm.infinity c neg).1 |> fun x => (x, Flags.none)
  | .fin _ m e => (fm.roundFin c neg m e).1 |> fun x => (x, Flags.none)

/-- VADD: Round(a + b) (R337). -/
def execVadd (d a b : BitVec 5) (t : BitVec 2) (p : BitVec 3) (s : State) : Host.Outcome State Fault Refusal :=
  vfp (onVals fun fm c a b _ => fAdd fm c a b) d a b t p s

/-- VSUB: Round(a − b) (R337). -/
def execVsub (d a b : BitVec 5) (t : BitVec 2) (p : BitVec 3) (s : State) : Host.Outcome State Fault Refusal :=
  vfp (onVals fun fm c a b _ => fSub fm c a b) d a b t p s

/-- VMUL: Round(a × b) (R337). -/
def execVmul (d a b : BitVec 5) (t : BitVec 2) (p : BitVec 3) (s : State) : Host.Outcome State Fault Refusal :=
  vfp (onVals fun fm c a b _ => fMul fm c a b) d a b t p s

/-- VFMA: Round(a × b + d), fused (R81, R337). -/
def execVfma (d a b : BitVec 5) (t : BitVec 2) (p : BitVec 3) (s : State) : Host.Outcome State Fault Refusal :=
  vfp (onVals fun fm c a b d => fusedSum fm c [d] [(a, b)]) d a b t p s

/-- VFMS: Round(d − a × b), fused (R81, R337). -/
def execVfms (d a b : BitVec 5) (t : BitVec 2) (p : BitVec 3) (s : State) : Host.Outcome State Fault Refusal :=
  vfp (onVals fun fm c a b d => fusedSum fm c [d] [(a.negate, b)]) d a b t p s

/-- VMIN: minimumNumber (R79, R337). -/
def execVmin (d a b : BitVec 5) (t : BitVec 2) (p : BitVec 3) (s : State) : Host.Outcome State Fault Refusal :=
  vfp (fun fm c a b _ => fMinMax fm false c.ftz a b) d a b t p s

/-- VMAX: maximumNumber (R79, R337). -/
def execVmax (d a b : BitVec 5) (t : BitVec 2) (p : BitVec 3) (s : State) : Host.Outcome State Fault Refusal :=
  vfp (fun fm c a b _ => fMinMax fm true c.ftz a b) d a b t p s

/-- VABS: the sign bit cleared (R337). -/
def execVabs (d a : BitVec 5) (t : BitVec 2) (p : BitVec 3) (s : State) : Host.Outcome State Fault Refusal :=
  vfp (onVals fun fm c a _ _ => rewrite fm c a false) d a 0 t p s

/-- VNEG: the sign bit inverted (R337). -/
def execVneg (d a : BitVec 5) (t : BitVec 2) (p : BitVec 3) (s : State) : Host.Outcome State Fault Refusal :=
  vfp (onVals fun fm c a _ _ => rewrite fm c a (!a.isNeg)) d a 0 t p s

/-- The fused dot products of `k` neighbouring elements accumulated into the four F32 lanes of vd (R81, R338). -/
def dotLanes (ftz : Bool) (c : RoundCtl) (fm : FFmt) (k : Nat) (a b d : VWord) : VWord × Flags :=
  let rd := fun (x : VWord) i => fm.readFtz ftz (vlane x fm.width i)
  lanewise 32 4 fun j =>
    fusedSum .f32 c [FFmt.f32.readFtz ftz (vlane d 32 j)] ((List.range k).map fun i => (rd a (k * j + i), rd b (k * j + i)))

/-- VDOT2: pairs of BF16 or H16 products into F32 lanes (R338). -/
def execVdot2 (d a b : BitVec 5) (t : BitVec 2) (p : BitVec 3) (s : State) : Host.Outcome State Fault Refusal :=
  word s p fun s =>
    let r := s.me
    let x := dotLanes r.ftz s.ctl (fltOf (r.fpType t)) 2 (r.rv a) (r.rv b) (r.rv d)
    s.endVec (s.col s.here).chgFpv x.2 (fun r => r.wv d x.1)

/-- VDOT4: four E4 or E5 products into each F32 lane (R338, R339). -/
def execVdot4 (d a b : BitVec 5) (p : BitVec 3) (s : State) : Host.Outcome State Fault Refusal :=
  word s p fun s =>
    let r := s.me
    let x := dotLanes r.ftz s.ctl (fltOf r.ef) 4 (r.rv a) (r.rv b) (r.rv d)
    s.endVec (s.col s.here).chgFpv x.2 (fun r => r.wv d x.1)

/-! ## V-INT (R340) -/

/-- A V-INT word: each lane from the lanes of va and vb as encodings, FMT.SAT given. -/
def vint (f : IFmt → Bool → Nat → Nat → Nat × Flags) (d a b : BitVec 5) (t : BitVec 2) (p : BitVec 3) (s : State) :
    Host.Outcome State Fault Refusal :=
  word s p fun s =>
    let r := s.me
    let fm := intOf (r.intType t)
    let x := lanewise fm.w (128 / fm.w) fun i => f fm r.fsat (vlane (r.rv a) fm.w i) (vlane (r.rv b) fm.w i)
    s.endVec (s.col s.here).chgInt x.2 (fun r => r.wv d x.1)

/-- Exact arithmetic, then wrap or Sat (R76). -/
def arith (f : Int → Int → Int) (fm : IFmt) (sat : Bool) (a b : Nat) : Nat × Flags :=
  fm.finish sat (f (fm.read a) (fm.read b))

/-- A lane shifted left by c: 0 if c is the width or more (R340). -/
def laneShl (fm : IFmt) (a c : Nat) : Nat := if fm.w ≤ c then 0 else a * 2 ^ c % 2 ^ fm.w

/-- A lane shifted right by c, sign or zero filled; c of the width or more gives all sign bits or 0 (R340). -/
def laneShr (fm : IFmt) (a c : Nat) : Nat := fm.wrap (fm.read a / ((2 ^ min c fm.w : Nat) : Int))

/-- VIADD: wrapping sum, or Sat when FMT.SAT is 1 (R340). -/
def execViadd (d a b : BitVec 5) (t : BitVec 2) (p : BitVec 3) (s : State) : Host.Outcome State Fault Refusal :=
  vint (arith (· + ·)) d a b t p s

/-- VISUB (R340). -/
def execVisub (d a b : BitVec 5) (t : BitVec 2) (p : BitVec 3) (s : State) : Host.Outcome State Fault Refusal :=
  vint (arith (· - ·)) d a b t p s

/-- VIMUL (R340). -/
def execVimul (d a b : BitVec 5) (t : BitVec 2) (p : BitVec 3) (s : State) : Host.Outcome State Fault Refusal :=
  vint (arith (· * ·)) d a b t p s

/-- VIADDS: saturating sum (R340). -/
def execViadds (d a b : BitVec 5) (t : BitVec 2) (p : BitVec 3) (s : State) : Host.Outcome State Fault Refusal :=
  vint (fun fm _ => arith (· + ·) fm true) d a b t p s

/-- VISUBS (R340). -/
def execVisubs (d a b : BitVec 5) (t : BitVec 2) (p : BitVec 3) (s : State) : Host.Outcome State Fault Refusal :=
  vint (fun fm _ => arith (· - ·) fm true) d a b t p s

/-- VIMULS (R340). -/
def execVimuls (d a b : BitVec 5) (t : BitVec 2) (p : BitVec 3) (s : State) : Host.Outcome State Fault Refusal :=
  vint (fun fm _ => arith (· * ·) fm true) d a b t p s

/-- VSHL: by lane i of vb; never saturates (R340). -/
def execVshl (d a b : BitVec 5) (t : BitVec 2) (p : BitVec 3) (s : State) : Host.Outcome State Fault Refusal :=
  vint (fun fm _ a c => (laneShl fm a c, Flags.none)) d a b t p s

/-- VSHR (R340). -/
def execVshr (d a b : BitVec 5) (t : BitVec 2) (p : BitVec 3) (s : State) : Host.Outcome State Fault Refusal :=
  vint (fun fm _ a c => (laneShr fm a c, Flags.none)) d a b t p s

/-- A bitwise V-INT word, on all 128 bits, whatever ty and FMT hold (R340). -/
def vbitwise (f : VWord → VWord → VWord) (d a b : BitVec 5) (p : BitVec 3) (s : State) : Host.Outcome State Fault Refusal :=
  word s p fun s =>
    let x := f ((s.me).rv a) ((s.me).rv b)
    s.endVec (s.col s.here).chgInt Flags.none (fun r => r.wv d x)

/-- VAND (R340). -/
def execVand (d a b : BitVec 5) (_t : BitVec 2) (p : BitVec 3) (s : State) : Host.Outcome State Fault Refusal :=
  vbitwise (fun x y => x &&& y) d a b p s

/-- VOR (R340). -/
def execVor (d a b : BitVec 5) (_t : BitVec 2) (p : BitVec 3) (s : State) : Host.Outcome State Fault Refusal :=
  vbitwise (fun x y => x ||| y) d a b p s

/-- VXOR (R340). -/
def execVxor (d a b : BitVec 5) (_t : BitVec 2) (p : BitVec 3) (s : State) : Host.Outcome State Fault Refusal :=
  vbitwise (fun x y => x ^^^ y) d a b p s

/-! ## V-PERM (R351) -/

/-- The width of a V-PERM element: 8, 16, 32 or 64 bits (R351). -/
def permWidth (w : BitVec 2) : Nat := 8 * 2 ^ w.toNat

/-- `x` with lane `i` of width `w` replaced (R351). -/
def putLane (x : VWord) (w i v : Nat) : VWord :=
  packLanes w ((List.range (128 / w)).map fun j => if j == i then v else vlane x w j)

/-- VSHUF: lane i of vd := lane (lane i of vb mod n) of va (R351). -/
def execVshuf (d a b : BitVec 5) (w : BitVec 2) (p : BitVec 3) (s : State) : Host.Outcome State Fault Refusal :=
  word s p fun s =>
    let r := s.me
    let k := permWidth w
    let n := 128 / k
    let x := packLanes k ((List.range n).map fun i => vlane (r.rv a) k (vlane (r.rv b) k i % n))
    s.endVec (s.col s.here).chgInt Flags.none (fun r => r.wv d x)

/-- VBCAST: every lane := gs[w−1:0] (R351). -/
def execVbcast (d : BitVec 5) (g : BitVec 6) (w : BitVec 2) (p : BitVec 3) (s : State) : Host.Outcome State Fault Refusal :=
  word s p fun s =>
    let k := permWidth w
    let x := packLanes k (List.replicate (128 / k) ((s.me).rg g).toNat)
    s.endVec (s.col s.here).chgInt Flags.none (fun r => r.wv d x)

/-- VEXT: gd := lane i of vs, zero-extended (R351). -/
def execVext (d : BitVec 6) (i : BitVec 4) (v : BitVec 5) (w : BitVec 2) (p : BitVec 3) (s : State) : Host.Outcome State Fault Refusal :=
  word s p fun s =>
    let x := BitVec.ofNat 64 (vlane ((s.me).rv v) (permWidth w) i.toNat)
    s.endVec (s.col s.here).chgInt Flags.none (fun r => r.wg d x)

/-- VINS: lane i of vd := gs[w−1:0]; the other lanes keep their bits (R351). -/
def execVins (d : BitVec 5) (g : BitVec 6) (i : BitVec 4) (w : BitVec 2) (p : BitVec 3) (s : State) : Host.Outcome State Fault Refusal :=
  word s p fun s =>
    let x := putLane ((s.me).rv d) (permWidth w) i.toNat ((s.me).rg g).toNat
    s.endVec (s.col s.here).chgInt Flags.none (fun r => r.wv d x)

/-- VSELV: vd := (va AND vd) OR (vb AND NOT vd) (R351). -/
def execVselv (d a b : BitVec 5) (p : BitVec 3) (s : State) : Host.Outcome State Fault Refusal :=
  word s p fun s =>
    let m := (s.me).rv d
    let x := ((s.me).rv a &&& m) ||| ((s.me).rv b &&& ~~~m)
    s.endVec (s.col s.here).chgInt Flags.none (fun r => r.wv d x)

/-! ## V-RED (R353) -/

/-- The unmasked lanes of va in lane order: vb = 0 masks none, else a lane of vm that is all zeros masks its lane (R353). -/
def unmasked (r : Row) (a m : BitVec 5) (w : Nat) : List Nat :=
  ((List.range (128 / w)).filter fun i => m == 0 || vlane (r.rv m) w i != 0).map (vlane (r.rv a) w)

/-- VRSUM: the tree of R82 on the lanes widened to F32, each node rounded to F32; no lane gives +0 (R353). -/
def reduceSum (fm : FFmt) (c : RoundCtl) (l : List Nat) : Nat × Flags :=
  let vs := l.map (fm.readFtz c.ftz)
  let node := fun x y => let (z, fl) := fAdd .f32 c x y; (FFmt.f32.read z, fl)
  let quiet := vs.map fun v => if v.isNan then .nan false else v
  let (x, fl) := treeReduce node 6 quiet
  match x with
  | none => (0, Flags.none)
  | some v => ((FFmt.f32.write c v).1, (sigFlags vs).or fl)

/-- VRMAX and VRMIN: the same tree with the operation of R79, without rounding; no lane gives the canonical NaN (R353). -/
def reduceMinMax (wantMax : Bool) (fm : FFmt) (c : RoundCtl) (l : List Nat) : Nat × Flags :=
  let vs := l.map (fm.readFtz c.ftz)
  let clean := vs.map fun v => (rewrite fm c v v.isNeg).1
  let (x, fl) := treeReduce (fMinMax fm wantMax c.ftz) 6 clean
  match x with
  | none => (fm.nanBits, Flags.none)
  | some v => (v, (sigFlags vs).or fl)

/-- A V-RED word: the result in the low bits of vd, every other bit 0 (R353). -/
def vred (f : FFmt → RoundCtl → List Nat → Nat × Flags) (d a m : BitVec 5) (t : BitVec 2) (p : BitVec 3) (s : State) :
    Host.Outcome State Fault Refusal :=
  word s p fun s =>
    let r := s.me
    let fm := fltOf (r.fpType t)
    let x := f fm s.ctl (unmasked r a m fm.width)
    s.endVec (s.col s.here).chgFpv x.2 (fun r => r.wv d (BitVec.ofNat 128 x.1))

/-- VRSUM (R353). -/
def execVrsum (d a m : BitVec 5) (t : BitVec 2) (p : BitVec 3) (s : State) : Host.Outcome State Fault Refusal := vred reduceSum d a m t p s

/-- VRMAX (R353). -/
def execVrmax (d a m : BitVec 5) (t : BitVec 2) (p : BitVec 3) (s : State) : Host.Outcome State Fault Refusal :=
  vred (reduceMinMax true) d a m t p s

/-- VRMIN (R353). -/
def execVrmin (d a m : BitVec 5) (t : BitVec 2) (p : BitVec 3) (s : State) : Host.Outcome State Fault Refusal :=
  vred (reduceMinMax false) d a m t p s

/-! ## SFU (R357) -/

/-- An SFU word: each lane the exact function value, rounded once (R357). -/
def vsfu (op : SfuOp) (d a : BitVec 5) (t : BitVec 2) (p : BitVec 3) (s : State) : Host.Outcome State Fault Refusal :=
  word s p fun s =>
    let r := s.me
    let fm := fltOf (r.fpType t)
    let w := fm.width
    let x := lanewise w (128 / w) fun i => sfu op fm s.ctl (fm.readFtz r.ftz (vlane (r.rv a) w i))
    s.endVec (s.col s.here).chgSfu x.2 (fun r => r.wv d x.1)

/-- VEXP2: 2^x (R357). -/
def execVexp2 (d a : BitVec 5) (t : BitVec 2) (p : BitVec 3) (s : State) : Host.Outcome State Fault Refusal := vsfu .exp2 d a t p s

/-- VLOG2: log2 x (R357). -/
def execVlog2 (d a : BitVec 5) (t : BitVec 2) (p : BitVec 3) (s : State) : Host.Outcome State Fault Refusal := vsfu .log2 d a t p s

/-- VRCP: 1 / x (R357). -/
def execVrcp (d a : BitVec 5) (t : BitVec 2) (p : BitVec 3) (s : State) : Host.Outcome State Fault Refusal := vsfu .rcp d a t p s

/-- VRSQ: 1 / √x (R357). -/
def execVrsq (d a : BitVec 5) (t : BitVec 2) (p : BitVec 3) (s : State) : Host.Outcome State Fault Refusal := vsfu .rsq d a t p s

/-- VSIN: sin x, x in radians (R357). -/
def execVsin (d a : BitVec 5) (t : BitVec 2) (p : BitVec 3) (s : State) : Host.Outcome State Fault Refusal := vsfu .sin d a t p s

/-- VTANH: tanh x (R357). -/
def execVtanh (d a : BitVec 5) (t : BitVec 2) (p : BitVec 3) (s : State) : Host.Outcome State Fault Refusal := vsfu .tanh d a t p s

/-- VSIG: 1 / (1 + e^−x) (R357). -/
def execVsig (d a : BitVec 5) (t : BitVec 2) (p : BitVec 3) (s : State) : Host.Outcome State Fault Refusal := vsfu .sig d a t p s

/-! ## V-CMP (R355, R356) -/

/-- The condition of a code: 0 EQ, 1 NE, 2 LT, 3 LE, 4 UN; codes 5-7 are refused (R355). -/
def condOf (c : BitVec 3) : CmpCond :=
  match c.toNat with
  | 0 => .eq
  | 1 => .ne
  | 2 => .lt
  | 3 => .le
  | _ => .un

/-- An integer comparison (R356); UN is refused (R355) and never holds. -/
def iCompare (c : CmpCond) (a b : Int) : Bool :=
  match c with
  | .eq => a == b
  | .ne => a != b
  | .lt => a < b
  | .le => a ≤ b
  | .un => false

/-- The lanes of a V-CMP: whether the condition holds in each, and the flags (R356). -/
def cmpLanes (r : Row) (c : CmpCond) (ef : Nat) (a b : BitVec 5) : List (Bool × Flags) :=
  let w := efWidth ef
  (List.range (128 / w)).map fun i =>
    let x := vlane (r.rv a) w i
    let y := vlane (r.rv b) w i
    match efmt ef with
    | .flt f => fCompare c (f.readFtz r.ftz x) (f.readFtz r.ftz y)
    | .int f => (iCompare c (f.read x) (f.read y), Flags.none)
    | .t2 => (false, Flags.none)

/-- CHG.FPV on a floating type, CHG.INT on an integer type (R334). -/
def State.cmpCost (s : State) (ef : Nat) : Nat :=
  let c := s.col s.here
  match efmt ef with
  | .flt _ => c.chgFpv
  | _ => c.chgInt

/-- VCMP: lane i of vd := all ones if the condition holds, else 0 (R355). -/
def execVcmp (d a b : BitVec 5) (c : BitVec 3) (t : BitVec 2) (p : BitVec 3) (s : State) : Host.Outcome State Fault Refusal :=
  word s p fun s =>
    let r := s.me
    let ef := r.fpType t
    let w := efWidth ef
    let l := cmpLanes r (condOf c) ef a b
    let x := packLanes w (l.map fun y => if y.1 then 2 ^ w - 1 else 0)
    s.endVec (s.cmpCost ef) (Flags.orAll (l.map (·.2))) (fun r => r.wv d x)

/-- VANY and VALL: a predicate from the lanes (R355). -/
def vcmpPred (f : List Bool → Bool) (q : BitVec 3) (a b : BitVec 5) (c : BitVec 3) (t : BitVec 2) (p : BitVec 3) (s : State) :
    Host.Outcome State Fault Refusal :=
  word s p fun s =>
    let r := s.me
    let ef := r.fpType t
    let l := cmpLanes r (condOf c) ef a b
    s.endVec (s.cmpCost ef) (Flags.orAll (l.map (·.2))) (fun r => r.wp q (f (l.map (·.1))))

/-- VANY: the OR over the lanes (R355). -/
def execVany (q : BitVec 3) (a b : BitVec 5) (c : BitVec 3) (t : BitVec 2) (p : BitVec 3) (s : State) :
    Host.Outcome State Fault Refusal := vcmpPred (fun l => l.any id) q a b c t p s

/-- VALL: the AND over the lanes (R355). -/
def execVall (q : BitVec 3) (a b : BitVec 5) (c : BitVec 3) (t : BitVec 2) (p : BitVec 3) (s : State) :
    Host.Outcome State Fault Refusal := vcmpPred (fun l => l.all id) q a b c t p s

end Sys2Proof.Machine
end

