-- ==== Sys2Proof/Machine/Encoding.lean ====
section
/-! DEFINITION. What a row checks of a group before it executes (R51-R64, R333, R341, R379): the fetch of each word, the hint
words, the encoding of the target, its types, the run, the privilege; and the charge of a word (R334). -/

namespace Sys2Proof.Machine

/-! ## Fetch (R60-R62) -/

/-- The word at an address of the issuing row's code store. -/
def State.codeWord (s : State) (a : BitVec 32) : Word := ofBytes 32 ((s.col s.here).code.readBytes a.toNat 4)

/-- The word that the row fetches next (R60). -/
def State.fetched (s : State) : Word := s.codeWord s.target

/-- Step 1 of R57 for a program row, or for an engine row (log entry 72): the engine region is PAGE to a program row, the words
from XB on are CODE_OVERLAY (1 below 0x1_0000, 2 above), a word that fails its parity check ECC_UNCORRECTED; ADDR is the word's
address (R62, R261). -/
def Column.fetchFault (c : Column) (engine : Bool) (a : BitVec 32) : Option Flt :=
  let addr : DWord := a.setWidth 64
  if a.toNat < 0x1000 && !engine then some (Flt.page 2 addr false)
  else if a.toNat < c.xb.toNat then (if poisoned c.badCode a.toNat 4 then some ⟨0x0E, 3, addr, false, 0⟩ else none)
  else some ⟨0x08, if a.toNat < 0x10000 then 1 else 2, addr, false, 0⟩

/-- The fetch checks of the issuing row's next word. -/
def State.fetchFault (s : State) : Option Flt := (s.col s.here).fetchFault false s.target

/-! ## The run (R52, R55, R56) -/

/-- Is the word a hint of kind 0-4, which belongs to a run (R52)? -/
def isRunHint (w : Word) : Bool := bits w 26 6 == 1 && hintKind w ≤ 4

/-- Does a target accept a hint of a kind (R55)? -/
def acceptsHint (kind : Nat) (w : Word) (i : Instr) : Bool :=
  let op := (bits w 26 6).toNat
  let ordered := match i with
    | .ldaD .. => true
    | .ldaW .. => true
    | .stlD .. => true
    | .stlW .. => true
    | _ => false
  let gathered := match i with
    | .ldxH .. => true
    | .ldxW .. => true
    | .ldxD .. => true
    | .ldblk .. => true
    | _ => false
  match kind with
  | 0 => (3 ≤ op && op ≤ 6) || op == 0x09 || op == 0x0B || (0x10 ≤ op && op ≤ 0x19)
  | 1 => [0x28, 0x2A, 0x2B, 0x2D, 0x2E, 0x30].contains op
  | 2 => (0x10 ≤ op && op ≤ 0x1A) || (0x1C ≤ op && op ≤ 0x1E) || ordered
  | 3 => (0x1C ≤ op && op ≤ 0x1E) || op == 0x22 || ordered
  | 4 => (0x10 ≤ op && op ≤ 0x13) || op == 0x18 || gathered
  | _ => false

/-- Does a run exceed its limits: more than two IMMX, or two hints of one of the kinds 1-4 (R52)? -/
def runTooLong (l : List Word) : Bool :=
  2 < (l.filter (fun w => hintKind w == 0)).length ||
    [1, 2, 3, 4].any (fun k => 1 < (l.filter (fun w => hintKind w == k)).length)

/-- Step 5 of R57: the address that HINT_ORPHAN reports, where the run is at fault (R52, R55, R56). -/
def State.runFault (s : State) (w : Word) (i : Instr) : Option (BitVec 32) :=
  if runTooLong s.run then some s.group
  else if !s.run.isEmpty && bits w 26 6 == 1 then some s.group
  else (s.run.findIdx? (fun h => !acceptsHint (hintKind h) w i)).map (fun j => s.group + BitVec.ofNat 32 (4 * j))

/-! ## Types and rounding (R51, R64, R333, R341) -/

/-- Is FMT.EF one that the instruction accepts, where it reads it (R51, R333, R338, R341, R355)? -/
def Row.typeOk (r : Row) (i : Instr) : Bool :=
  let flt := fun (t : BitVec 2) => t != 0 || r.ef ≤ 2
  let int := fun (t : BitVec 2) => t != 0 || [7, 10, 14, 15].contains r.ef
  let narrow := 3 ≤ r.ef && r.ef ≤ 11
  let cmp := fun (c : BitVec 3) (t : BitVec 2) =>
    (t != 0 || [0, 1, 2, 7, 14, 15].contains r.ef) && (c != 4 || r.fpType t ≤ 2)
  match i with
  | .vadd _ _ _ t _ => flt t
  | .vsub _ _ _ t _ => flt t
  | .vmul _ _ _ t _ => flt t
  | .vfma _ _ _ t _ => flt t
  | .vfms _ _ _ t _ => flt t
  | .vmin _ _ _ t _ => flt t
  | .vmax _ _ _ t _ => flt t
  | .vabs _ _ t _ => flt t
  | .vneg _ _ t _ => flt t
  | .vdot2 _ _ _ t _ => t != 0 || r.ef == 1 || r.ef == 2
  | .vdot4 .. => r.ef == 3 || r.ef == 4
  | .viadd _ _ _ t _ => int t
  | .visub _ _ _ t _ => int t
  | .vimul _ _ _ t _ => int t
  | .viadds _ _ _ t _ => int t
  | .visubs _ _ _ t _ => int t
  | .vimuls _ _ _ t _ => int t
  | .vshl _ _ _ t _ => int t
  | .vshr _ _ _ t _ => int t
  | .vnadd .. => narrow
  | .vnsub .. => narrow
  | .vnmul .. => narrow
  | .vnfma .. => narrow
  | .vnmax .. => narrow
  | .vndot _ _ _ k _ => 3 ≤ r.ef && r.ef ≤ 13 && (k == 0 || r.ef == 13)
  | .vquant .. => 3 ≤ r.ef && r.ef ≤ 12
  | .vbaq .. => r.ef == 13
  | .vrsum _ _ _ t _ => flt t
  | .vrmax _ _ _ t _ => flt t
  | .vrmin _ _ _ t _ => flt t
  | .vexp2 _ _ t _ => flt t
  | .vlog2 _ _ t _ => flt t
  | .vrcp _ _ t _ => flt t
  | .vrsq _ _ t _ => flt t
  | .vsin _ _ t _ => flt t
  | .vtanh _ _ t _ => flt t
  | .vsig _ _ t _ => flt t
  | .vcmp _ _ _ c t _ => cmp c t
  | .vany _ _ _ c t _ => cmp c t
  | .vall _ _ _ c t _ => cmp c t
  | _ => true

/-- Is the EF code a floating format other than K8? -/
def efFloat (ef : Nat) : Bool := ef ≤ 6

/-- Does the instruction round under FMT, so that it reads the rounding mode (R64)? MXQ and MXS too: their ILLEGAL_FIELD for FMT.RND
of 5-7 is an encoding fault, whatever their operands, and stands before the checks of R371 (log entry 85, DEDUCED). -/
def Row.rounds (r : Row) (i : Instr) : Bool :=
  match i with
  | .vadd .. => true
  | .vsub .. => true
  | .vmul .. => true
  | .vfma .. => true
  | .vfms .. => true
  | .vdot2 .. => true
  | .vdot4 .. => true
  | .vnadd .. => efFloat r.ef
  | .vnsub .. => efFloat r.ef
  | .vnmul .. => efFloat r.ef
  | .vnfma .. => efFloat r.ef
  | .vndot .. => efFloat r.ef || r.ef == 13
  | .vquant .. => true
  | .vbaq .. => true
  | .vcvt _ _ _ x y _ => efFloat x.toNat || efFloat y.toNat
  | .vrsum .. => true
  | .vexp2 .. => true
  | .vlog2 .. => true
  | .vrcp .. => true
  | .vrsq .. => true
  | .vsin .. => true
  | .vtanh .. => true
  | .vsig .. => true
  | .fadd .. => true
  | .fsub .. => true
  | .fmul .. => true
  | .ffma .. => true
  | .fdiv .. => true
  | .fsqrt .. => true
  | .fcvt .. => true
  | .mxq .. => true
  | .mxs .. => true
  | _ => false

/-- The checks of step 4 that the row's state decides: the type, and FMT.RND 5-7 where no RNDX replaces it (R64). -/
def State.stateOk (s : State) (i : Instr) : Bool :=
  (s.me).typeOk i && !((s.me).rounds i && 5 ≤ (s.me).rnd && (s.hint 1).isNone)

/-- Step 6 of R57: the instructions that only a supervisor row may issue (R379). -/
def isPrivileged : Instr → Bool
  | .cinv .. => true
  | .tlbi .. => true
  | .tlbiAll .. => true
  | .wayset .. => true
  | .launch .. => true
  | .cancel .. => true
  | .stepx .. => true
  | _ => false

/-! ## Loads out of order (R220) -/

/-- May a later relaxed load have fixed its value before the word (R220)? Before a relaxed load or store to other bytes and before what
touches no memory; of the other words that Ordering table 1 would allow the model shows none (log entry 90, DESIGN CHOICE). -/
def keepsAhead : Instr → Bool
  | .cachex .. => true
  | .scopex .. => true
  | .prefx .. => true
  | .ignoredHint .. => true
  | .immx .. => true
  | .rndx .. => true
  | .addD .. => true
  | .addW .. => true
  | .subD .. => true
  | .subW .. => true
  | .mulD .. => true
  | .mulW .. => true
  | .mulh .. => true
  | .mulhn .. => true
  | .divD .. => true
  | .divW .. => true
  | .divnD .. => true
  | .divnW .. => true
  | .remD .. => true
  | .remW .. => true
  | .remnD .. => true
  | .remnW .. => true
  | .min .. => true
  | .max .. => true
  | .minn .. => true
  | .maxn .. => true
  | .and .. => true
  | .or .. => true
  | .xor .. => true
  | .andn .. => true
  | .shl .. => true
  | .shr .. => true
  | .sra .. => true
  | .rot .. => true
  | .bext .. => true
  | .bins .. => true
  | .sel .. => true
  | .absD .. => true
  | .absW .. => true
  | .clzD .. => true
  | .clzW .. => true
  | .popcD .. => true
  | .popcW .. => true
  | .addi .. => true
  | .andi .. => true
  | .ori .. => true
  | .xori .. => true
  | .shli .. => true
  | .shri .. => true
  | .srai .. => true
  | .roti .. => true
  | .cmp .. => true
  | .cmpi .. => true
  | .pand .. => true
  | .por .. => true
  | .pxor .. => true
  | .pnot .. => true
  | .pmov .. => true
  | .movi .. => true
  | .br .. => true
  | .brn .. => true
  | .call .. => true
  | .calln .. => true
  | .jr .. => true
  | .ret .. => true
  | .loop .. => true
  | .ldb .. => true
  | .ldh .. => true
  | .ldw .. => true
  | .ldd .. => true
  | .stb .. => true
  | .sth .. => true
  | .stw .. => true
  | .std .. => true
  | .ldv .. => true
  | .stv .. => true
  | .ldxH .. => true
  | .ldxW .. => true
  | .ldxD .. => true
  | .stxH .. => true
  | .stxW .. => true
  | .stxD .. => true
  | .ldblk .. => true
  | .stblk .. => true
  | .ldbs .. => true
  | .ldhs .. => true
  | .ldws .. => true
  | .lwd .. => true
  | .swd .. => true
  | .vadd .. => true
  | .vsub .. => true
  | .vmul .. => true
  | .vfma .. => true
  | .vfms .. => true
  | .vmin .. => true
  | .vmax .. => true
  | .vabs .. => true
  | .vneg .. => true
  | .vdot2 .. => true
  | .vdot4 .. => true
  | .viadd .. => true
  | .visub .. => true
  | .vimul .. => true
  | .viadds .. => true
  | .visubs .. => true
  | .vimuls .. => true
  | .vshl .. => true
  | .vshr .. => true
  | .vand .. => true
  | .vor .. => true
  | .vxor .. => true
  | .vnadd .. => true
  | .vnsub .. => true
  | .vnmul .. => true
  | .vnfma .. => true
  | .vnmax .. => true
  | .vndot .. => true
  | .vquant .. => true
  | .vbaq .. => true
  | .vcvt .. => true
  | .vshuf .. => true
  | .vbcast .. => true
  | .vext .. => true
  | .vins .. => true
  | .vselv .. => true
  | .vrsum .. => true
  | .vrmax .. => true
  | .vrmin .. => true
  | .vexp2 .. => true
  | .vlog2 .. => true
  | .vrcp .. => true
  | .vrsq .. => true
  | .vsin .. => true
  | .vtanh .. => true
  | .vsig .. => true
  | .vcmp .. => true
  | .vany .. => true
  | .vall .. => true
  | .fadd .. => true
  | .fsub .. => true
  | .fmul .. => true
  | .ffma .. => true
  | .fdiv .. => true
  | .fsqrt .. => true
  | .fmin .. => true
  | .fmax .. => true
  | .fcvt .. => true
  | .fcmpeq .. => true
  | .fcmplt .. => true
  | .fcmple .. => true
  | _ => false

/-- The state in which a word executes: the values that later loads have fixed are void before a word that none may pass. -/
def State.forWord (s : State) (i : Instr) : State :=
  if (s.me).ahead.isEmpty || keepsAhead i then s else s.setMe { s.me with ahead := [] }

/-! ## The decode order (R57) -/

/-- The code of an encoding error of a word (R50, R51, R58). -/
def errorCode (e : DecodeError) : BitVec 8 :=
  match e with
  | .illegalOpcode => 1
  | .illegalField => 2

/-- Step 2 of R57 for the words of a run: the first reserved payload. -/
def State.hintFault (s : State) : Option Flt :=
  (s.run.findIdx? (fun h => match decode h with | .ok _ => false | .error _ => true)).map (fun j =>
    ⟨2, 0, (s.group + BitVec.ofNat 32 (4 * j)).setWidth 64, false, 0⟩)

/-- Steps 2 to 6 of R57 for the group whose target is `w`: the first fault found. -/
def State.groupFault (s : State) (w : Word) : Option Flt :=
  let addr : DWord := s.target.setWidth 64
  match s.hintFault with
  | some f => some f
  | none =>
    match decode w with
    | .error e => some ⟨errorCode e, 0, addr, false, 0⟩
    | .ok i =>
      if !s.stateOk i then some ⟨2, 0, addr, false, 0⟩
      else
        match s.runFault w i with
        | some a => some ⟨3, 0, a.setWidth 64, false, 0⟩
        | none => if isPrivileged i && !(s.me).priv then some ⟨7, 0, addr, false, 0⟩ else none

/-- ILLEGAL_ENCODING: the issue of a group that encodes no instruction raises its fault (R57, R58); a group that passes the
checks is none of its concern. -/
def execIllegalEncoding (s : State) : Host.Outcome State Fault Refusal :=
  wordAlways s fun s =>
    match s.groupFault s.fetched with
    | some f => s.raise f
    | none => s

/-! ## Charges (R334) -/

/-- The charge of a word of the issuing row (R334); a guard of 0 charges nothing. -/
def State.chargeOf (s : State) (i : Instr) : Nat :=
  let c := s.col s.here
  let r := s.me
  let on := fun (p : BitVec 3) (k : Nat) => if r.rp p then k else 0
  match i with
  | .vadd _ _ _ _ p => on p c.chgFpv
  | .vsub _ _ _ _ p => on p c.chgFpv
  | .vmul _ _ _ _ p => on p c.chgFpv
  | .vfma _ _ _ _ p => on p c.chgFpv
  | .vfms _ _ _ _ p => on p c.chgFpv
  | .vmin _ _ _ _ p => on p c.chgFpv
  | .vmax _ _ _ _ p => on p c.chgFpv
  | .vabs _ _ _ p => on p c.chgFpv
  | .vneg _ _ _ p => on p c.chgFpv
  | .vdot2 _ _ _ _ p => on p c.chgFpv
  | .vdot4 _ _ _ p => on p c.chgFpv
  | .viadd _ _ _ _ p => on p c.chgInt
  | .visub _ _ _ _ p => on p c.chgInt
  | .vimul _ _ _ _ p => on p c.chgInt
  | .viadds _ _ _ _ p => on p c.chgInt
  | .visubs _ _ _ _ p => on p c.chgInt
  | .vimuls _ _ _ _ p => on p c.chgInt
  | .vshl _ _ _ _ p => on p c.chgInt
  | .vshr _ _ _ _ p => on p c.chgInt
  | .vand _ _ _ _ p => on p c.chgInt
  | .vor _ _ _ _ p => on p c.chgInt
  | .vxor _ _ _ _ p => on p c.chgInt
  | .vnadd _ _ _ p => on p c.chgNrw
  | .vnsub _ _ _ p => on p c.chgNrw
  | .vnmul _ _ _ p => on p c.chgNrw
  | .vnfma _ _ _ p => on p c.chgNrw
  | .vnmax _ _ _ p => on p c.chgNrw
  | .vndot _ _ _ _ p => on p c.chgNrw
  | .vquant _ _ _ p => on p c.chgNrw
  | .vbaq _ _ _ _ p => on p c.chgNrw
  | .vcvt _ _ _ x y p =>
    let nrw := fun (e : BitVec 4) => 3 ≤ e.toNat && e.toNat ≤ 12
    let fpv := fun (e : BitVec 4) => e.toNat ≤ 2
    on p (if nrw x || nrw y then c.chgNrw else if fpv x || fpv y then c.chgFpv else c.chgInt)
  | .vshuf _ _ _ _ p => on p c.chgInt
  | .vbcast _ _ _ p => on p c.chgInt
  | .vext _ _ _ _ p => on p c.chgInt
  | .vins _ _ _ _ p => on p c.chgInt
  | .vselv _ _ _ p => on p c.chgInt
  | .vrsum _ _ _ _ p => on p c.chgFpv
  | .vrmax _ _ _ _ p => on p c.chgFpv
  | .vrmin _ _ _ _ p => on p c.chgFpv
  | .vexp2 _ _ _ p => on p c.chgSfu
  | .vlog2 _ _ _ p => on p c.chgSfu
  | .vrcp _ _ _ p => on p c.chgSfu
  | .vrsq _ _ _ p => on p c.chgSfu
  | .vsin _ _ _ p => on p c.chgSfu
  | .vtanh _ _ _ p => on p c.chgSfu
  | .vsig _ _ _ p => on p c.chgSfu
  | .vcmp _ _ _ _ t p => on p (s.cmpCost (r.fpType t))
  | .vany _ _ _ _ t p => on p (s.cmpCost (r.fpType t))
  | .vall _ _ _ _ t p => on p (s.cmpCost (r.fpType t))
  | _ => 0

/-! ## Choosing to issue (R254) -/

/-- The group at an address, of at most so many words: the run of its hints and its target (R52), where that decodes. -/
def State.groupAt (s : State) : Nat → BitVec 32 → Option (State × Instr)
  | 0, _ => none
  | n + 1, a =>
    let w := s.codeWord a
    if isRunHint w then ({ s with run := s.run ++ [w] } : State).groupAt n (a + 4)
    else match decode w with
      | .ok i => some (s, i)
      | .error _ => none

/-- The next word of the issuing row behind the hints of its group that have issued, where it is no hint and decodes (R52, R254): a
group that is tried again keeps the words that it was issued with. -/
def State.nextWord (s : State) : Option (State × Instr) :=
  let r := s.me
  let u : State := { s with run := if r.again.isEmpty then r.run else r.again.dropLast }
  let w := r.again.getLastD (u.codeWord u.target)
  if isRunHint w then none
  else match decode w with
    | .ok i => some (u, i)
    | .error _ => none

/-- The charge of the issuing row's next word (R254, R334), as the hints before it leave it; a hint charges nothing. -/
def State.nextCharge (s : State) : Nat :=
  match s.nextWord with
  | some (u, i) => if u.stateOk i then u.chargeOf i else 0
  | none => 0

/-- The number of elements that a reduction adds to PEND (R314). -/
def Row.pendOf (r : Row) (i : Instr) : Nat :=
  let scalar := fun (p : BitVec 3) => if r.rp p then 1 else 0
  let scatter := fun (w : BitVec 1) (p : BitVec 3) => if r.rp p then (if w == 1 then 4 else 2) else 0
  match i with
  | .qadd _ _ _ _ p => scalar p
  | .qmin _ _ _ _ p => scalar p
  | .qmax _ _ _ _ p => scalar p
  | .qand _ _ _ _ p => scalar p
  | .qior _ _ _ _ p => scalar p
  | .qxor _ _ _ _ p => scalar p
  | .qfadd _ _ _ _ p => scalar p
  | .qbf16add _ _ _ p => scalar p
  | .qaddx _ _ _ _ w p => scatter w p
  | .qminx _ _ _ _ w p => scatter w p
  | .qmaxx _ _ _ _ w p => scatter w p
  | .qandx _ _ _ _ w p => scatter w p
  | .qiorx _ _ _ _ w p => scatter w p
  | .qxorx _ _ _ _ w p => scatter w p
  | .qfaddx _ _ _ _ w p => scatter w p
  | .qbf16addx _ _ _ _ p => if r.rp p then 8 else 0
  | _ => 0

/-- How the group of an instruction takes an interruption (R255): those that wait by name end where they are, like the progressive
ones. -/
def midOf (i : Instr) : Mid :=
  match i with
  | .divD .. => .restart
  | .divW .. => .restart
  | .divnD .. => .restart
  | .divnW .. => .restart
  | .remD .. => .restart
  | .remW .. => .restart
  | .remnD .. => .restart
  | .remnW .. => .restart
  | .fdiv .. => .restart
  | .fsqrt .. => .restart
  | .ldb .. => .restart
  | .ldh .. => .restart
  | .ldw .. => .restart
  | .ldd .. => .restart
  | .ldbs .. => .restart
  | .ldhs .. => .restart
  | .ldws .. => .restart
  | .ldv .. => .restart
  | .ldaD .. => .restart
  | .ldaW .. => .restart
  | .mxs .. => .restart
  | .ldblk .. => .units
  | .stblk .. => .units
  | .ldxH .. => .units
  | .ldxW .. => .units
  | .ldxD .. => .units
  | .stxH .. => .units
  | .stxW .. => .units
  | .stxD .. => .units
  | .hwait .. => .units
  | .waitm .. => .units
  | .wfx .. => .units
  | .waitp .. => .units
  | .mxw .. => .units
  | .joinw .. => .units
  | .halt .. => .units
  | _ => .held

/-- How the group of a word of the issuing row takes an interruption: an MXS whose job has been accepted waits, as MXW does, and
keeps its PROG (R255, R373). -/
def State.midFor (s : State) (i : Instr) : Mid :=
  match i with
  | .mxs .. => if bit (s.me).prog 16 then .units else midOf i
  | i => midOf i

/-- Does BUD cover the charge of the row's next word (R96, R254)? -/
def State.budCovers (s : State) : Bool := s.nextCharge ≤ (s.me).bud.toNat

/-- May the row's next word issue as far as its budget is concerned: BUD covers its charge (R254), which is not above CAP (R211)? -/
def State.budgetCovers (s : State) : Bool := s.budCovers && s.nextCharge ≤ (s.col s.here).bcap.toNat

/-- Is the window sum of a column to be cleared before its next charge (R96)? -/
def Column.clearDue (c : Column) (now : Nat) : Bool := c.winSum != 0 && c.clearAt ≤ now

/-- Does the column's window sum allow the next word (R96)? Uncharged words always issue. -/
def State.windowAllows (s : State) : Bool :=
  let c := s.col s.here
  s.nextCharge == 0 || (!c.clearDue s.time && c.winSum.toNat < c.pcap.toNat)

/-- Is there room in PEND for the elements of the row's next word (R210, R314)? -/
def State.pendAllows (s : State) : Bool :=
  match s.nextWord with
  | some (_, i) => (s.me).pend.toNat + (s.me).pendOf i ≤ 64
  | none => true

/-- The state with a seat taken: the row that sits there is the issuing row. -/
def State.sit (s : State) (seat : Seat) : State :=
  match (s.executor seat.site.toNat seat.bank).slots[seat.slot.toNat] with
  | some sl => { s with seat := seat, cur := sl.row }
  | none => { s with seat := seat }

end Sys2Proof.Machine
end

