-- ==== Sys2Proof/Machine/Sched.lean ====
section
/-! DEFINITION. The rows that an executor may open, and the closing of a row that stays READY (R245, R250-R256). -/

namespace Sys2Proof.Machine

/-! ## Candidates and contenders (R250, R256) -/

/-- The rows whose physical row lies in an executor's bank (R170). -/
def State.rowsAt (s : State) (site : BitVec 10) (bank : BitVec 3) : List RowKey :=
  (s.rows.map (fun x => RowKey.ofKey x.1)).filter (fun k =>
    let d := s.dir k
    d.valid && d.site == site && d.bank == bank)

/-- The slot that holds a subarray group, from the start of an activation to the end of the close (R251). -/
def Exec.groupHolder (e : Exec) (g : BitVec 4) : Option Slot :=
  (e.slots.toList.filterMap id).find? (fun sl => sl.group == g)

/-- The number of free slots. -/
def Exec.freeSlots (e : Exec) : Nat := (e.slots.toList.filter Option.isNone).length

/-- The lowest free slot. -/
def Exec.freeSlot (e : Exec) : Option (Fin 8) := (List.finRange 8).find? (fun i => (e.slots[i]).isNone)

/-- Is the row in a slot that is opening or open: does it count as open (R245)? -/
def Exec.openIn (e : Exec) (k : RowKey) : Bool :=
  e.slots.toList.any (fun x => match x with | some sl => sl.row == k && (sl.phase == .opening || sl.phase == .open_) | none => false)

/-- A READY row that an executor considers: its group, its level and its READYAT (R250). -/
structure Cand where
  key : RowKey
  group : BitVec 4
  level : BitVec 2
  readyAt : Nat
  bind : Bind
  deriving DecidableEq, Repr

/-- The level of a row of a bind record (R250). -/
def levelUnder (b : Bind) (r : Row) : BitVec 2 := if b.age != 0 && b.age.toNat ≤ r.pass then 3 else b.pri

/-- The READY rows of an executor that a valid bind record names (R250). -/
def State.readyRows (s : State) (site : BitVec 10) (bank : BitVec 3) : List Cand :=
  let e := s.executor site.toNat bank
  (s.rowsAt site bank).filterMap (fun k =>
    let r := s.row k
    if r.st != .ready || (e.find k).isSome then none
    else (e.bindOf k.t r.launch).map (fun b => ⟨k, (s.dir k).group, levelUnder b r, r.readyAt, b⟩))

/-- Does a row belong to the gang of a bind record (R256)? A row that was spawned, whose identity registers are 0, does not
(R257). -/
def State.inGang (s : State) (b : Bind) (k : RowKey) : Bool :=
  b.gang && k.t == b.tenant && (s.row k).launch == b.lnch && (s.row k).gridw != 0

/-- May a member of a gang be opened: alone while a member is open, else all together (R256)? (log entry 64, DEDUCED) -/
def State.gangMay (s : State) (site : BitVec 10) (bank : BitVec 3) (c : Cand) : Bool :=
  let e := s.executor site.toNat bank
  let members := (s.rowsAt site bank).filter (s.inGang c.bind)
  if members.any e.openIn then true
  else
    let ready := members.filter (fun k => (s.row k).st == .ready)
    ready.length == c.bind.gsize.toNat && c.bind.gsize.toNat ≤ e.freeSlots &&
      ready.all (fun k => (e.groupHolder (s.dir k).group).isNone)

/-- The candidates and contenders of an executor (R250): of a gang, only those that may be opened. -/
def State.eligible (s : State) (site : BitVec 10) (bank : BitVec 3) : List Cand :=
  (s.readyRows site bank).filter (fun c => !s.inGang c.bind c.key || s.gangMay site bank c)

/-- The candidates: no row of their group holds it (R250) (log entry 64, DEDUCED). -/
def State.candidates (s : State) (site : BitVec 10) (bank : BitVec 3) : List Cand :=
  (s.eligible site bank).filter (fun c => ((s.executor site.toNat bank).groupHolder c.group).isNone)

/-- Would some candidate or contender become able to take a row's slot or its subarray group if the row closed (R252, R320)? -/
def State.couldTake (s : State) (k : RowKey) : Bool :=
  let d := s.dir k
  let e := s.executor d.site.toNat d.bank
  (s.eligible d.site d.bank).any (fun c =>
    c.key != k && (match e.groupHolder c.group with | none => true | some sl => sl.row == k))

/-! ## A close that leaves the row READY (R245) -/

/-- The row closes and becomes READY with a WAITON; READYAT is now. -/
def State.closeReady (s : State) (k : RowKey) (on : BitVec 32) : State :=
  let s := s.beginClose k
  (s.setRow k { s.row k with waiton := on }).makeReady k

/-- Does the row stand where it may close: it is open in its slot, awaits no answer and is inside no group that a close waits
for (R53, R255)? -/
def State.atBoundary (s : State) (k : RowKey) : Bool :=
  (s.row k).st == .open_ && (s.row k).await.isNone && (s.row k).mid == .none && (s.row k).run.isEmpty && (match s.slotOf k with | some sl => sl.phase == .open_ | none => false)

/-- Has a quantum, a pre-emption or a refill decided that a row closes (R96, R252, R253)? The WAITON of that close. -/
def State.leaving (s : State) (k : RowKey) : Option (BitVec 32) :=
  match s.slotOf k with
  | some sl => if sl.phase != .open_ then none else if sl.expired then some 0 else if sl.closeDue then some 8 else none
  | none => none

/-- A close that has been decided acts at the row's boundary, behind the faults that are due there (R255, R265); inside a
progressive group it waits for one more unit. -/
def State.leave (s : State) (k : RowKey) : State :=
  match s.leaving k with
  | none => s
  | some _ =>
    if !s.atBoundary k || (s.row k).inGroup then s
    else
      match s.faultsFirst k with
      | none => s
      | some s' =>
        match s'.leaving k with
        | some on => if s'.atBoundary k then s'.closeReady k on else s'
        | none => s'

/-- The same behind a word of the issuing row, whose PROG stood at `prog` before it: a unit more has been done (R255). -/
def State.leaveAfter (s : State) (prog : BitVec 32) : State :=
  if (s.me).inGroup && (s.me).prog != prog && (s.leaving s.cur).isSome && s.atBoundary s.cur
  then s.closeReady s.cur ((s.leaving s.cur).getD 0)
  else s.leave s.cur

end Sys2Proof.Machine
end

