-- ==== Sys2Proof/Machine/Completion.lean ====
section
/-! DEFINITION. Row pools, launch ids, the completion tree, cancels and completion words (R173, R183, R204-R207, R396). -/

namespace Sys2Proof.Machine

/-! ## The row pool (R173) -/

/-- The ids of a tenant's pool, rising: the directory entries with VALID = 1, found in the bytes that memory lists. -/
def State.poolIds (s : State) (t : BitVec 4) : List (BitVec 32) :=
  let x := s.ten t
  let lo := x.dirbase.toNat
  s.mem.filterMap (fun (a, b) =>
    if lo ≤ a && a < lo + 8 * x.dirsize.toNat && (a - lo) % 8 == 3 && bit b 4 then some (BitVec.ofNat 32 ((a - lo) / 8)) else none)

/-- The FREE ids of a tenant in a bank of a column, rising (R173). -/
def State.freeIds (s : State) (t : BitVec 4) (site : BitVec 10) (bank : BitVec 3) : List (BitVec 32) :=
  (s.poolIds t).filter (fun n =>
    let d := s.dir ⟨t, n⟩
    d.site == site && d.bank == bank && (s.row ⟨t, n⟩).st == .free)

/-- The cells of launches in a bank of a column whose rows are still to be allocated (R249). -/
def owedCells (l : List Launch) (site : BitVec 10) (bank : BitVec 3) : List Cell :=
  l.flatMap (fun y => y.todo.filter (fun c => c.site == site && c.bank == bank))

/-- The lowest FREE id of a bank, or of a subarray group of it, but for ids taken already (R173, R249); none while the placed
cells `owed` need every FREE row of the bank, or of that row's group, for themselves: FREE rows are kept for a placed launch by
their number, not by their ids (log entry 76, DESIGN CHOICE). -/
def State.allotId (s : State) (t : BitVec 4) (site : BitVec 10) (bank : BitVec 3) (group : Option (BitVec 4)) (owed : List Cell)
    (taken : List (BitVec 32)) : Option (BitVec 32) :=
  let free := (s.freeIds t site bank).filter (fun n => !taken.contains n)
  let groupOf (n : BitVec 32) : BitVec 4 := (s.dir ⟨t, n⟩).group
  let low := match group with
    | none => free.head?
    | some g => free.find? (fun n => groupOf n == g)
  match low with
  | none => none
  | some n =>
    if owed.length < free.length &&
      (owed.filter (fun c => c.group == some (groupOf n))).length < (free.filter (fun m => groupOf m == groupOf n)).length
    then some n else none

/-- The lowest FREE id of a bank that a spawn message or a migration takes (R173, R257, R258). -/
def State.spareId (s : State) (t : BitVec 4) (site : BitVec 10) (bank : BitVec 3) : Option (BitVec 32) :=
  s.allotId t site bank none (owedCells (s.ten t).launches site bank) []

/-- Can an executor take a bind record of a launch (R248)? -/
def Exec.canBind (e : Exec) (t : BitVec 4) (l : BitVec 32) : Bool := (e.bindOf t l).isSome || e.binds.length < 32

/-! ## Completion words (R396) -/

/-- Is a physical address DRAM of one of a tenant's columns? -/
def State.tenantDram (s : State) (t : BitVec 4) (pa : Nat) : Bool :=
  paSlot pa < 960 && paOff pa < 4 * layerBytes && (s.ten t).cols.any (fun c => c.toNat == paSlot pa)

/-- A completion word, written whole (R396): to the tenant's DRAM, or to host memory inside the tenant's window; 0 names
none (log entry 39, DEDUCED). -/
def State.complete (s : State) (t : BitVec 4) (cpl : BitVec 64) (status reason : BitVec 8) (ctag : BitVec 16)
    (result : BitVec 32) : State :=
  let w : DWord := result ++ ctag ++ reason ++ status
  let a := cpl.toNat
  if a == 0 || !aligned a 8 then s
  else if s.tenantDram t a then
    (s.recall (a / 256) none).homeWrite a (toBytes 8 w) true
  else
    let x := s.ten t
    let h := a - 2 ^ 43
    if 2 ^ 43 ≤ a && x.hwen && x.hwbase.toNat ≤ h && h + 8 ≤ x.hwlimit.toNat
    then { s with host := s.host.writeBytes h (toBytes 8 w) } else s

/-! ## Graph, phase and job counters (R204, R205) -/

/-- A counter of a tenant. -/
def Tenant.ctr (x : Tenant) (level : BitVec 2) (id : BitVec 32) : Option Ctr := x.ctrs.find? (fun c => c.level == level && c.id == id)

/-- Can a counter take another member (R204)? -/
def Tenant.ctrTakes (x : Tenant) (level : BitVec 2) (id : BitVec 32) : Bool :=
  match x.ctr level id with
  | some c => c.count != BitVec.allOnes 32
  | none => false

/-- A member created under a counter. -/
def Tenant.ctrUp (x : Tenant) (level : BitVec 2) (id : BitVec 32) : Tenant :=
  { x with ctrs := x.ctrs.map (fun c => if c.level == level && c.id == id then { c with count := c.count + 1 } else c) }

/-- A member of a counter completes: at 0 the counter writes its completion word and leaves, and its own counter one level
up goes down (R205, R394). -/
def State.ctrDown (s : State) (t : BitVec 4) : (fuel : Nat) → (level : BitVec 2) → (id : BitVec 32) → State
  | 0, _, _ => s
  | fuel + 1, level, id =>
    match (s.ten t).ctr level id with
    | none => s
    | some c =>
      let x := s.ten t
      if 1 < c.count.toNat then
        s.setTen t { x with ctrs := x.ctrs.map (fun y => if y.level == level && y.id == id then { y with count := y.count - 1 } else y) }
      else
        let s := s.setTen t { x with ctrs := x.ctrs.filter (fun y => !(y.level == level && y.id == id)) }
        (s.complete t c.watch 1 0 c.ctag c.id).ctrDown t fuel (level + 1) c.parent

/-! ## Launch ids (R183) -/

/-- The launch ids of a tenant that are in use. -/
def State.idsUsed (s : State) (t : BitVec 4) : List (BitVec 32) :=
  ((s.ten t).launches.map (·.id)) ++
  s.rows.flatMap (fun (k, r) => if (RowKey.ofKey k).t == t && r.st != .free then [r.launch, r.predid] else []) ++
  s.cols.flatMap (fun (_, c) =>
    ((c.execs.toList.flatMap (·.binds)).filter (fun b => b.tenant == t)).map (·.lnch) ++
    ((c.chans.toList.filter (fun x => x.bound && c.owner == some t)).map (·.lnch)) ++
    ((c.comp.filter (fun x => x.t == t)).map (·.lnch)) ++
    (c.spawnq.filter (fun m => m.tenant == t)).flatMap (fun m => [m.lnch, m.predid])) ++
  (s.spawns.filter (fun m => m.tenant == t)).flatMap (fun m => [m.lnch, m.predid])

/-- The first id from `i` on that is not in use, skipping 0. -/
def nextId (used : List (BitVec 32)) : (fuel : Nat) → BitVec 32 → Option (BitVec 32)
  | 0, _ => none
  | fuel + 1, i => if i == 0 || used.contains i then nextId used fuel (i + 1) else some i

/-- A launch id taken from NEXTLNCH, which advances (R183). -/
def State.takeId (s : State) (t : BitVec 4) : Option (BitVec 32 × State) :=
  let used := s.idsUsed t
  match nextId used (used.length + 2) (s.ten t).nextLnch with
  | none => none
  | some i =>
    let n := i + 1
    some (i, s.setTen t { s.ten t with nextLnch := if n == 0 then 1 else n })

/-! ## The completion of a launch (R205, R207, R259) -/

/-- A field of a launch record at a byte offset (R247). -/
def Launch.field (l : Launch) (off n : Nat) : Nat := bytesToNat ((l.record.drop off).take n)

/-- SUCC of a launch record. -/
def Launch.succ (l : Launch) : BitVec 48 := BitVec.ofNat 48 (l.field 0x18 6)

/-- GRAPH of a launch record. -/
def Launch.graph (l : Launch) : BitVec 32 := BitVec.ofNat 32 (l.field 0x14 4)

/-- The launch of a tenant with an id. -/
def Tenant.launch (x : Tenant) (id : BitVec 32) : Option Launch := x.launches.find? (fun l => l.id == id)

/-- A tenant with a launch changed. -/
def Tenant.modLaunch (x : Tenant) (id : BitVec 32) (f : Launch → Launch) : Tenant :=
  { x with launches := x.launches.map (fun l => if l.id == id then f l else l) }

/-- The launch is complete: its RETIRED rows become FREE, its channels are unbound, its bind records end (but one that still
counts a row, started again since, unless the launch is cancelled), its graph counter goes down (R136, R171, R205, R245). It stays listed while its successor is still to be issued (R259). -/
def State.launchDone (s : State) (t : BitVec 4) (id : BitVec 32) : State :=
  match (s.ten t).launch id with
  | none => s
  | some l =>
    let s : State := { s with
      rows := s.rows.map (fun (k, r) =>
        (k, if (RowKey.ofKey k).t == t && r.launch == id && r.st == .retired then { r with st := .free } else r))
      cols := s.cols.map (fun (i, c) =>
        (i, { c with execs := c.execs.map (fun e => { e with binds := e.binds.filter (fun b =>
          !(b.tenant == t && b.lnch == id && (l.cancelled || b.nbound == 0))) }) })) }
    let s := (s.cols.filter (fun (_, c) => c.owner == some t)).foldl (fun s (i, _) => s.unbindAt t id (BitVec.ofNat 10 i)) s
    let x := s.ten t
    let x : Tenant :=
      if l.succ == 0 || l.succIssued then { x with launches := x.launches.filter (fun y => y.id != id) }
      else x.modLaunch id (fun y => { y with phase := .complete, todo := [] })
    let s := s.setTen t x
    if l.graph == 0 then s else s.ctrDown t 3 1 l.graph

/-! ## Cancels (R207) -/

/-- The completion entries of a launch marked, those at 0 excepted, which only their report is still to leave. -/
def markCancelled (t : BitVec 4) (id : BitVec 32) (l : List Comp) : List Comp :=
  l.map (fun c => if c.t == t && c.lnch == id && c.count != 0 then { c with cancelled := true } else c)

/-- A command to a row from the management cores; the issuing row takes it at the boundary after its group (R355). -/
def State.commandFrom (s : State) (k : RowKey) (c : Cmd) : State :=
  if k == s.cur && s.seated && (s.row k).st == .open_ then s.setRow k { s.row k with held := (s.row k).held ++ [c] }
  else s.outsideCommand k c

/-- KILL to every row of a launch that has not retired (R207). -/
def State.killRows (s : State) (t : BitVec 4) (id : BitVec 32) : State :=
  ((s.rows.filter (fun (k, r) => (RowKey.ofKey k).t == t && r.launch == id && r.st != .free && r.st != .retired)).map
    (fun x => RowKey.ofKey x.1)).foldl (fun s k => s.commandFrom k .kill) s

/-- A launch cancelled: one that waits for placement completes at once; else its entries are marked, its rows killed and its
channels unbound (R136, R207). -/
def State.cancelLaunch (s : State) (t : BitVec 4) (id : BitVec 32) : State :=
  match (s.ten t).launch id with
  | none => s
  | some l =>
    match l.phase with
    | .complete => s
    | .waiting => (s.setTen t ((s.ten t).modLaunch id (fun y => { y with cancelled := true }))).launchDone t id
    | .placed =>
      let s := s.setTen t ((s.ten t).modLaunch id (fun y => { y with cancelled := true }))
      let s : State := { s with
        cols := s.cols.map (fun (i, c) => (i, { c with comp := markCancelled t id c.comp }))
        fields := s.fields.map (fun (i, f) => (i, { f with comp := markCancelled t id f.comp }))
        wcomp := markCancelled t id s.wcomp }
      ((s.ten t).cols).foldl (fun s c => s.unbindAt t id c) (s.killRows t id)

/-- The graphs below a counter of level 1, 2 or 3. -/
def Tenant.graphsUnder (x : Tenant) (level : BitVec 2) (id : BitVec 32) : List (BitVec 32) :=
  let under := fun (l : BitVec 2) (ids : List (BitVec 32)) => (x.ctrs.filter (fun c => c.level == l && ids.contains c.parent)).map (·.id)
  if level == 1 then [id] else if level == 2 then under 1 [id] else under 1 (under 2 [id])

/-- A cancel at a level (R207, R355): whether that level of that id was live, and the state after it. -/
def State.cancel (s : State) (t : BitVec 4) (level : BitVec 2) (id : BitVec 32) : Bool × State :=
  if level == 0 then (if s.liveLaunch t id then (true, s.cancelLaunch t id) else (false, s))
  else
    let x := s.ten t
    if (x.ctr level id).isNone then (false, s)
    else
      let gs := x.graphsUnder level id
      (true, ((x.launches.filter (fun l => l.graph != 0 && gs.contains l.graph)).map (·.id)).foldl (fun s i => s.cancelLaunch t i) s)

/-! ## The completion tree (R205, R206) -/

/-- The entry of a launch in a completion table. -/
def compOf (l : List Comp) (t : BitVec 4) (id : BitVec 32) : Option Comp := l.find? (fun c => c.t == t && c.lnch == id)

/-- A count of a table changed by one. -/
def compStep (l : List Comp) (t : BitVec 4) (id : BitVec 32) (up : Bool) : List Comp :=
  l.map (fun c => if c.t == t && c.lnch == id then
    { c with count := if up then c.count + 1 else if c.count == 0 then 0 else c.count - 1 } else c)

/-- Is every store of a retired row performed at WAFER scope, and its PEND 0 (R205, R210)? (log entry 48, DEDUCED) -/
def State.settled (s : State) (k : RowKey) : Bool :=
  let r := s.row k
  let f := fieldOfSite (s.siteOf k)
  r.pend == 0 && (s.inFlight k).isEmpty &&
    (List.range 12).all (fun g => covers (s.field g).fav (s.releaseVec k f))

/-- RETIREMENT_COUNT (R205, R208, R210): once the stores of retired row `sel.k` have performed, its join word goes down by a
release, and SHARE of its counting column goes down (log entry 48, DEDUCED). -/
def execRetirementCount (s : State) : Host.Outcome State Fault Refusal :=
  match s.retires[s.sel.k]? with
  | none => .next s
  | some x =>
    let site := s.siteOf x.row
    let s' := s.releaseFar site
    if !s'.settled x.row || !s'.departRoom (fieldOfSite site) then .next s'
    else
      let vec := s'.releaseVec x.row (fieldOfSite site)
      let join : Res Unit :=
        if x.join == 0 then .ok () s'
        else
          match s'.check ⟨x.row.t, x.sup, site, true, none⟩ .atom (addr48 x.join) 8 with
          | .ok (.dram pa, attr) s => .ok () (s.unitRed x.row site (pa, keepOf attr CacheHint.none) (BitVec.allOnes 64) (some vec))
          | .stall => .stall
          | .miss va => .miss va
          | _ => .ok () s'
      match join with
      | .ok _ s =>
        let s : State := { s with retires := s.retires.eraseIdx s.sel.k }
        let c := s.col x.site.toNat
        .next (s.setCol x.site.toNat { c with comp := compStep c.comp x.row.t x.lnch false })
      | _ => .next s'

/-- COLUMN_REPORT (R205): SHARE of tenant `sel.t`'s launch `sel.lnch` at column `sel.site` is 0: event KIND 1, the field's
COLS goes down, the entry is free. -/
def execColumnReport (s : State) : Host.Outcome State Fault Refusal :=
  let site := s.sel.site
  let t := s.sel.t
  let id := s.sel.lnch
  let c := s.col site.toNat
  match compOf c.comp t id with
  | none => .next s
  | some e =>
    if e.count != 0 then .next s
    else
      let s := s.setCol site.toNat { c with comp := c.comp.filter (fun x => !(x.t == t && x.lnch == id)) }
      let s := s.fieldEvent 1 t site id
      let f := fieldOfSite site.toNat
      let x := s.field f
      let l := compStep x.comp t id false
      .next (s.setField f { x with comp := if e.cancelled then markCancelled t id l else l })

/-- FIELD_REPORT (R205): COLS of field `sel.field` is 0: FIELDS goes down; at 0 the launch is complete
(log entry 46, DEDUCED). -/
def execFieldReport (s : State) : Host.Outcome State Fault Refusal :=
  let f := s.sel.field.toNat
  let t := s.sel.t
  let id := s.sel.lnch
  let x := s.field f
  match compOf x.comp t id with
  | none => .next s
  | some e =>
    if e.count != 0 then .next s
    else
      let s := s.setField f { x with comp := x.comp.filter (fun y => !(y.t == t && y.lnch == id)) }
      let l := compStep s.wcomp t id false
      let l := if e.cancelled then markCancelled t id l else l
      match compOf l t id with
      | some w =>
        if w.count == 0 then
          let s : State := { s with wcomp := l.filter (fun y => !(y.t == t && y.lnch == id)) }
          .next (s.launchDone t id)
        else .next { s with wcomp := l }
      | none => .next { s with wcomp := l }

end Sys2Proof.Machine
end

