-- ==== Sys2Proof/Machine/Control.lean ====
section
/-! DEFINITION. Control transfer (R49, R291-R294): each target is computed modulo 2^32 and checked when it is fetched. -/

namespace Sys2Proof.Machine

/-- The target of a displacement in words from the word's own address (R49). -/
def State.displaced {k : Nat} (s : State) (d : BitVec k) : BitVec 32 := s.target + sext 32 d * 4

/-- BR: transfer when the predicate is 1 (R291). -/
def execBr (p : BitVec 3) (d : BitVec 22) (s : State) : Host.Outcome State Fault Refusal :=
  wordAlways s fun s => if (s.me).rp p then s.goto (s.displaced d) else s.advance

/-- BRN: transfer when the predicate is 0 (R291). -/
def execBrn (p : BitVec 3) (d : BitVec 22) (s : State) : Host.Outcome State Fault Refusal :=
  wordAlways s fun s => if (s.me).rp p then s.advance else s.goto (s.displaced d)

/-- The link register g63 (R292). -/
def linkReg : BitVec 6 := 63

/-- A call: g63 takes the address after the word, and the row transfers (R292). -/
def State.doCall (s : State) (d : BitVec 22) : State :=
  (s.setMe ((s.me).wg linkReg (s.after.setWidth 64))).goto (s.displaced d)

/-- CALL (R292). -/
def execCall (p : BitVec 3) (d : BitVec 22) (s : State) : Host.Outcome State Fault Refusal :=
  wordAlways s fun s => if (s.me).rp p then s.doCall d else s.advance

/-- CALLN (R292). -/
def execCalln (p : BitVec 3) (d : BitVec 22) (s : State) : Host.Outcome State Fault Refusal :=
  wordAlways s fun s => if (s.me).rp p then s.advance else s.doCall d

/-- The transfer of JR and RET to a register's low word: a misaligned target raises ALIGN, with no link written and the PC
on the group; ADDR holds the target (R61, R293, R433). -/
def State.jump (s : State) (link : BitVec 6) (target : DWord) : State :=
  let t := bits target 0 32
  if bits t 0 2 != 0 then s.raise (Flt.align (t.setWidth 64) false)
  else (s.setMe ((s.me).wg link (s.after.setWidth 64))).goto t

/-- JR: the target is the old value where link and target are one register (R293). -/
def execJr (d a : BitVec 6) (p : BitVec 3) (s : State) : Host.Outcome State Fault Refusal :=
  word s p fun s => s.jump d ((s.me).rg a)

/-- RET: a jump to g63 without a link (R293). -/
def execRet (p : BitVec 3) (s : State) : Host.Outcome State Fault Refusal :=
  word s p fun s => s.jump 0 ((s.me).rg linkReg)

/-- LOOP: the counter falls by one, wrapping; the row transfers while it is not 0 (R294). -/
def execLoop (c : BitVec 6) (i : BitVec 17) (p : BitVec 3) (s : State) : Host.Outcome State Fault Refusal :=
  word s p fun s =>
    let n := (s.me).rg c - 1
    let s' := s.setMe ((s.me).wg c n)
    if n != 0 then s'.goto (s.displaced i) else s'.advance

end Sys2Proof.Machine
end

