-- ==== Sys2Proof/Machine/Maint.lean ====
section
/-! DEFINITION. Cache, TLB, code-boundary and way-partition maintenance, and the bounded wait (R383-R396). -/

namespace Sys2Proof.Machine

/-- Is a physical address, or the offset of a control-window page, outside DRAM slots 0-959 and the decode apertures (R104,
R383)? -/
def noLine (pa : Nat) (attr : Attr) : Bool :=
  attr.cw || !(paSlot pa < 960 || (1024 ≤ paSlot pa && paSlot pa < 1792))

/-- The line that a maintenance instruction names, none outside DRAM slots and apertures: the translation faults of R301, and
the faults of an address there that names nothing (R104, R111, R127); no other refusal (R383). -/
def State.maintLine (s : State) (use : Use) (va : DWord) : Res (Option Nat) :=
  (s.translate s.who use.write va).bind fun (pa, attr) s =>
    if noLine pa attr then .ok none s
    else
      match s.locate s.who pa attr with
      | .error n => .fault (Flt.page (BitVec.ofNat 8 n) va use.write)
      | .ok _ => if s.earlyMeets s.cur (va &&& ~~~0xFF#64) 256 then .stall else .ok (some (pa / 256)) s

/-- The home span cache's copy of a line is written to DRAM and stays valid (R383). -/
def State.cleanSpan (s : State) (line : Nat) : State :=
  let i := homeSpan (256 * line)
  s.setSpan i { s.span i with lines := (s.span i).lines.map (fun l => if l.line == line then { l with dirty := false } else l) }

/-- CFLUSH: the line's dirty sectors in the column's cache are written back and it stays; to DRAM, the home's copy too
(R383). -/
def execCflush (a : BitVec 6) (l : BitVec 1) (p : BitVec 3) (s : State) : Host.Outcome State Fault Refusal :=
  word s p fun s =>
    s.ends (s.maintLine .load ((s.me).rg a)) fun x s =>
      match x with
      | none => s.advance
      | some n =>
        let s := s.cleanLine s.here n
        (if l == 1 then s.cleanSpan n else s).advance

/-- CINV: the line in the column's cache ends, its dirty bytes discarded (R383). -/
def execCinv (a : BitVec 6) (p : BitVec 3) (s : State) : Host.Outcome State Fault Refusal :=
  word s p fun s =>
    s.ends (s.maintLine .store ((s.me).rg a)) fun x s =>
      match x with
      | none => s.advance
      | some n => (s.setCol s.here ((s.col s.here).dropLine n)).advance

/-- CZERO: eight sectors of zeros stored to the line; its translation is complete before it leaves (R383). The
ADDR of its fault is the address of the sector that faults, of the line's first one where the page does; CFLUSH and CINV, which
translate the address as it stands, report that (log entry 99, DESIGN CHOICE). -/
def execCzero (a : BitVec 6) (p : BitVec 3) (s : State) : Host.Outcome State Fault Refusal :=
  word s p fun s =>
    let va := (s.me).rg a
    let base := va &&& ~~~0xFF#64
    let sector := fun (j : Nat) => base + BitVec.ofNat 64 (32 * j)
    let checked : Res (List (Loc × Attr)) :=
      (List.range 8).foldl (fun acc j => acc.bind fun ls s =>
        (s.access s.who .store (sector j) 32).bind fun (l, attr) s =>
          if s.earlyMeets s.cur (sector j) 32 || s.busyStore s.cur l 32 (s.ops + 1) then .stall
          else (s.fillWait l 32).bind fun _ s => .ok (ls ++ [(l, attr)]) s) (.ok [] s)
    s.ends checked fun ls s =>
      (ls.foldl (fun s (l, attr) =>
        s.storeAt s.who (s.agent va) l attr s.cache (List.replicate 32 0) (s.ops + 1)) s).advance

/-! ## TLBI (R390, R272) -/

/-- The columns of a tenant that a TLBI scope covers: 1 COLUMN, 2 FIELD, 3 WAFER (R390). -/
def State.tlbiCols (s : State) (scope : Nat) : List Nat :=
  if scope == 1 then [s.here]
  else
    ((s.ten s.cur.t).cols.map (·.toNat)).filter (fun c => scope == 3 || fieldOfSite c == s.myField)

/-- Does a TLB entry fall to a TLBI: an entry of the tenant, and for one page one that covers the address (R390)? -/
def tlbiHits (t : BitVec 4) (va : Option Nat) (e : TlbEntry) : Bool :=
  e.t == t && (match va with | none => true | some a => e.vbase ≤ a && a < e.vbase + 2 ^ e.lg)

/-- Does a TLBI cover an address of the tenant: any, or one in the page of its address by the present tables? -/
def State.tlbiCovers (s : State) (t : BitVec 4) (va : Option Nat) (b : Nat) : Bool :=
  match va with
  | none => true
  | some a => s.samePage t a b

/-- The jobs of the columns suspended on a covered address run on (R390, R371). -/
def State.resumeJobs (s : State) (t : BitVec 4) (va : Option Nat) (cols : List Nat) : State :=
  cols.foldl (fun s i =>
    s.setCol i { s.col i with jobs := (s.col i).jobs.map (fun j =>
      if j.st == .suspended && j.row.t == t && s.tlbiCovers t va (va48 j.faddr)
      then { j with st := .running } else j) }) s

/-- Is a walk that could fill a covered entry outstanding (R272)? -/
def State.walkCovered (s : State) (t : BitVec 4) (va : Option Nat) (cols : List Nat) : Bool :=
  s.spans.any (fun (_, x) => x.walks.any (fun w =>
    w.t == t && w.columns.any (fun x => cols.contains x.toNat) && s.tlbiCovers t va w.va))

/-- TLBI: every earlier store of the row is performed at WAFER scope first, every field having learnt of it, as for FENCE.WAFER (log
entry 59, DEDUCED); entries of the scope's columns end; the results
of covered walks outstanding are discarded, and the TLBI completes when they have ended (R390, R272). -/
def State.tlbi (s : State) (va : Option Nat) (scope : Nat) : State :=
  let s := if s.sending then s else ((s.col s.here).cache.map (·.line)).foldl (fun s l => s.cleanLine s.here l) s
  if s.sending || !(List.range 12).all (fun g => covers (s.field g).fav (s.releaseVec s.cur s.myField)) then s.abandonGroup
  else
    let t := s.cur.t
    let cols := s.tlbiCols scope
    let s := cols.foldl (fun s i =>
      s.setCol i { s.col i with tlb := (s.col i).tlb.filter (fun e => !tlbiHits t va e) }) s
    if s.walkCovered t va cols then
      let hit : Walk → Bool := fun w => w.t == t && w.columns.any (fun x => cols.contains x.toNat) && s.tlbiCovers t va w.va
      let s : State := { s with
        spans := s.spans.map (fun (i, x) =>
          (i, { x with walks := x.walks.map (fun w => if hit w then { w with dropped := true } else w) }))
        tlbis := s.tlbis ++ [⟨s.cur, va, BitVec.ofNat 3 scope, s.seat.site⟩] }
      s.awaitAnswer
    else (s.resumeJobs t va cols).advance

/-- TLBI of one page (R390). -/
def execTlbi (a : BitVec 6) (sc p : BitVec 3) (s : State) : Host.Outcome State Fault Refusal :=
  word s p fun s => s.tlbi (some (va48 ((s.me).rg a))) sc.toNat

/-- TLBI ALL (R390). -/
def execTlbiAll (sc p : BitVec 3) (s : State) : Host.Outcome State Fault Refusal :=
  word s p fun s => s.tlbi none sc.toNat

/-! ## XBSET, WAYSET, WFX (R392-R396) -/

/-- Is the value a boundary XB may take (R62)? -/
def xbOk (v : DWord) : Bool := v.toNat % 256 == 0 && 0x1000 ≤ v.toNat && v.toNat ≤ 0x10000

/-- Does a store of a row that waits for its walk lead to the code-store window of its column, by the present tables? -/
def State.earlyCode (s : State) (k : RowKey) (e : EarlyStore) : Bool :=
  match s.walk k.t (va48 e.va) with
  | .ok x =>
    (match s.locate ⟨k.t, e.sup, s.here, true, none⟩ (x.frame + va48 e.va % 2 ^ x.lg) x.attr with | .ok (.code _) => true | _ => false)
  | .error _ => false

/-- Is a store of a row of the issuing row's column to the code-store window still on its way: one that waits for its walk, or a
release to the window that is parked (R392)? -/
def State.codeStores (s : State) : Bool :=
  s.rows.any (fun (i, _) =>
    let k := RowKey.ofKey i
    (s.dir k).site == s.seat.site && (s.row k).early.any (s.earlyCode k)) ||
    s.parked.any (fun p => p.site == s.seat.site && (match p.loc with | .code _ => true | _ => false))

/-- XBSET, open to user rows; the earlier stores of the column's rows to the code store complete first (R269, R392). -/
def execXbset (g : BitVec 6) (p : BitVec 3) (s : State) : Host.Outcome State Fault Refusal :=
  word s p fun s =>
    let v := (s.me).rg g
    if !xbOk v then s.raise (badValue v)
    else if s.codeStores then s.abandonGroup
    else (s.setCol s.here { s.col s.here with xb := bits v 0 17 }).advance

/-- Does a column of the span belong to another tenant (R394)? -/
def State.spanShared (s : State) (i : Nat) (t : BitVec 4) : Bool :=
  s.cols.any (fun (site, c) => spanOfSite site == i && (match c.owner with | some o => o != t | none => false))

/-- WAYSET: the transition starts and is not waited for; refused while one is in progress (R394). -/
def execWayset (q : BitVec 3) (g : BitVec 6) (p : BitVec 3) (s : State) : Host.Outcome State Fault Refusal :=
  word s p fun s =>
    let v := (s.me).rg g
    let i := spanOfSite s.here
    let x := s.span i
    if 15 < v.toNat then s.raise (badValue v)
    else if s.spanShared i s.cur.t then s.raise ⟨0x07, 0, 0, false, 0⟩
    else if x.trans.isSome then s.finish ((s.me).wp q false)
    else (s.setSpan i ({ x with trans := some (bits v 0 4), transRow := none } : Span).trim).finish ((s.me).wp q true)

/-- Has some monitor of the row fired: a line with ARMED = 0 (R328, R396)? -/
def Row.monFired (r : Row) : Bool := r.mon.any (fun m => m.line != 0 && !m.armed)

/-- Has the row no monitor with a line? -/
def Row.monNone (r : Row) : Bool := r.mon.all (fun m => m.line == 0)

/-- WFX: until a monitor has fired, or the column's counter reaches the deadline (R396). -/
def execWfx (d t : BitVec 6) (p : BitVec 3) (s : State) : Host.Outcome State Fault Refusal :=
  word s p fun s =>
    let r := s.me
    let dl := r.rg t
    if r.monFired then s.finish (r.wg d 1)
    else if (dl != 0 && dl.ule (s.timeAt s.here)) || (r.monNone && dl == 0) then s.finish (r.wg d 0)
    else s.waitRow { r with deadline := if dl == 0 then none else some dl } 1

end Sys2Proof.Machine
end

