-- ==== Sys2Proof/Machine/Rows.lean ====
section
/-! DEFINITION. The ROW group (R319-R334): YIELD, CLOSE, HALT, monitors, SPAWN, MIGR and STEPX. -/

namespace Sys2Proof.Machine

/-! ## YIELD, CLOSE, HALT (R320, R322) -/

/-- YIELD: the row closes and stays READY where another could take its slot or its subarray group (R320). -/
def execYield (p : BitVec 3) (s : State) : Host.Outcome State Fault Refusal :=
  word s p fun s =>
    let go := s.couldTake s.cur
    let s := s.advance
    if go then s.closeReady s.cur 7 else s

/-- CLOSE (R320). -/
def execClose (p : BitVec 3) (s : State) : Host.Outcome State Fault Refusal :=
  word s p fun s => s.advance.closeReady s.cur 0

/-- HOLD_HANDLE with an address (R164, R433). -/
def Flt.hold (addr : DWord) : Flt := ⟨0x09, 0, addr, false, 0⟩

/-- The earliest pending job fault of a row, by acceptance order (R268). -/
def Row.pendingFault (r : Row) : Option (Ticket × FaultInfo) := r.tickets.findSome? (fun t => t.fault.map (fun f => (t, f)))

/-- A pending job fault reported: it is consumed, and taken with CPC and the row's PROG replaced (R266, R268). -/
def State.reportJob (s : State) (t : Ticket) (i : FaultInfo) (cpc : BitVec 32) : State :=
  let r := s.me
  ((s.setMe { r with tickets := r.tickets.filter (fun x => x != t) }).takeFault? s.cur
    { i with cpc := cpc, defer := true }).getD s.abandonGroup

/-- HALT (R322): a place forbids it; an incomplete job closes the row; a pending job fault is reported; PEND and early
stores are waited for; then the row retires, and what stands behind a faulted store is discarded (R240). -/
def execHalt (p : BitVec 3) (s : State) : Host.Outcome State Fault Refusal :=
  word s p fun s =>
    let r := s.me
    if !(s.placeSpans s.cur).isEmpty then s.raise (Flt.hold 0)
    else if r.jobRunning then s.waitRow { r with jobWait := none } 3
    else
      match r.pendingFault with
      | some (t, i) => s.reportJob t i s.group
      | none =>
        if r.pend != 0 || !r.early.isEmpty then s.abandonGroup
        else (((s.dropReplay s.cur).beginClose s.cur).retireRow s.cur).dropRun

/-! ## Monitors (R324-R328) -/

/-- PAGE, subcode attribute: an address outside DRAM slots 0-959 where the entry asks for them. -/
def dramOnly (va : DWord) (write : Bool) (l : Loc) : Except Flt Nat :=
  match l with
  | .dram pa => .ok pa
  | _ => .error (Flt.page 3 va write)

/-- The monitor that ARM takes: the one that holds the line, else the lowest without a line (R324). -/
def Row.monFor (r : Row) (line : BitVec 40) : Option (Fin 4) :=
  match (List.finRange 4).find? (fun i => r.mon[i].line == line) with
  | some i => some i
  | none => (List.finRange 4).find? (fun i => r.mon[i].line == 0)

/-- The firings of a row's monitors `k` that are on their way are withdrawn: the monitor that they would fire is gone (R326, R330). -/
def State.withdraw (s : State) (x : RowKey) (k : Nat → Bool) : State :=
  { s with fires := s.fires.filter (fun f => !(f.row == x && k f.k.toNat)) }

/-- ARM (R324). A write before the registration fires no monitor registered anew (R330). -/
def execArm (q : BitVec 3) (a : BitVec 6) (p : BitVec 3) (s : State) : Host.Outcome State Fault Refusal :=
  word s p fun s =>
    let va := (s.me).rg a
    s.ends (s.check s.who .load va 1) fun (l, _) s =>
      match dramOnly va false l with
      | .error f => s.raise f
      | .ok pa =>
        let r := s.me
        let line := bits va 8 40
        match r.monFor line with
        | none => s.finish (r.wp q false)
        | some i => (s.withdraw s.cur (· == i.val)).finish ({ r with mon := r.mon.set i ⟨line, true⟩, monPa := r.monPa.set i (pa / 256) }.wp q true)

/-- DISARM: one monitor, or all (k = 4), cleared whole and withdrawn (R326). -/
def execDisarm (k : BitVec 6) (p : BitVec 3) (s : State) : Host.Outcome State Fault Refusal :=
  word s p fun s =>
    let r := s.me
    (s.withdraw s.cur (fun j => k.toNat == 4 || k.toNat == j)).finish { r with
      mon := Vector.ofFn (fun (i : Fin 4) => if k.toNat == 4 || k.toNat == i.val then ⟨0, false⟩ else r.mon[i])
      monPa := Vector.ofFn (fun (i : Fin 4) => if k.toNat == 4 || k.toNat == i.val then 0 else r.monPa[i]) }

/-- Is the firing of a monitor that the issuing row still has armed on its way (R324)? -/
def State.firing (s : State) : Bool :=
  s.fires.any (fun f => f.row == s.cur && ((s.me).mon[f.k.toNat]).armed && ((s.me).mon[f.k.toNat]).line == f.line)

/-- WAITM: at once where no monitor has a line or one has fired, be its firing still on its way (R330); else the row waits
(R328). -/
def execWaitm (p : BitVec 3) (s : State) : Host.Outcome State Fault Refusal :=
  word s p fun s => if (s.me).monNone || (s.me).monFired || s.firing then s.advance else s.waitRow s.me 1

/-! ## SPAWN (R330) -/

/-- g1 to g8 as read at issue. -/
def Row.spawnArgs (r : Row) : List DWord := (List.range 8).map (fun i => r.rg (BitVec.ofNat 6 (i + 1)))

/-- The spawn message leaves, and the row awaits its answer. The message carries the vector of the release that its
acceptance is (R224, R330). -/
def State.sendSpawn (s : State) (q : BitVec 3) (pc : BitVec 32) (join : DWord) (target : BitVec 10) : State :=
  let s := s.releaseFar s.here
  let r := s.me
  let m : SpawnMsg := ⟨s.cur, s.after, s.ops + 1, pc &&& ~~~3#32, s.cur.t, r.countCol, r.launch, bits join 0 48, r.spawnArgs,
    s.releaseVec s.cur s.myField, r.predid, target, q, false⟩
  { s with spawns := s.spawns ++ [m], ops := s.ops + 1 }.awaitAnswer

/-- SPAWN (R330). -/
def execSpawn (q : BitVec 3) (c j : BitVec 6) (p : BitVec 3) (s : State) : Host.Outcome State Fault Refusal :=
  word s p fun s =>
    let v := (s.me).rg c
    let join : DWord := if j == 0 then 0 else (s.me).rg j
    let checked : Res Unit :=
      if j == 0 then .ok () s
      else (s.check s.who .atom join 8).bind fun (l, _) s =>
        match dramOnly join true l with
        | .error f => .fault f
        | .ok _ => .ok () s
    s.ends checked fun _ s =>
      let grid := s.gridOf s.cur
      let idx := (bits v 32 16).toNat
      if bit v 48 then s.sendSpawn q (bits v 0 32) join s.seat.site
      else if grid.length ≤ idx then s.finish ((s.me).wp q false)
      else s.sendSpawn q (bits v 0 32) join (grid.getD idx 0)

/-! ## MIGR (R332) -/

/-- MIGR: to the column of a DRAM address; to its own, nothing moves, once PEND is 0 (R210, R332, R258). -/
def execMigr (a : BitVec 6) (p : BitVec 3) (s : State) : Host.Outcome State Fault Refusal :=
  word s p fun s =>
    let va := (s.me).rg a
    s.ends (s.check s.who .load va 1) fun (l, _) s =>
      match dramOnly va false l with
      | .error f => s.raise f
      | .ok pa => if paSlot pa == s.here then (if (s.me).pend == 0 then s.advance else s.abandonGroup) else s.startMove (paSlot pa) s.after

/-! ## STEPX (R334) -/

/-- STEPX: CMD 5 to a row of the tenant; the row waits in its slot for the answer (R334, R233) (log entry 41, DEDUCED). -/
def execStepx (d g : BitVec 6) (p : BitVec 3) (s : State) : Host.Outcome State Fault Refusal :=
  word s p fun s =>
    let id := bits ((s.me).rg g) 0 32
    let k : RowKey := ⟨s.cur.t, id⟩
    let r := s.row k
    if !s.held k then s.raise (Flt.page 3 (id.setWidth 64) false)
    else if s.sending then s.abandonGroup
    else if r.st == .moving then
      ((s.setRow k { r with held := r.held ++ [.step], stepper := some (s.cur, d) }).awaitAnswer)
    else if s.inTransit k || r.stepper.isSome then s.abandonGroup
    else if r.st == .stopped then
      let s := s.releaseFar s.here
      let s := s.resumeAcquire k (s.releaseVec s.cur s.myField)
      let s := s.command k .step
      (s.setRow k { s.row k with stepper := some (s.cur, d) }).awaitAnswer
    else s.finish ((s.me).wg d (stepResult r false))

end Sys2Proof.Machine
end

