-- ==== Sys2Proof/Machine/Hold.lean ====
section
/-! DEFINITION. Hold queues and place handles (R149-R169, R426-R430): the operations of the home on hold words and place
records, the eight HOLD instructions, and the events of abandonment and wake-up. -/

namespace Sys2Proof.Machine

/-! ## Handles and records (R151-R153) -/

/-- The span of a handle (R152). -/
def handleSpan (h : BitVec 32) : Nat := (bits h 25 7).toNat

/-- The pool index of a handle. -/
def handleIndex (h : BitVec 32) : Nat := (bits h 9 16).toNat

/-- The handle of a record (R152). -/
def handleOf (span i : Nat) (p : Place) : BitVec 32 := BitVec.ofNat 7 span ++ BitVec.ofNat 16 i ++ p.gen

/-- A place record. -/
def State.place_ (s : State) (span i : Nat) : Place := NMap.get Place.reset (s.span span).pool i

/-- The state with a place record replaced. -/
def State.setPlace (s : State) (span i : Nat) (p : Place) : State :=
  let x := s.span span
  s.setSpan span { x with pool := NMap.set x.pool i p }

/-- The record that a handle names for a tenant, where the handle is current (R153). -/
def State.resolve (s : State) (t : BitVec 4) (h : BitVec 32) : Option Place :=
  let p := s.place_ (handleSpan h) (handleIndex h)
  if handleSpan h < 96 && handleIndex h != 0xFFFF && p.st != 0 && p.gen == bits h 0 9 && p.tenant == t then some p else none

/-- A record freed (R152, R155). -/
def Place.free (p : Place) : Place :=
  { p with gen := if p.gen == 511 then 1 else p.gen + 1, st := 0, prev := 0xFFFF, next := 0xFFFF }

/-- The lowest free index from `i` on, of a pool whose records are listed in rising order (R154). -/
def lowestFree : NMap Place → Nat → Nat
  | [], i => i
  | (k, p) :: l, i => if k == i && p.st != 0 then lowestFree l (i + 1) else if k < i then lowestFree l i else i

/-! ## The hold word (R149) -/

/-- Bytes 0x00-0x0F of a hold word. -/
structure HoldWord where
  head : BitVec 32
  tail : BitVec 32
  live : BitVec 16
  forfeit : Bool
  claims : BitVec 32
  deriving DecidableEq, Repr

/-- The hold word at a physical address. -/
def State.holdWord (s : State) (pa : Nat) : HoldWord :=
  let w := s.mem32 (pa + 8)
  ⟨s.mem32 pa, s.mem32 (pa + 4), bits w 0 16, bit w 16, s.mem32 (pa + 12)⟩

/-- The 16 bytes of a hold word. -/
def HoldWord.bytes (w : HoldWord) : List Byte :=
  toBytes 4 w.head ++ toBytes 4 w.tail ++ toBytes 4 ((BitVec.ofBool w.forfeit ++ w.live).setWidth 32 : BitVec 32) ++ toBytes 4 w.claims

/-- The home writes its hold word: a write to the line as any other for monitors and joins (R324, R357). -/
def State.setHoldWord (s : State) (pa : Nat) (w : HoldWord) : State :=
  let s : State := { s with mem := s.mem.writeBytes pa w.bytes, poison := unpoison s.poison pa 16 }
  ((s.fireLine (pa / 256)).wakeJoins pa 16).touchHeld pa

/-- The dirty sectors of a hold word's line are merged before the home operates on it (R150). -/
def State.holdReady (s : State) (site pa : Nat) : State := (s.flushLine site (pa / 256)).recall (pa / 256) none

/-- The physical address of a record's hold word. -/
def Place.word (p : Place) : Nat := p.obj.toNat * 64

/-! ## Succession (R155, R156) -/

/-- Wake(r, h) on its way to the owner (R156). -/
def State.wakeOwner (s : State) (p : Place) (h : BitVec 32) : State :=
  { s with holdWakes := s.holdWakes ++ [⟨⟨p.tenant, p.owner⟩, h⟩] }

/-- The abandoned places from `n` on are freed; the first other place, 0xFFFF for none. -/
def State.skipAbandoned (s : State) (span : Nat) : (fuel n : Nat) → State × Nat
  | 0, n => (s, n)
  | fuel + 1, n =>
    if n == 0xFFFF then (s, n)
    else
      let p := s.place_ span n
      if p.st == 3 then (s.setPlace span n p.free).skipAbandoned span fuel p.next.toNat else (s, n)

/-- Succeed(w, p, forfeit) of R155, where record `i` of the span is the holder. -/
def State.succeed (s : State) (span i : Nat) (forfeit : Bool) : State :=
  let p := s.place_ span i
  let pa := p.word
  let (s, n) := (s.setPlace span i p.free).skipAbandoned span (1 + (s.span span).pool.length) p.next.toNat
  let w := s.holdWord pa
  if n == 0xFFFF then s.setHoldWord pa { w with head := 0, tail := 0, live := 0, forfeit := false }
  else
    let q := s.place_ span n
    let q : Place := { q with prev := 0xFFFF, st := 2 }
    let h := handleOf span n q
    ((s.setPlace span n q).setHoldWord pa { w with head := h, live := w.live - 1, forfeit := forfeit }).wakeOwner q h

/-- The succession of a release: its vector stays with the hold word, for the next owner's acquire (R158, R237). -/
def State.releaseHold (s : State) (h : BitVec 32) (vec : Vector (BitVec 32) 12) : State :=
  let p := s.place_ (handleSpan h) (handleIndex h)
  let s := s.succeed (handleSpan h) (handleIndex h) false
  { s with relvec := NMap.set s.relvec (p.word / 4) vec }

/-! ## What every HOLD instruction follows (R158, R163, R228) -/

/-- Operations of one row reach one home in issue order, and follow the abandonment of the row's places (R158, R159)
(log entry 49, DEDUCED). -/
def State.holdWaits (s : State) (span : Nat) : Bool :=
  s.owesAt s.cur span || s.abandons.any (fun x => x.row == s.cur)

/-- A handle resolved, and its operation performed at its home once the row's earlier ones are: `no` where it is not
current, else `f` of its record. -/
def State.onPlace (s : State) (h : BitVec 32) (no : State → State) (f : Place → State → State) : State :=
  if s.holdWaits (handleSpan h) then s.abandonGroup
  else
    match s.resolve s.cur.t h with
    | none => no s
    | some p => f p (s.holdReady s.here p.word)

/-- HOLD_HANDLE at the group (R164, R433). -/
def State.badHandle (s : State) (h : BitVec 32) : State := s.raise (Flt.hold (h.setWidth 64))

/-- Is the row the owner of a place (R153)? -/
def State.owns (s : State) (p : Place) : Bool := p.owner == (s.me).rowid

/-! ## HCLAIM (R164) -/

/-- A claim on the hold word at `pa` of a span: the handle, 0 where the pool is full. -/
def State.claim (s : State) (span pa : Nat) : BitVec 32 × State :=
  let w := s.holdWord pa
  let i := lowestFree (s.span span).pool 0
  if 0xFFFF ≤ i then (0, s)
  else
    let free := w.head == 0
    let p : Place := { s.place_ span i with
      owner := (s.me).rowid, tenant := s.cur.t, obj := BitVec.ofNat 38 (pa / 64), next := 0xFFFF
      st := if free then 2 else 1, prev := if free then 0xFFFF else bits w.tail 9 16 }
    let h := handleOf span i p
    let s := s.setPlace span i p
    let s := if free then s
      else s.setPlace span (handleIndex w.tail) { s.place_ span (handleIndex w.tail) with next := BitVec.ofNat 16 i }
    (h, s.setHoldWord pa { w with
      head := if free then h else w.head, forfeit := if free then false else w.forfeit
      tail := h, live := w.live + 1, claims := w.claims + 1 })

/-- Is a hold word corrupted or foreign: in use, and TAIL names no current place on it (R164)? -/
def State.foreign (s : State) (pa : Nat) : Bool :=
  let w := s.holdWord pa
  w.head != 0 &&
    (match s.resolve s.cur.t w.tail with
     | none => true
     | some p => p.word != pa)

/-- HCLAIM (R164). -/
def execHclaim (d a : BitVec 6) (q p : BitVec 3) (s : State) : Host.Outcome State Fault Refusal :=
  word s p fun s =>
    let va := (s.me).rg a
    s.ends (s.access s.who .fe va 64) fun (l, attr) s =>
      match l with
      | .dram pa =>
        let span := homeSpan pa
        if s.holdWaits span || s.earlyMeets s.cur va 16 || s.busyAt s.cur l 16 then s.abandonGroup
        else
          let s := s.holdReady s.here pa
          if s.homeBad pa 16 then s.raise (Flt.ecc 2 true)
          else if s.foreign pa then s.raise { Flt.hold va with write := true }
          else
            let (h, s) := s.claim span pa
            let s := (s.touchSpan pa (h != 0)).keepLine pa (keepOf attr s.cache)
            s.finish (((s.me).wg d (h.setWidth 64)).wp q (h != 0))
      | _ => s.raise (Flt.page 3 va true)

/-! ## HWAIT and HTEST (R166, R168) -/

/-- The acquire of an owner that finds its place HOLDER (R158, R237). -/
def State.holdAcquire (s : State) (p : Place) : State := (s.acquireFar s.here).acquireVec s.cur p.word 8

/-- HWAIT (R166). -/
def execHwait (g : BitVec 6) (p : BitVec 3) (s : State) : Host.Outcome State Fault Refusal :=
  word s p fun s =>
    let h := bits ((s.me).rg g) 0 32
    s.onPlace h (fun s => s.badHandle h) fun x s =>
      if !s.owns x || x.st == 3 then s.badHandle h
      else if s.releasing s.cur then s.abandonGroup
      else if x.st == 2 then (s.holdAcquire x).advance
      else s.waitRow { s.me with hold := h } 2

/-- HTEST (R168). -/
def execHtest (q : BitVec 3) (g : BitVec 6) (p : BitVec 3) (s : State) : Host.Outcome State Fault Refusal :=
  word s p fun s =>
    let h := bits ((s.me).rg g) 0 32
    s.onPlace h (fun s => s.finish ((s.me).wp q false)) fun x s =>
      if x.st != 2 then s.finish ((s.me).wp q false)
      else if !s.owns x then s.finish ((s.me).wp q true)
      else if s.releasing s.cur then s.abandonGroup
      else
        let s := s.holdAcquire x
        s.finish ((s.me).wp q true)

/-! ## HGIVE and HSWAP (R426, R427) -/

/-- May a row receive a place: not FREE, RETIRED or FAULTED (R426)? -/
def RowSt.takes (st : RowSt) : Bool :=
  match st with
  | .free => false
  | .retired => false
  | .faulted => false
  | _ => true

/-- The gift at the home: the predicate, and the state after it. `vec` is the vector of a holder's release (R158). -/
def State.giveHome (s : State) (t : BitVec 4) (h r : BitVec 32) (vec : Option (Vector (BitVec 32) 12)) : Bool × State :=
  if !(s.row ⟨t, r⟩).st.takes then (false, s)
  else
    let p : Place := { s.place_ (handleSpan h) (handleIndex h) with owner := r }
    let s := s.setPlace (handleSpan h) (handleIndex h) p
    match vec with
    | none => (true, s)
    | some v => (true, { s.wakeOwner p h with relvec := NMap.set s.relvec (p.word / 4) v })

/-- HGIVE (R426). -/
def State.give (s : State) (q : BitVec 3) (h r : BitVec 32) : State :=
  s.onPlace h (fun s => s.badHandle h) fun p s =>
    if !s.owns p || p.st == 3 || !s.held ⟨s.cur.t, r⟩ then s.badHandle h
    else if p.st == 1 then
      let (b, s) := s.giveHome s.cur.t h r none
      s.finish ((s.me).wp q b)
    else
      let s := s.releaseFar s.here
      let vec := some (s.releaseVec s.cur s.myField)
      if !s.mayRelease (handleSpan h / 8) vec then s.parkHome (handleSpan h) (.hgive h r q) 3 ⟨false, 0⟩ vec
      else
        let (b, s) := s.giveHome s.cur.t h r vec
        s.finish ((s.me).wp q b)

/-- The indices of an object's places from `n` on, in list order. -/
def State.listFrom (s : State) (span : Nat) : (fuel n : Nat) → List Nat
  | 0, _ => []
  | fuel + 1, n => if n == 0xFFFF then [] else n :: s.listFrom span fuel (s.place_ span n).next.toNat

/-- The whole list of a hold word, holder first (R155). -/
def State.places (s : State) (span pa : Nat) : List Nat :=
  let w := s.holdWord pa
  if w.head == 0 then [] else s.listFrom span (1 + (s.span span).pool.length) (handleIndex w.head)

/-- The records of a list linked in its order. -/
def State.relink (s : State) (span : Nat) : (prev : BitVec 16) → List Nat → State
  | _, [] => s
  | prev, i :: l =>
    let next : BitVec 16 := match l with | [] => 0xFFFF | j :: _ => BitVec.ofNat 16 j
    (s.setPlace span i { s.place_ span i with prev := prev, next := next }).relink span (BitVec.ofNat 16 i) l

/-- Two places exchange their positions (R427). -/
def State.swapPlaces (s : State) (span pa i j : Nat) : State :=
  let l := (s.places span pa).map (fun x => if x == i then j else if x == j then i else x)
  let s := s.relink span 0xFFFF l
  let w := s.holdWord pa
  match l.getLast? with
  | none => s
  | some k => s.setHoldWord pa { w with tail := handleOf span k (s.place_ span k) }

/-- HSWAP (R427). Of the two handles, the fault that R164 names reports the first, also where the second is a current handle of
another object (log entry 69, DESIGN CHOICE). -/
def State.swap (s : State) (q : BitVec 3) (h g : BitVec 32) : State :=
  s.onPlace h (fun s => s.badHandle h) fun p s =>
    let other := s.resolve s.cur.t g
    if !s.owns p then s.badHandle h
    else if (match other with | some o => handleSpan g != handleSpan h || o.obj != p.obj | none => false) then s.badHandle h
    else
      let span := handleSpan h
      let after := s.listFrom span (1 + (s.span span).pool.length) p.next.toNat
      let ok := p.st == 1 && (match other with | some o => o.st != 3 && after.contains (handleIndex g) | none => false)
      if ok then
        let s := s.swapPlaces span p.word (handleIndex h) (handleIndex g)
        s.finish ((s.me).wp q true)
      else s.finish ((s.me).wp q false)

/-- HGIVE (f = 0) and HSWAP (f = 1) (R426, R427). -/
def execHmove (f : BitVec 1) (q : BitVec 3) (h r : BitVec 6) (p : BitVec 3) (s : State) : Host.Outcome State Fault Refusal :=
  word s p fun s =>
    let x := bits ((s.me).rg h) 0 32
    let y := bits ((s.me).rg r) 0 32
    if f == 0 then s.give q x y else s.swap q x y

/-! ## HABAN and HREL (R428, R429) -/

/-- A waiting place abandoned (R428, R159). -/
def State.abandonWaiting (s : State) (span i : Nat) : State :=
  let p := s.place_ span i
  let w := s.holdWord p.word
  (s.setPlace span i { p with st := 3 }).setHoldWord p.word { w with live := w.live - 1 }

/-- HREL, and HABAN of a holder: the release of R158 and the succession. -/
def State.release (s : State) (h : BitVec 32) : State :=
  let s := s.releaseFar s.here
  let vec := s.releaseVec s.cur s.myField
  if !s.mayRelease (handleSpan h / 8) (some vec) then s.parkHome (handleSpan h) (.hrel h) 3 ⟨false, 0⟩ (some vec)
  else (s.releaseHold h vec).advance

/-- HABAN (f = 0) and HREL (f = 1) (R428, R429). -/
def execHend (f : BitVec 1) (g : BitVec 6) (p : BitVec 3) (s : State) : Host.Outcome State Fault Refusal :=
  word s p fun s =>
    let h := bits ((s.me).rg g) 0 32
    s.onPlace h (fun s => s.badHandle h) fun x s =>
      if !s.owns x then s.badHandle h
      else if x.st == 2 then s.release h
      else if f == 1 || x.st == 3 then s.badHandle h
      else (s.abandonWaiting (handleSpan h) (handleIndex h)).advance

/-! ## HINFO (R430) -/

/-- The information word of a place (R430). -/
def State.placeInfo (s : State) (h : BitVec 32) (p : Place) : DWord :=
  let span := handleSpan h
  let w := s.holdWord p.word
  let before := (s.places span p.word).takeWhile (· != handleIndex h)
  let ahead := (before.filter (fun i => (s.place_ span i).st != 3)).length
  (BitVec.ofBool (w.forfeit && p.st == 2) ++ (0#1 ++ p.st) ++ w.live ++ BitVec.ofNat 16 ahead).setWidth 64

/-- HINFO (R430). -/
def execHinfo (d g : BitVec 6) (p : BitVec 3) (s : State) : Host.Outcome State Fault Refusal :=
  word s p fun s =>
    let h := bits ((s.me).rg g) 0 32
    s.onPlace h (fun s => s.finish ((s.me).wg d 0)) fun x s => s.finish ((s.me).wg d (s.placeInfo h x))

/-! ## Events (R156, R159) -/

/-- WAKE (R156): wake-up `sel.k` reaches its row; for a MOVING row it is held until the row is placed. -/
def execWake (s : State) : Host.Outcome State Fault Refusal :=
  match s.holdWakes[s.sel.k]? with
  | none => .next s
  | some w =>
    let r := s.row w.row
    if r.st == .moving then .next s
    else
      let s : State := { s with holdWakes := s.holdWakes.eraseIdx s.sel.k }
      .next (if r.st == .waiting && r.waiton == 2 && r.hold == w.handle then s.wakeRow w.row else s)

/-- The indices of a row's places in a span, in a state. -/
def State.placesOf (s : State) (k : RowKey) (span : Nat) (st : BitVec 2) : List Nat :=
  ((s.span span).pool.filter (fun (_, p) => p.st == st && p.tenant == k.t && p.owner == k.n)).map (·.1)

/-- A killed or posted row's places of one span: waiting places are abandoned, holder places released with FORFEIT (R159), the
dirty sectors of each word's line being merged first (R150); that succession carries no release. -/
def State.abandonAt (s : State) (k : RowKey) (span : Nat) : State :=
  let site := s.siteOf k
  let s := (s.placesOf k span 1).foldl (fun s i => (s.holdReady site (s.place_ span i).word).abandonWaiting span i) s
  (s.placesOf k span 2).foldl (fun s i =>
    let pa := (s.place_ span i).word
    let s := (s.holdReady site pa).succeed span i true
    { s with relvec := s.relvec.filter (fun x => x.1 != pa / 4) }) s

/-- PLACE_ABANDONMENT (R159): abandonment `sel.k` reaches its home, after the row's earlier hold operations there; one that
waits behind a store that faulted is discarded (R240) (log entry 49, DEDUCED). An atomic or an STFE of the row that is parked there
stays (R267). -/
def execPlaceAbandonment (s : State) : Host.Outcome State Fault Refusal :=
  match s.abandons[s.sel.k]? with
  | none => .next s
  | some x =>
    let mine := fun (o : HomeOp) => o.row == x.row && o.home == x.span &&
      (match o.op with | .hgive _ _ _ => true | .hrel _ => true | .atom _ _ _ _ _ _ _ _ _ => false | .stfe _ _ _ => false)
    if (s.homeOps.filter mine).any (fun o => !s.stuck x.row o.seq) then .next s
    else
      let s := (s.homeOps.filter mine).foldl (fun s o => s.performed o.num) s
      let s : State := { s with
        abandons := s.abandons.eraseIdx s.sel.k
        homeOps := s.homeOps.filter (fun o => !mine o) }
      .next (s.abandonAt x.row x.span.toNat)

end Sys2Proof.Machine
end

