-- ==== Sys2Proof/Machine/Delivery.lean ====
section
/-! DEFINITION. What is in flight reaches its place: commands, outside stores, deferred faults, walks, reductions, home
operations, releases, notices and wake-ups. Each event acts on the item that `sel` names; where its rule does not hold,
nothing happens. -/

namespace Sys2Proof.Machine

/-- The row that `sel` names. -/
def State.selRow (s : State) : RowKey := ⟨s.sel.t, s.sel.n⟩

/-! ## Commands (R90, R110, R233) -/

/-- Does nothing reach the rows of a tenant any more, because it is being reset (R276)? -/
def State.deaf (s : State) (t : BitVec 4) : Bool := (s.ten t).st == .resetting

/-- Is the row in the middle of an activation or a close, for which outside accesses wait (R110)? -/
def State.slotMoves (s : State) (k : RowKey) : Bool :=
  match s.slotOf k with
  | some sl => sl.phase == .opening || sl.phase == .closing
  | none => false

/-- Does a command resume its target, as an acquire (R233)? -/
def Cmd.resumes (c : Cmd) : Bool :=
  match c with
  | .start => true
  | .redirect => true
  | .step => true
  | _ => false

/-- A command of the host or of a management core reaches row `sel.n` of tenant `sel.t`. -/
def State.commandEvent (s : State) (c : Cmd) : State :=
  let k := s.selRow
  if !s.held k || s.deaf k.t || s.slotMoves k then s
  else
    let s := s.outsideCommand k c
    if c.resumes then s.acquireFar (s.siteOf k) else s

/-- START (R90). -/
def execStart (s : State) : Host.Outcome State Fault Refusal := .next (s.commandEvent .start)

/-- STOP (R90). -/
def execStop (s : State) : Host.Outcome State Fault Refusal := .next (s.commandEvent .stop)

/-- REDIRECT (R90). -/
def execRedirect (s : State) : Host.Outcome State Fault Refusal := .next (s.commandEvent .redirect)

/-- KILL (R90). -/
def execKill (s : State) : Host.Outcome State Fault Refusal := .next (s.commandEvent .kill)

/-- STEP (R90). -/
def execStep (s : State) : Host.Outcome State Fault Refusal := .next (s.commandEvent .step)

/-! ## Outside stores (R87, R89, R109, R110, R233) -/

/-- A bit of VERR set, with the address of the access (R390) (log entry 18, DEDUCED). -/
def State.setVerr (s : State) (t : BitVec 4) (i : Nat) (addr : BitVec 64) : State :=
  let x := s.ten t
  s.setTen t { x with verr := setBit x.verr i true, verraddr := addr }

/-- A write that completes with an error (R388, R390): dropped, its VERR bit and VERRADDR set, the error message sent
(log entry 18, DEDUCED). -/
def State.writeError (s : State) (t : BitVec 4) (i : Nat) (addr : BitVec 64) : State :=
  { s.setVerr t i addr with hostErr := true }

/-- A refusal or a PAGE returns to the agent that stored: a row raises it later, the host's error bits take it (R89, R390). -/
def State.refuseStore (s : State) (x : Outside) (code sub : BitVec 8) : State :=
  match x.agent with
  | .row k ipc va => { s with refusedStores := s.refusedStores ++ [⟨k, code, sub, ipc, va⟩] }
  | .core => s
  | .host t =>
    let o := (if x.rcb then 128 * x.row.n.toNat else 2 ^ 39 + 2048 * x.row.n.toNat) + x.off
    s.writeError t (if code == 7 then 1 else 5) (BitVec.ofNat 64 o)

/-- What the words that a store of `n` bytes reaches hold of vectors: a release's own, else none where a word is overwritten whole
(R224); the words of the RCB follow those of the row's bytes. -/
def Row.carry (r : Row) (at_ n : Nat) (vec : Option (Vector (BitVec 32) 12)) : Row :=
  match vec with
  | some v => { r with vecs := ((List.range 544).filter (fun w => meets (4 * w) 4 at_ n)).foldl (fun m w => NMap.set m w v) r.vecs }
  | none => { r with vecs := r.vecs.filter (fun (w, _) => !(at_ ≤ 4 * w && 4 * w + 4 ≤ at_ + n)) }

/-- An outside store applied to its row: its bytes first, then its command (R90). -/
def State.applyOutside (s : State) (x : Outside) : State :=
  let k := x.row
  if !x.rcb then s.setRow k (((s.row k).outsideBytes x.off x.data).carry x.off x.data.length x.vec)
  else
    let s := (s.setRow k (((s.row k).rcbStore x.off x.data).carry (2048 + x.off) x.data.length x.vec)).moveBound k (s.row k).launch
    match cmdOf (storeCmd x.off x.data) with
    | none => s
    | some c =>
      let s := s.outsideCommand k c
      if !c.resumes then s
      else
        match x.vec, x.agent with
        | some v, _ => s.resumeAcquire k v
        | none, .row _ _ _ => s
        | none, _ => s.acquireFar (s.siteOf k)

/-- Does outside store `i` come next of its agent at its row (R233)? (log entry 52, DEDUCED) -/
def State.outsideFirst (s : State) (i : Nat) (x : Outside) : Bool :=
  !(s.outside.take i).any (fun y => y.row == x.row &&
    (match y.agent, x.agent with
     | .row a _ _, .row b _ _ => a == b
     | .core, .core => true
     | .host a, .host b => a == b
     | _, _ => false))

/-- May outside store `i` act: where it is a release of a row, it may become visible; a CMD store of the host or a core, a release,
comes behind every earlier store of its agent (R220, R225, R227, R233)? (log entry 52, DEDUCED) -/
def State.outsideMay (s : State) (i : Nat) (x : Outside) : Bool :=
  let cmd := x.rcb && storeCmd x.off x.data != 0
  match x.agent with
  | .row k _ _ => !x.rel || s.releasable k x.seq (fieldOfSite (s.siteOf k)) (fieldOfSite (s.siteOf x.row)) x.vec
  | _ => !(cmd && (s.outside.take i).any (fun y => y.agent == x.agent))

/-- Must an outside store wait for the boundary of the row it goes to: the row awaits an answer, stands inside a run of hints, or
inside a progressive group, which only a STOP or a KILL interrupts (R53, R87, R255)? -/
def State.midGroup (s : State) (x : Outside) : Bool :=
  let r := s.row x.row
  let breaks := x.rcb && (match cmdOf (storeCmd x.off x.data) with
    | some .stop => !r.holds .stop
    | some .kill => !r.holds .kill
    | _ => false)
  r.await.isSome || (s.insideGroup x.row && !breaks)

/-- The size and alignment that R110 admits of a host access through BAR2 (R390). -/
def hostSize (o n : Nat) : Bool := (n == 1 || n == 2 || n == 4 || n == 8 || n == 16) && aligned o n

/-- A host access through BAR2 of tenant `sel.t` (R390): `sel.acc` at its window offset, with supervisor right. A store leaves for
its row's port (R87); a load is answered. One that the window does not take completes with an error. A device whose boot has
halted does not answer (R404). -/
def State.hostWindow (s : State) : State :=
  let t := s.sel.t
  let a := s.sel.acc
  let o := a.hpa.toNat
  let n := if a.wr then a.data.length else a.size
  let bad := fun (s : State) (i : Nat) =>
    let s := s.writeError t i a.hpa
    if a.wr then s else { s with hostRead := List.replicate n 0 }
  let present := (s.ten t).st == .active || (s.ten t).st == .stopped
  if !s.bootLock then s
  else if s.deaf t then bad s 3
  else
    match windowLoc t o with
    | some (.rcb k off) =>
      if !hostSize o n || !present || !s.held k then bad s 5
      else if a.wr then { s with outside := s.outside ++ [⟨k, 0, false, true, off, a.data, .host t, true, none, none⟩] }
      else if s.inTransit k || s.betweenBoundaries k || s.outside.any (fun x => x.row == k && x.agent == .host t) then s
      else { s with hostRead := (s.row k).rcbBytes off n }
    | some (.rowSpace k off) =>
      if !hostSize o n || !present || !s.held k then bad s 5
      else if a.wr then { s with outside := s.outside ++ [⟨k, 0, false, false, off, a.data, .host t, true, none, none⟩] }
      else if s.inTransit k || s.betweenBoundaries k || s.outside.any (fun x => x.row == k && x.agent == .host t) then s
      else { s with hostRead := (s.row k).bytes off n }
    | _ => bad s 5

/-- Store `sel.k` reaches its row at an instruction boundary, behind the faults that are due there (R265). -/
def State.outsideArrives (s : State) : State :=
  match s.outside[s.sel.k]? with
  | none => s
  | some x =>
    let k := x.row
    let away := fun (s : State) => ({ s with outside := s.outside.eraseIdx s.sel.k } : State).performed x.num
    if !s.outsideFirst s.sel.k x || !s.outsideMay s.sel.k x then s
    else if s.deaf k.t then away s
    else if !s.held k then (away s).refuseStore x 5 3
    else if s.inTransit k || s.midGroup x then s
    else
      match s.faultsFirst k with
      | none => s
      | some s =>
        if x.rcb && (s.row k).rcbStoreRefused x.sup false x.off x.data then (away s).refuseStore x 7 0
        else (away s).applyOutside x

/-- OUTSIDE_STORE (R87, R89, R390): a store reaches its row, or (`sel.arr`) the host makes an access through BAR2. -/
def execOutsideStore (s : State) : Host.Outcome State Fault Refusal :=
  .next (if s.sel.arr then s.hostWindow else s.outsideArrives)

/-- A fault that reaches a row behind the group that caused it: the row raises it at its next boundary (R87, R240, R265)
(log entry 53, DEDUCED). -/
def State.deferFault (s : State) (k : RowKey) (i : FaultInfo) : State :=
  let r := s.row k
  if r.st == .free || r.st == .retired then s else s.setRow k { r with deferred := r.deferred ++ [i] }

/-- CONTROL_WINDOW_REFUSAL (R87, R89): refusal `sel.k` reaches the row that stored. -/
def execControlWindowRefusal (s : State) : Host.Outcome State Fault Refusal :=
  match s.refusedStores[s.sel.k]? with
  | none => .next s
  | some x =>
    let s : State := { s with refusedStores := s.refusedStores.eraseIdx s.sel.k }
    .next (s.deferFault x.row ⟨x.code, x.sub, classOf x.code, true, true, x.ipc, 0, x.va, 0, 0, 0⟩)

/-- The seat of a row in an open slot. -/
def State.seatOf (s : State) (k : RowKey) : Option Seat :=
  let d := s.dir k
  let e := s.executor d.site.toNat d.bank
  match e.find k with
  | none => none
  | some i =>
    match e.slots[i] with
    | some sl => if sl.phase == .open_ then some ⟨d.site, d.bank, BitVec.ofNat 3 i.val⟩ else none
    | none => none

/-- Does an open row await the answer of an operation that stands behind a faulted store of its own (R240)? -/
def State.awaitsStuck (s : State) (k : RowKey) : Bool :=
  (s.homeOps.filter (fun x => x.row == k)).any (fun x => s.stuck k x.seq) ||
    (s.pushes.filter (fun x => x.row == k)).any (fun x => s.stuck k x.seq) ||
    (s.spawns.filter (fun x => x.src == k)).any (fun x => s.stuck k x.seq)

/-- DEFERRED_STORE_FAULT (R240, R267): the row that `sel` names stands at a boundary with a fault that has reached it. A row
whose release waits behind the faulting store takes it while it awaits that answer (log entry 53, DEDUCED); one whose release waits
behind a store that waits for the row itself goes to its boundary, to make it (log entry 91, DEDUCED). -/
def execDeferredStoreFault (s : State) : Host.Outcome State Fault Refusal :=
  let k := s.selRow
  let r := s.row k
  if (s.seatOf k).isNone || r.st != .open_ || s.insideGroup k then .next s
  else
    match r.await with
    | none => .next (match s.takeDue k with | some s' => s'.boundary k | none => s)
    | some pc =>
      let s1 := s.setRow k { r with pc := pc, await := none }
      if (r.faultedStore.isNone && !r.early.any (·.due)) || !s.awaitsStuck k then .next s
      else .next (match s1.takeDue k with
        | some s' => s'.boundary k
        | none => if r.early.any (·.due) then s1 else s)

/-! ## The fault queue (R147, R392, R393) -/

/-- HEAD and TAIL of a ring (R392). -/
def State.ring (s : State) (base : Nat) : BitVec 32 × BitVec 32 := (s.mem32 base, s.mem32 (base + 8))

/-- Bytes written at their home by a management core. -/
def State.coreWrite (s : State) (pa : Nat) (data : List Byte) : State := (s.recall (pa / 256) none).homeWrite pa data true

/-- FAULT_QUEUE_APPEND (R147, R393): the oldest posting of tenant `sel.t` is appended and TAIL advanced, or waits where the
ring is full; without a ring it comes to nothing. -/
def execFaultQueueAppend (s : State) : Host.Outcome State Fault Refusal :=
  let t := s.sel.t
  let x := s.ten t
  match x.fqWait with
  | [] => .next s
  | rec_ :: rest =>
    let base := x.fqbase.toNat
    if base == 0 then .next (s.setTen t { x with fqWait := rest })
    else if x.fqFull then .next s
    else
      let s := s.merge (base / 256) none
      let (head, tail) := s.ring base
      if 1024 ≤ (tail - head).toNat then .next (s.setTen t { x with fqFull := true })
      else
        let s := s.setTen t { x with fqWait := rest }
        let s := s.coreWrite (base + 64 + 64 * (tail.toNat % 1024)) rec_
        .next (s.coreWrite (base + 8) (toBytes 4 (tail + 1)))

/-- FAULT_RING_HEAD_REREAD (R393): HEAD of tenant `sel.t`'s fault ring is read again while a posting waits. -/
def execFaultRingHeadReread (s : State) : Host.Outcome State Fault Refusal :=
  let t := s.sel.t
  let x := s.ten t
  let s := s.merge (x.fqbase.toNat / 256) none
  let (head, tail) := s.ring x.fqbase.toNat
  if x.fqFull && (tail - head).toNat < 1024 then .next (s.setTen t { x with fqFull := false }) else .next s

/-! ## Page walks (R178, R240, R267, R272) -/

/-- Has an early store joined a walk (R178)? -/
def EarlyStore.inPage (e : EarlyStore) (w : Walk) : Bool := e.page == w.va && !e.due

/-- The early stores of a row in a walk's page, in program order: each is performed or faults; one that must wait for a receive
window, or that a migrate-on-touch page of another column makes follow a move of the row, is left to the row's next boundary (R107,
R119, R302); a retired row does not move for it (log entry 91, DEDUCED). None where one must wait for another operation. -/
def State.finishStores (s : State) (k : RowKey) (w : Walk) (err : Option Nat) : List EarlyStore → Option State
  | [] => some s
  | e :: l =>
    if !e.inPage w then s.finishStores k w err l
    else
      match err with
      | some n =>
        let f := Flt.ofWalk n e.va true
        (s.storeFaults k e f.code f.sub).finishStores k w err l
      | none =>
        let r := s.row k
        let retired := r.st == .free || r.st == .retired
        let waits : Option State :=
          if retired then none
          else some (s.setRow k { r with early := r.early.map (fun x => if x.seq == e.seq then { x with due := true } else x) })
        match s.storeFor k e (!retired) with
        | .ok _ s' => (s'.setRow k { s'.row k with early := (s'.row k).early.erase e }).finishStores k w err l
        | .fault f => (s.storeFaults k e f.code f.sub).finishStores k w err l
        | .wait _ _ => waits.bind (fun s => s.finishStores k w err l)
        | .move _ => waits.bind (fun s => s.finishStores k w err l)
        | .stall => none
        | .miss _ => none

/-- The fault of a walk kept for one who has asked and still waits: the access raises it when it is tried again (R272). -/
def State.keepFault (s : State) (a : Asker) (va n : Nat) : State :=
  let keep (l : List (Nat × Nat)) : List (Nat × Nat) := l.filter (fun x => x.1 != va / 2 ^ 16) ++ [(va / 2 ^ 16, n)]
  if !s.asks a then s
  else
    match a with
    | .row k => s.setRow k { s.row k with walked := keep (s.row k).walked }
    | .job site id =>
      let c := s.col site.toNat
      s.setCol site.toNat { c with jobs := c.jobs.map (fun j => if j.id == id then { j with walked := keep j.walked } else j) }

/-- The result of a walk for the groups and jobs that wait for it (R178, R272): its translation goes to the TLBs of their columns;
its fault is kept for each that still waits. -/
def State.walkLoads (s : State) (w : Walk) (res : Except Nat TlbEntry) : State :=
  w.loads.foldl (fun s (a, site, va) =>
    match res with
    | .ok e =>
      if ((s.col site.toNat).tlbFind w.t va).isSome then s else s.setCol site.toNat ((s.col site.toNat).tlbFill e)
    | .error n => s.keepFault a va n) s

/-- PAGE_WALK_COMPLETE (R178, R179, R272): walk `sel.k` of span `sel.span` ends; every merged request takes its result, and fills
its column's TLB where the result does not fault. A request that must wait for another operation stays; the result of a walk
that a TLBI covers is discarded, and its requests walk again. -/
def execPageWalkComplete (s : State) : Host.Outcome State Fault Refusal :=
  let i := s.sel.span.toNat
  let x := s.span i
  match x.walks[s.sel.k]? with
  | none => .next s
  | some w =>
    if w.dropped then .next (s.setSpan i { x with walks := x.walks.eraseIdx s.sel.k ++ [{ w with dropped := false }] })
    else
      let err : Option Nat := match s.walk w.t w.va with | .ok _ => none | .error n => some n
      let s := (s.setSpan i { x with walks := x.walks.eraseIdx s.sel.k }).walkLoads w (s.walk w.t w.va)
      let (s, left) := w.rows.eraseDups.foldl (fun (acc : State × List RowKey) k =>
        match acc.1.finishStores k w err (acc.1.row k).early with
        | some s' => (s', acc.2)
        | none => (acc.1, acc.2 ++ [k])) (s, [])
      if left.isEmpty then .next s
      else
        let pairs := (w.rows.zip w.sites).filter (fun p => left.contains p.1)
        let y := s.span i
        .next (s.setSpan i { y with walks := y.walks ++ [{ w with rows := pairs.map (·.1), sites := pairs.map (·.2), loads := [] }] })

/-- TLBI_COMPLETE (R272, R390): every walk that TLBI `sel.k` covered has ended; its row goes on. -/
def execTlbiComplete (s : State) : Host.Outcome State Fault Refusal :=
  match s.tlbis[s.sel.k]? with
  | none => .next s
  | some x =>
    let t := x.row.t
    let here := x.site.toNat
    let cols : List Nat :=
      if x.scope == 1 then [here]
      else ((s.ten t).cols.map (·.toNat)).filter (fun c => x.scope == 3 || fieldOfSite c == fieldOfSite here)
    if s.spans.any (fun (_, y) => y.walks.any (fun w => w.dropped && w.t == t && w.columns.any (fun c => cols.contains c.toNat) && s.tlbiCovers t x.va w.va))
    then .next s
    else
      let s : State := { s with tlbis := s.tlbis.eraseIdx s.sel.k }
      .next ((s.resumeJobs t x.va cols).answer x.row id)

/-! ## Reductions (R210, R229) -/

/-- Does element `i` come next of its row at its home (R228)? -/
def State.redFirst (s : State) (i : Nat) (x : Red) : Bool :=
  !(s.reds.take i).any (fun y => y.row == x.row && y.counted == x.counted && y.span == x.span) &&
    !(x.counted && (s.row x.row).early.any (fun e => e.reduces && e.seq < x.seq)) &&
    !(x.counted && s.homeOps.any (fun y => y.row == x.row && y.home == x.span && y.seq < x.seq))

/-- May a reduction element become visible: as a release of its row, or of a unit, which carries its vector (R225)? -/
def State.redMay (s : State) (x : Red) : Bool :=
  let g := x.span.toNat / 8
  if !x.rel then true
  else if x.counted then s.releasable x.row x.seq (fieldOfSite (s.siteOf x.row)) g x.vec
  else match x.vec with | some v => covers (s.field g).fav v | none => true

/-- REDUCTION_PERFORM (R229): element `sel.k` performs at its home, a release once it may become visible (R225); the
acknowledgement is on its way. -/
def execReductionPerform (s : State) : Host.Outcome State Fault Refusal :=
  match s.reds[s.sel.k]? with
  | none => .next s
  | some x =>
    if !s.redMay x || !s.redFirst s.sel.k x then .next s
    else
      let s : State := { s with reds := s.reds.eraseIdx s.sel.k }
      let s := if x.scratch || !x.counted then s else s.flushLine (s.siteOf x.row) (x.pa / 256)
      let s :=
        if x.scratch then (s.rmwScratch x.span.toNat x.pa x.size x.op x.val 0).2
        else (s.rmwDram (paSlot x.pa) x.pa x.size x.op x.val 0 x.keep).2
      let s := match x.vec with | some v => if x.scratch then s else s.joinRelvec x.pa x.size v | none => s
      let s := s.performed x.num
      .next (if x.counted then { s with acks := s.acks ++ [x.row] } else s)

/-- REDUCTION_ACK (R210): acknowledgement `sel.k` reaches its row, whatever its state: PEND falls by one, never below 0. -/
def execReductionAck (s : State) : Host.Outcome State Fault Refusal :=
  match s.acks[s.sel.k]? with
  | none => .next s
  | some k =>
    let s : State := { s with acks := s.acks.eraseIdx s.sel.k }
    let r := s.row k
    .next (s.setRow k { r with pend := if r.pend == 0 then 0 else r.pend - 1 })

/-! ## Parked operations and releases (R225, R228, R240) -/

/-- May a home operation become visible (R220, R225, R240)? -/
def State.homeMay (s : State) (x : HomeOp) : Bool :=
  s.releasable x.row x.seq (fieldOfSite (s.siteOf x.row)) (x.home.toNat / 8) x.vec

/-- HOME_OPERATION (R228, R158): operation `sel.k`, parked at its home, is performed and answered; what the caches of the home's
field hold dirty of a hold word's line is merged first (R150). -/
def execHomeOperation (s : State) : Host.Outcome State Fault Refusal :=
  match s.homeOps[s.sel.k]? with
  | none => .next s
  | some x =>
    if !s.homeMay x then .next s
    else
      let s : State := { s with homeOps := s.homeOps.eraseIdx s.sel.k }
      let s := s.performed x.num
      let site := s.siteOf x.row
      let mine : BitVec 32 → Option Place := fun h =>
        match s.resolve x.row.t h with
        | some p => if p.owner == x.row.n && p.st == 2 then some p else none
        | none => none
      match x.op with
      | .atom op size scratch pa v new rd f32 acq =>
        let s := s.atomDo x.row site op size scratch pa v new rd f32 acq x.scope x.vec x.keep
        .next (s.answerAt x.row x.pc id)
      | .stfe pa v pd =>
        let (b, s) := s.stfeHome site pa v x.vec x.keep
        .next (s.answerAt x.row x.pc (fun r => r.wp pd b))
      | .hgive h r pd =>
        match mine h with
        | some p =>
          let (b, s) := (s.holdReady site p.word).giveHome x.row.t h r x.vec
          .next (s.answerAt x.row x.pc (fun r => r.wp pd b))
        | none => .next (s.answerAt x.row x.pc id)
      | .hrel h =>
        match mine h, x.vec with
        | some p, some v => .next (((s.holdReady site p.word).releaseHold h v).answerAt x.row x.pc id)
        | _, _ => .next (s.answerAt x.row x.pc id)

/-- PARKED_RELEASE_APPLY (R225): release `sel.k` joins the coherence order. -/
def execParkedReleaseApply (s : State) : Host.Outcome State Fault Refusal :=
  match s.parked[s.sel.k]? with
  | none => .next s
  | some x =>
    let f := fieldOfSite x.site.toNat
    if !s.releasable x.row x.seq f (x.loc.field f) x.vec then .next s
    else
      let s : State := { s with parked := s.parked.eraseIdx s.sel.k }
      .next ((s.applyRelease x.row x.site.toNat x.loc x.attr x.hint x.data x.vec false).performed x.num)

/-- PERFORMANCE_NOTICE (R99, R224): field `sel.k` learns how many writes of field `sel.field` have performed. -/
def execPerformanceNotice (s : State) : Host.Outcome State Fault Refusal :=
  let f := s.sel.field.toNat
  if h : f < 12 then
    if 12 ≤ s.sel.k then .next s
    else
      let x := s.field s.sel.k
      .next (s.setField s.sel.k { x with fav := x.fav.set f (s.field f).done })
  else .next s

/-- WRITE_BACK (R113, R270): the dirty sectors of line `sel.line` in column `sel.site`'s cache are written back. -/
def execWriteBack (s : State) : Host.Outcome State Fault Refusal :=
  .next (if s.departRoom (fieldOfSite s.sel.site.toNat) then s.cleanLine s.sel.site.toNat s.sel.line.toNat else s)

/-! ## Wake-ups (R315, R324, R396, R119) -/

/-- LDFE_ANSWER_WAKE (R315): answer `sel.k` reaches its row, which completes its LDFE, an acquire, and becomes READY behind
it; a STOP that came meanwhile acts now. Its column keeps no copy of the word's line
older than the value (R219). The answers of one word arrive in their order (R145, R231). For a MOVING row it waits
(log entry 47, DEDUCED). -/
def execLdfeAnswerWake (s : State) : Host.Outcome State Fault Refusal :=
  match s.ldfeAns[s.sel.k]? with
  | none => .next s
  | some x =>
    let r := s.row x.row
    if r.st == .moving || (s.ldfeAns.take s.sel.k).any (fun y => y.pa == x.pa) then .next s
    else
      let s : State := { s with ldfeAns := s.ldfeAns.eraseIdx s.sel.k }
      if r.st == .waiting && r.waiton == 4 then
        let s := s.setRow x.row { (r.wg x.rd x.value).wp x.pd true with pc := x.next }
        let s := match x.vec with
          | some v => s.joinDv x.row v
          | none => s
        let s := if 3 ≤ x.scope then s.acquireFar (s.siteOf x.row) else s.flushLine (s.siteOf x.row) (x.pa / 256)
        .next ((s.wakeRow x.row).boundary x.row)
      else .next s

/-- MONITOR_FIRE (R324, R328, R396): firing `sel.k` reaches its row: the monitor's ARMED bit clears, and a row that waits in
WAITM or WFX becomes READY. -/
def execMonitorFire (s : State) : Host.Outcome State Fault Refusal :=
  match s.fires[s.sel.k]? with
  | none => .next s
  | some x =>
    let s : State := { s with fires := s.fires.eraseIdx s.sel.k }
    let r := s.row x.row
    let m := r.mon[x.k.toNat]
    if !m.armed || m.line != x.line then .next s
    else
      let s := s.setRow x.row { r with mon := r.mon.set x.k.toNat { m with armed := false } }
      .next (if r.st == .waiting && r.waiton == 1 && r.joinw.isNone then s.wakeRow x.row else s)

/-- WFX_DEADLINE (R396): the column's counter has reached the deadline of the row that `sel` names. -/
def execWfxDeadline (s : State) : Host.Outcome State Fault Refusal :=
  let k := s.selRow
  let r := s.row k
  match r.deadline with
  | none => .next s
  | some d =>
    if r.st == .waiting && r.waiton == 1 && d.ule (s.timeAt (s.siteOf k)) then .next (s.wakeRow k) else .next s

/-- WINDOW_FILL_WAKE (R119): FILL has reached the end of the access that the row that `sel` names waits with. -/
def execWindowFillWake (s : State) : Host.Outcome State Fault Refusal :=
  let k := s.selRow
  let r := s.row k
  match r.fill with
  | none => .next s
  | some (w, e) =>
    if r.st == .waiting && r.waiton == 5 && e ≤ (s.col (s.siteOf k)).fillOf w then .next ((s.setRow k { r with fill := none }).wakeRow k)
    else .next s

end Sys2Proof.Machine
end

