-- ==== Sys2Proof/Machine/Launch.lean ====
section
/-! DEFINITION. Launches (R41, R247-R249, R259, R328, R329, R349-R357): LAUNCH, LHINT, WAITP, CANCEL, JOINW, placement, the
start of rows, successors and the wake-ups of WAITP and JOINW. -/

namespace Sys2Proof.Machine

/-! ## The launch record (R247) -/

/-- A 192-byte record's field at a byte offset. -/
def recField (r : List Byte) (off n : Nat) : Nat := bytesToNat ((r.drop off).take n)

/-- The register numbers of the initialisers (R247). -/
def recRegs (r : List Byte) : List Nat := (List.range 16).map (fun i => recField r (0x20 + i) 1)

/-- Are the register numbers of a record valid: 1-62 and no repeat below NINIT, 0 from there on? -/
def recRegsOk (r : List Byte) : Bool :=
  let n := recField r 0x10 1 % 32
  let used := (recRegs r).take n
  n ≤ 16 && used.all (fun x => 1 ≤ x && x ≤ 62) && used.Nodup && ((recRegs r).drop n).all (· == 0)

/-- Are the reserved bits of a record zero? -/
def recReservedOk (r : List Byte) : Bool :=
  recField r 0x10 1 < 32 && recField r 0x11 1 < 8 && recField r 0x1E 2 == 0 && recField r 0xB2 14 == 0

/-- The cells that fall on the fullest of `n` columns (R248). -/
def cellsPerColumn (cells n : Nat) : Nat := if n == 0 then cells else ceilDiv cells n

/-- GANG of a record. -/
def recGang (r : List Byte) : Bool := bit (BitVec.ofNat 8 (recField r 0x11 1)) 2

/-- Is a record accepted, for a partition of `n` columns (R247)? -/
def recOk (r : List Byte) (n : Nat) : Bool :=
  let w := recField r 0 2
  let h := recField r 2 2
  let entry := recField r 0x0C 4
  let succ := recField r 0x18 6
  w != 0 && h != 0 && recRegsOk r && recReservedOk r && !(recGang r && 8 < cellsPerColumn (w * h) n) &&
    0x1000 ≤ entry && entry % 256 == 0 && succ % 64 == 0

/-! ## LAUNCH (R349) -/

/-- A launch record read from DRAM for a tenant: 192 bytes translated as loads (R349). A row that reads it moves to it where its page
is migrate-on-touch (R107). -/
def State.recordAt (s : State) (w : Who) (va : DWord) : Res (List Byte) :=
  (List.range 6).foldl (fun acc j => acc.bind fun bs s =>
    let a := va + BitVec.ofNat 64 (32 * j)
    (if w.asker.isSome then s.access w .load a 1 else s.check w .load a 1).bind fun (l, attr) s =>
      match l with
      | .dram pa => (s.loadHome w.site pa 32 (keepOf attr CacheHint.none)).bind fun x s => .ok (bs ++ x) s
      | _ => .fault (Flt.page 3 a false)) (.ok [] s)

/-- A launch checked and accepted: its id and the state after it, or the REASON of its refusal (R247, R183, R397). It joins
the tenant's order, a successor ahead of the launches that wait (R259). -/
def State.submit (s : State) (t : BitVec 4) (record : List Byte) (sup : Bool) (predid : BitVec 32)
    (vec : Vector (BitVec 32) 12) : Except Nat (BitVec 32 × State) :=
  let x := s.ten t
  let graph := BitVec.ofNat 32 (recField record 0x14 4)
  if !recOk record x.cols.length then .error 1
  else if graph != 0 && !x.ctrTakes 1 graph then .error 2
  else
    match s.takeId t with
    | none => .error 2
    | some (id, s) =>
      let x := s.ten t
      let l : Launch := ⟨id, record, .waiting, false, predid, false, false, [], 0, [], sup, vec⟩
      let x := if graph == 0 then x else x.ctrUp 1 graph
      let i := if predid == 0 then x.launches.length
        else (x.launches.findIdx? (fun y => y.phase == .waiting)).getD x.launches.length
      .ok (id, s.setTen t { x with launches := x.launches.take i ++ [l] ++ x.launches.drop i })

/-- LAUNCH (R349). -/
def execLaunch (d a : BitVec 6) (q p : BitVec 3) (s : State) : Host.Outcome State Fault Refusal :=
  word s p fun s =>
    let va := (s.me).rg a
    if !aligned va.toNat 64 then s.raise (Flt.align va false)
    else if s.releaseWaits || s.earlyMeets s.cur va 192 then s.abandonGroup
    else
      s.ends (s.recordAt s.who va) fun record s =>
        let s := s.releaseFar s.here
        match s.submit s.cur.t record (s.me).priv 0 (s.releaseVec s.cur s.myField) with
        | .error _ => s.finish (((s.me).wg d 0).wp q false)
        | .ok (id, s) => s.finish (((s.me).wg d (id.setWidth 64)).wp q true)

/-! ## LHINT, WAITP, CANCEL, JOINW (R351-R357) -/

/-- LHINT: the first signal of a launch that has a successor lets it be issued (R351, R259) (log entry 65, DESIGN CHOICE). -/
def execLhint (p : BitVec 3) (s : State) : Host.Outcome State Fault Refusal :=
  word s p fun s =>
    let x := s.ten s.cur.t
    (s.setTen s.cur.t (x.modLaunch (s.me).launch (fun l => { l with hinted := l.hinted || l.succ != 0 }))).advance

/-- WAITP (R353, R259). -/
def execWaitp (sc p : BitVec 3) (s : State) : Host.Outcome State Fault Refusal :=
  word s p fun s =>
    let r := s.me
    if r.predid != 0 && s.liveLaunch s.cur.t r.predid then s.waitRow r 6
    else if s.releasing s.cur then s.abandonGroup
    else if 3 ≤ sc.toNat then ((s.joinDv s.cur (s.field s.myField).fav).acquireFar s.here).advance
    else s.advance

/-- CANCEL (R355). -/
def execCancel (d i : BitVec 6) (l : BitVec 2) (p : BitVec 3) (s : State) : Host.Outcome State Fault Refusal :=
  word s p fun s =>
    let id := bits ((s.me).rg i) 0 32
    let (live, s) := s.cancel s.cur.t l id
    s.finish ((s.me).wg d (if live then 1 else 0))

/-- JOINW (R357). -/
def execJoinw (j t : BitVec 6) (p : BitVec 3) (s : State) : Host.Outcome State Fault Refusal :=
  word s p fun s =>
    let va := (s.me).rg j
    s.ends (s.access s.who .load va 8) fun (l, attr) s =>
      match l with
      | .dram pa =>
        if s.earlyMeets s.cur va 8 || s.busyAt s.cur l 8 || s.releasing s.cur then s.abandonGroup
        else
          s.ends (s.loadHome s.here pa 8 (keepOf attr s.cache)) fun bs s =>
            if ofBytes 64 bs == (s.me).rg t then ((s.acquireFar s.here).acquireVec s.cur pa 8).advance
            else s.waitRow { s.me with joinw := some pa } 1
      | _ => s.raise (Flt.page 3 va false)

/-- WAITP_WAKE (R259): the predecessor of row `sel.n` of tenant `sel.t` is complete. -/
def execWaitpWake (s : State) : Host.Outcome State Fault Refusal :=
  let k : RowKey := ⟨s.sel.t, s.sel.n⟩
  let r := s.row k
  if r.st == .waiting && r.waiton == 6 && !s.liveLaunch k.t r.predid then .next (s.wakeRow k) else .next s

/-- JOINW_WAKE (R357): a write to the word that row `sel.k` waits on; the row issues its JOINW again. -/
def execJoinwWake (s : State) : Host.Outcome State Fault Refusal :=
  match s.joinWakes[s.sel.k]? with
  | none => .next s
  | some k =>
    let s : State := { s with joinWakes := s.joinWakes.eraseIdx s.sel.k }
    let r := s.row k
    if r.st == .waiting && r.joinw.isSome then .next ((s.setRow k { r with joinw := none }).wakeRow k) else .next s

/-! ## Placement (R248, R205, R136) -/

/-- The bank of a cell: the first, from its own on, that has a FREE row and can take a bind record (R248). -/
def State.planCell (s : State) (t : BitVec 4) (id : BitVec 32) (grid : List (BitVec 10)) (used : List Cell) (c : Nat) :
    Option Cell :=
  let n := grid.length
  let site := grid.getD (c % n) 0
  (List.range 8).findSome? (fun j =>
    let bank := BitVec.ofNat 3 (c / n + j)
    let owed := owedCells (s.ten t).launches site bank ++ used.filter (fun x => x.site == site && x.bank == bank)
    if (s.executor site.toNat bank).canBind t id && owed.length < (s.freeIds t site bank).length
    then some ⟨c, site, bank, none⟩ else none)

/-- The cells of a launch without a gang, in cell order. -/
def State.planCells (s : State) (t : BitVec 4) (id : BitVec 32) (grid : List (BitVec 10)) : (fuel c : Nat) → List Cell →
    Option (List Cell)
  | 0, _, l => some l
  | fuel + 1, c, l =>
    match s.planCell t id grid l c with
    | none => none
    | some x => s.planCells t id grid fuel (c + 1) (l ++ [x])

/-- The subarray groups of a bank that have a FREE row which no placed gang needs, rising. -/
def State.gangGroups (s : State) (t : BitVec 4) (site : BitVec 10) (bank : BitVec 3) : List (BitVec 4) :=
  let free := (s.freeIds t site bank).map (fun n => (s.dir ⟨t, n⟩).group)
  let owed := owedCells (s.ten t).launches site bank
  ((List.range 16).map (BitVec.ofNat 4)).filter (fun g =>
    (owed.filter (fun c => c.group == some g)).length < (free.filter (· == g)).length)

/-- The rows of a gang on one column, all in the first bank that can take them all, each in a group of its own (R248): rising groups
in cell order (log entry 77, DESIGN CHOICE). -/
def State.planGang (s : State) (t : BitVec 4) (id : BitVec 32) (site : BitVec 10) (cells : List Nat) : Option (List Cell) :=
  (List.range 8).findSome? (fun j =>
    let bank := BitVec.ofNat 3 j
    let groups := s.gangGroups t site bank
    let owed := owedCells (s.ten t).launches site bank
    if (s.executor site.toNat bank).canBind t id && cells.length ≤ groups.length &&
      owed.length + cells.length ≤ (s.freeIds t site bank).length
    then some ((cells.zip groups).map (fun (c, g) => ⟨c, site, bank, some g⟩)) else none)

/-- The whole plan of a launch, or none while something is lacking (R248). -/
def State.plan (s : State) (t : BitVec 4) (l : Launch) : Option (List Cell) :=
  let grid := (s.ten t).cols
  let n := grid.length
  let cells := recField l.record 0 2 * recField l.record 2 2
  if n == 0 || (s.poolIds t).length < cells then none
  else if recGang l.record then
    (List.range (min n cells)).foldl (fun acc i =>
      match acc with
      | none => none
      | some l' =>
        (s.planGang t l.id (grid.getD i 0) ((List.range cells).filter (fun c => c % n == i))).map (l' ++ ·)) (some [])
  else s.planCells t l.id grid cells 0 []

/-- The pipes of a record: the channels it binds (R136). -/
def recPipes (r : List Byte) : List (Fin 16) := (List.finRange 16).filter (fun k => bit (BitVec.ofNat 16 (recField r 0xB0 2)) k)

/-- Have the tables and channels room for a plan (R205, R136)? -/
def State.planFits (s : State) (l : Launch) (plan : List Cell) : Bool :=
  s.wcomp.length < 256 &&
    plan.all (fun c =>
      let col := s.col c.site.toNat
      col.comp.length < 64 && (s.field (fieldOfSite c.site.toNat)).comp.length < 64 &&
        (recPipes l.record).all (fun k => !(col.chans[k]).bound))

/-- The sites of a plan, each once. -/
def planSites (l : List Cell) : List (BitVec 10) := (l.map (·.site)).eraseDups

/-- The bind record of a launch on an executor that takes `k` rows of it (R170). -/
def recBind (t : BitVec 4) (l : Launch) (k : Nat) : Bind :=
  let r := l.record
  let q := recField r 0x12 1
  ⟨l.id, t, BitVec.ofNat 2 (recField r 0x11 1), recGang r, BitVec.ofNat 8 (if q == 0 then 16 else q), BitVec.ofNat 8 (recField r 0x13 1),
    if recGang r then BitVec.ofNat 8 k else 0, 0, none⟩

/-- The bind records of a plan written, where the executor does not hold one (R171). -/
def State.bindPlan (s : State) (t : BitVec 4) (l : Launch) (plan : List Cell) : State :=
  plan.foldl (fun s c =>
    let e := s.executor c.site.toNat c.bank
    if (e.bindOf t l.id).isSome then s
    else
      let k := (plan.filter (fun x => x.site == c.site && x.bank == c.bank)).length
      s.setExecutor c.site.toNat c.bank { e with binds := e.binds ++ [recBind t l k] }) s

/-- A launch placed: its completion entries, bind records and pipes stand before its first START (R136, R171, R205). -/
def State.placeLaunch (s : State) (t : BitVec 4) (l : Launch) (plan : List Cell) : State :=
  let sites := planSites plan
  let fields := (sites.map (fun x => fieldOfSite x.toNat)).eraseDups
  let s : State := { s with wcomp := s.wcomp ++ [⟨t, l.id, BitVec.ofNat 18 fields.length, false⟩] }
  let s := fields.foldl (fun s f =>
    let k := (sites.filter (fun x => fieldOfSite x.toNat == f)).length
    let x := s.field f
    s.setField f { x with comp := x.comp ++ [⟨t, l.id, BitVec.ofNat 18 k, false⟩] }) s
  let s := sites.foldl (fun s site =>
    let k := (plan.filter (fun c => c.site == site)).length
    let c := s.col site.toNat
    let c : Column := { c with
      comp := c.comp ++ [⟨t, l.id, BitVec.ofNat 18 k, false⟩]
      chans := Vector.ofFn (fun (i : Fin 16) => if (recPipes l.record).contains i then boundChan l.id else c.chans[i]) }
    s.setCol site.toNat c) s
  let s := s.bindPlan t l plan
  s.setTen t ((s.ten t).modLaunch l.id (fun y => { y with phase := .placed, grid := (s.ten t).cols, wcols := s.serviceCount, todo := plan }))

/-- Has the tenant a column that is to be retired at its next launch boundary (R2, R410)? -/
def State.retirementDue (s : State) (t : BitVec 4) : Bool :=
  (s.ten t).cols.any (fun c => (s.col c.toNat).suspect && s.inService c.toNat)

/-- LAUNCH_PLACEMENT (R248): the first launch of tenant `sel.t` that waits is placed once nothing is lacking; none of a
stopped tenant is (R273, R276), none while its code is being loaded (R401) (log entry 87, DEDUCED), and none before its SUSPECT columns are retired
(R2). -/
def execLaunchPlacement (s : State) : Host.Outcome State Fault Refusal :=
  let t := s.sel.t
  let x := s.ten t
  match x.launches.find? (fun l => l.phase == .waiting) with
  | none => .next s
  | some l =>
    if x.st != .active || x.loading.isSome || s.retirementDue t then .next s
    else
      match s.plan t l with
      | none => .next s
      | some plan => if s.planFits l plan then .next (s.placeLaunch t l plan) else .next s

/-! ## The start of rows (R249, R41, R246) -/

/-- ceil(E / G) of R41. -/
def pieceOf (e g : Nat) : Nat := if g == 0 then 0 else ceilDiv e g

/-- EXT of R41: what is left of an extent from BASE on, at most one piece. -/
def extOf (e g i : Nat) : Nat := min (pieceOf e g) (e - i * pieceOf e g)

/-- The row that a launch unit writes for a cell (R249). -/
def launchRow (l : Launch) (c : Cell) (n : BitVec 32) (cap : BitVec 16) : Row :=
  let r := l.record
  let w := recField r 0 2
  let h := recField r 2 2
  let e0 := recField r 4 4
  let e1 := recField r 8 4
  let x := c.c % w
  let y := c.c / w
  let row : Row := { Row.reset with
    rowid := n, pc := BitVec.ofNat 32 (recField r 0x0C 4), launch := l.id, predid := l.predid, countCol := c.site
    lx := BitVec.ofNat 16 x, ly := BitVec.ofNat 16 y, gridw := BitVec.ofNat 16 w, gridh := BitVec.ofNat 16 h
    base0 := BitVec.ofNat 32 (x * pieceOf e0 w), ext0 := BitVec.ofNat 32 (extOf e0 w x)
    base1 := BitVec.ofNat 32 (y * pieceOf e1 h), ext1 := BitVec.ofNat 32 (extOf e1 h y)
    pri := BitVec.ofNat 2 (recField r 0x11 1), bud := cap.setWidth 32 }
  (List.range (recField r 0x10 1 % 32)).foldl (fun x i =>
    x.wg (BitVec.ofNat 6 (recField r (0x20 + i) 1)) (BitVec.ofNat 64 (recField r (0x30 + 8 * i) 8))) row

/-- An allocated row written and started by a launch unit: START is an acquire of the launch's vector (R233, R349). The cycle from
which the row may issue stands (R21). -/
def State.startRow (s : State) (k : RowKey) (r : Row) (vec : Vector (BitVec 32) 12) : State :=
  ((s.setRow k { r with issueAt := (s.row k).issueAt }).command k .start).resumeAcquire k vec

/-- The FREE ids that the cells of a launch take on one column (R249), in cell order, each behind what the launches before it in the
tenant's order are owed; none while a row is lacking. -/
def State.allotCells (s : State) (t : BitVec 4) (id : BitVec 32) (cells : List Cell) : Option (List (Cell × BitVec 32)) :=
  let ahead := (s.ten t).launches.takeWhile (fun y => y.id != id)
  cells.foldl (fun acc c =>
    match acc with
    | none => none
    | some l => (s.allotId t c.site c.bank c.group (owedCells ahead c.site c.bank) (l.map (·.2))).map (fun n => l ++ [(c, n)])) (some [])

/-- LAUNCH_ROW_START (R249): the launch unit of column `sel.site` allocates and writes every row that launch `sel.lnch` of tenant
`sel.t` placed there, then starts them; rows of a cancelled launch are killed before they issue (R207). While a row is lacking, START
of a promised one having come from elsewhere (R90), it waits; the rows of a tenant that is stopped or being reset are started neither
(R273, R276). -/
def execLaunchRowStart (s : State) : Host.Outcome State Fault Refusal :=
  let t := s.sel.t
  let site := s.sel.site
  match (s.ten t).launch s.sel.lnch with
  | none => .next s
  | some l =>
    let cells := l.todo.filter (fun c => c.site == site)
    if (s.ten t).st != .active || cells.isEmpty || !covers (s.field (fieldOfSite site.toNat)).fav l.vec then .next s
    else
      match s.allotCells t l.id cells with
      | none => .next s
      | some rows =>
        let cap := (s.col site.toNat).bcap
        let s := s.setTen t ((s.ten t).modLaunch l.id (fun y => { y with todo := y.todo.filter (fun c => c.site != site) }))
        let s := rows.foldl (fun s (c, n) => s.startRow ⟨t, n⟩ (launchRow l c n cap) l.vec) s
        .next (if l.cancelled then rows.foldl (fun s (_, n) => s.outsideCommand ⟨t, n⟩ .kill) s else s)

/-! ## Successors (R259) -/

/-- SUCCESSOR_ISSUE (R259): launch `sel.lnch` of tenant `sel.t` is complete, or has hinted; the record that SUCC names is
read and issued, once. A record that cannot be read or is refused issues nothing (log entry 46, DEDUCED). -/
def execSuccessorIssue (s : State) : Host.Outcome State Fault Refusal :=
  let t := s.sel.t
  match (s.ten t).launch s.sel.lnch with
  | none => .next s
  | some l =>
    if l.succ == 0 || l.succIssued || !(l.hinted || l.phase == .complete) then .next s
    else
      let x := s.ten t
      let x : Tenant :=
        if l.phase == .complete then { x with launches := x.launches.filter (fun y => y.id != l.id) }
        else x.modLaunch l.id (fun y => { y with succIssued := true })
      let site := ((s.ten t).cols.headD 0).toNat
      match s.recordAt ⟨t, l.sup, site, true, none⟩ (addr48 l.succ) with
      | .ok record s =>
        match s.submit t record l.sup l.id l.vec with
        | .ok (_, s') =>
          let y := s'.ten t
          let y : Tenant :=
            if l.phase == .complete then { y with launches := y.launches.filter (fun z => z.id != l.id) }
            else y.modLaunch l.id (fun z => { z with succIssued := true })
          .next (s'.setTen t y)
        | .error _ => .next (s.setTen t x)
      | .stall => .next s
      | .miss _ => .next s
      | _ => .next (s.setTen t x)

end Sys2Proof.Machine
end

