-- ==== Sys2Proof/Machine/Spawning.lean ====
section
/-! DEFINITION. Spawn messages and migrations at their target (R144, R206, R208, R257, R258). -/

namespace Sys2Proof.Machine

/-! ## The bank of a spawned or moved row (R257) -/

/-- A bind record of a launch anywhere on the wafer. -/
def State.bindAnywhere (s : State) (t : BitVec 4) (l : BitVec 32) : Option Bind :=
  s.cols.findSome? (fun (_, c) => c.execs.toList.findSome? (fun e => e.bindOf t l))

/-- The bank that a launch unit chooses and the lowest FREE id there; the flag says that a bind record is to be written
(step 1 of R257). -/
def State.chooseBank (s : State) (t : BitVec 4) (l : BitVec 32) (site : BitVec 10) : Option (BitVec 3 × BitVec 32 × Bool) :=
  let banks := (List.range 8).map (BitVec.ofNat 3)
  let low := fun (b : BitVec 3) => s.spareId t site b
  let bound := banks.findSome? (fun b =>
    if ((s.executor site.toNat b).bindOf t l).isSome then (low b).map (fun n => (b, n, false)) else none)
  match bound with
  | some x => some x
  | none =>
    if (s.bindAnywhere t l).isNone then none
    else banks.findSome? (fun b =>
      if (s.executor site.toNat b).binds.length < 32 then (low b).map (fun n => (b, n, true)) else none)

/-- A bind record copied to an executor, where the choice asks for one (R257). -/
def State.copyBind (s : State) (t : BitVec 4) (l : BitVec 32) (site : BitVec 10) (bank : BitVec 3) (copy : Bool) : State :=
  match copy, s.bindAnywhere t l with
  | true, some b =>
    let e := s.executor site.toNat bank
    s.setExecutor site.toNat bank { e with binds := e.binds ++ [{ b with nbound := 0, since := none }] }
  | _, _ => s

/-! ## Spawn (R144, R206, R208, R257) -/

/-- Is a column retired (R180)? -/
def State.isRetired (s : State) (site : Nat) : Bool := bit (s.retired.getD (site / 32) 0) (site % 32)

/-- Does the target refuse a spawn message (R144)? -/
def State.bounces (s : State) (m : SpawnMsg) : Bool :=
  let c := s.col m.target.toNat
  64 ≤ c.spawnq.length || c.owner != some m.tenant || c.suspect || s.isRetired m.target.toNat ||
    (match compOf (s.col m.ccol.toNat).comp m.tenant m.lnch with
     | some e => e.cancelled || e.count == 262143
     | none => false)

/-- SPAWN_MESSAGE_ARRIVAL (R144, R206, R208): message `sel.k` reaches its target once the release it is may become visible
(R225). Accepted, it raises SHARE and the join word, and joins the spawn queue; its answer returns to the parent
(log entry 51, DEDUCED). -/
def execSpawnMessageArrival (s : State) : Host.Outcome State Fault Refusal :=
  match s.spawns[s.sel.k]? with
  | none => .next s
  | some m =>
    let site := m.target.toNat
    if !s.releasable m.src m.seq (fieldOfSite (s.siteOf m.src)) (fieldOfSite site) (some m.dv) || !s.departRoom (fieldOfSite site)
    then .next s
    else if s.bounces m then
      .next (({ s with spawns := s.spawns.eraseIdx s.sel.k } : State).answerAt m.src m.next (fun r => r.wp m.pd false))
    else
      let join : Res (Option (Nat × Keep)) :=
        if m.join == 0 then .ok none s
        else
          match s.check ⟨m.tenant, (s.row m.src).priv, s.siteOf m.src, true, none⟩ .atom (addr48 m.join) 8 with
          | .ok (.dram pa, attr) s => .ok (some (pa, keepOf attr CacheHint.none)) s
          | .stall => .stall
          | .miss va => .miss va
          | _ => .ok none s
      match join with
      | .ok w s =>
        let s : State := { s with spawns := s.spawns.eraseIdx s.sel.k }
        let cc := s.col m.ccol.toNat
        let s := s.setCol m.ccol.toNat { cc with comp := compStep cc.comp m.tenant m.lnch true }
        let s := match w with
          | some (pa, keep) => ((s.rmwDram site pa 8 .add 1 0 keep).2.depart (fieldOfSite site) (homeField pa) true).1
          | none => s
        let c := s.col site
        let s := s.setCol site { c with spawnq := c.spawnq ++ [m] }
        .next (s.answerAt m.src m.next (fun r => r.wp m.pd true))
      | _ => .next s

/-- The child that a spawn message makes (R246, R257). -/
def childRow (m : SpawnMsg) (n : BitVec 32) (cap : BitVec 16) : Row :=
  let r : Row := { Row.reset with
    rowid := n, pc := m.pc, launch := m.lnch, bud := cap.setWidth 32, predid := m.predid, join := m.join, countCol := m.ccol }
  (m.args.zip (List.range 8)).foldl (fun r (v, i) => r.wg (BitVec.ofNat 6 (i + 1)) v) r

/-- SPAWN_SERVE (R257): the head of column `sel.site`'s spawn queue. Where no bank takes it, event KIND 4 is posted once. A
child of a cancelled launch is killed before it issues (R207). -/
def execSpawnServe (s : State) : Host.Outcome State Fault Refusal :=
  let site := s.sel.site
  let c := s.col site.toNat
  match c.spawnq with
  | [] => .next s
  | m :: rest =>
    if (s.ten m.tenant).st != .active then .next s
    else
      match s.chooseBank m.tenant m.lnch site with
      | none =>
        if m.posted then .next s
        else .next ((s.setCol site.toNat { c with spawnq := { m with posted := true } :: rest }).fieldEvent 4 m.tenant site m.lnch)
      | some (bank, n, copy) =>
        let s := (s.setCol site.toNat { c with spawnq := rest }).copyBind m.tenant m.lnch site bank copy
        let k : RowKey := ⟨m.tenant, n⟩
        let s := s.startRow k (childRow m n c.bcap) m.dv
        let dead := match compOf (s.col m.ccol.toNat).comp m.tenant m.lnch with | some e => e.cancelled | none => false
        .next (if dead then s.outsideCommand k .kill else s)

/-! ## Migration (R258, R174, R235) -/

/-- The subcode of MIGRATE_FAIL, where the move fails (R258, R261) (log entry 40, DEDUCED). -/
def State.moveFails (s : State) (k : RowKey) (site : BitVec 10) : Option (BitVec 8) :=
  if !(s.ten k.t).cols.contains site then some 1
  else if (s.col site.toNat).suspect then some 2
  else if (s.chooseBank k.t (s.row k).launch site).isNone then some 3
  else none

/-- The packed state of a moving row at its new place: g0-g23 and the RCB; all other bytes read 0 (R258, R85)
(log entry 54, DEDUCED). -/
def Row.packed (r : Row) : Row :=
  { r with g := Vector.ofFn (fun (i : Fin 64) => if i.val < 24 then r.g[i] else 0), work := [], bad := [] }

/-- The stores that waited for a move that failed are made again when the row's fault has been dealt with, like those of a replay
list (R258, R267) (log entry 91, DEDUCED). -/
def Row.moveRefused (r : Row) (ops : Nat) : Row :=
  (r.early.filter (·.due)).foldl (fun r e => r.toReplay { e with due := false, till := some ops })
    { r with early := r.early.filter (fun e => !e.due) }

/-- A moved row, or one whose move failed, becomes READY, and what was held for it is applied (R174, R235); up to write 2 it has
counted at the bank that it leaves (R170). A STEPX that
stepped its MIGR is answered; so is one that was held and found the row not STOPPED (R334) (log entry 21, DEDUCED). -/
def State.landRow (s : State) (k : RowKey) : State :=
  let r := s.row k
  let s := s.setRow k { r with move := none, waiton := 0, held := [] }
  let s := s.makeReady k
  let s := r.held.foldl (fun s c => s.command k c) s
  if (s.row k).stepping then s else s.tellStepper k (!r.held.contains .step)

/-- MIGRATION_PLACEMENT (R258): row `sel.n` of tenant `sel.t` is placed at its target, or its move fails. The FREE id takes
the source's physical row with its bytes (log entry 40, DEDUCED) (log entry 54, DEDUCED). -/
def execMigrationPlacement (s : State) : Host.Outcome State Fault Refusal :=
  let k : RowKey := ⟨s.sel.t, s.sel.n⟩
  let r := s.row k
  match r.move with
  | none => .next s
  | some site =>
    if r.st != .moving || (s.slotOf k).isSome then .next s
    else
      let old := s.dir k
      match s.moveFails k site, s.chooseBank k.t r.launch site with
      | none, some (bank, n, copy) =>
        let f : RowKey := ⟨k.t, n⟩
        let new := s.dir f
        let s := s.copyBind k.t r.launch site bank copy
        let s := s.setDir f { old with moving := false }
        let s := s.setRow f { s.row f with g := r.g, work := r.work, bad := r.bad }
        let s := (s.setRow k r.packed).countBound k false
        let s := (s.setDir k { new with moving := false }).countBound k true
        .next ((s.acquireFar site.toNat).landRow k)
      | sub, _ =>
        let s := s.setDir k { old with moving := false }
        let i : FaultInfo := ⟨0x0D, sub.getD 3, 5, false, false, r.pc, r.pc, site.setWidth 64, 0, r.prog, 0⟩
        .next ((s.setRow k { r.moveRefused s.ops with deferred := r.deferred ++ [i] }).landRow k)

end Sys2Proof.Machine
end

