-- ==== Sys2Proof/Machine/Device.lean ====
section
/-! DEFINITION. What happens in the device by itself: way partitions and wakes of span caches, corrected errors and the
retirement of columns, the tester, field event queues, sensors and power caps (R98, R116, R117, R123, R146, R180, R213,
R271, R275, R408, R409). -/

namespace Sys2Proof.Machine

/-! ## Span-cache ways (R98, R116, R117) -/

/-- The size of a way of a span's scratchpad. -/
def wayBytes : Nat := 2 ^ 20

/-- The memory without the words [lo, hi) of a list of 8-byte words (R270). -/
def wordsOutside (l : List Nat) (lo hi : Nat) : List Nat := l.filter (fun w => 8 * w + 8 ≤ lo || hi ≤ 8 * w)

/-- Bytes [lo, hi) of a span's scratchpad zero-filled. -/
def Span.zeroScratch (x : Span) (lo hi : Nat) : Span :=
  { x with scratch := x.scratch.zeroRange lo hi, bad := wordsOutside x.bad lo hi }

/-- WPART_TRANSITION_COMPLETE (R116): the transition of span `sel.span` completes its last step: ways that join the window are
zero-filled, the contents of ways that leave it are lost, WPART has its new value, and the SRW that waits goes on. -/
def execWpartTransitionComplete (s : State) : Host.Outcome State Fault Refusal :=
  let i := s.sel.span.toNat
  let x := s.span i
  match x.trans with
  | none => .next s
  | some n =>
    let lo := Nat.min x.wpart.toNat n.toNat * wayBytes
    let hi := Nat.max x.wpart.toNat n.toNat * wayBytes
    let y := ({ x.zeroScratch lo hi with wpart := n, trans := none, transRow := none } : Span).trim
    let s := s.setSpan i y
    match x.transRow with
    | none => .next s
    | some k => .next (s.answer k id)

/-- WAY_WAKE_COMPLETE (R117): way `sel.way` of span `sel.span` has woken, zero-filled. -/
def execWayWakeComplete (s : State) : Host.Outcome State Fault Refusal :=
  let i := s.sel.span.toNat
  let x := s.span i
  let w := s.sel.way.toNat
  if !bit x.waking w then .next s
  else
    let x := x.zeroScratch ((15 - w) * wayBytes) ((16 - w) * wayBytes)
    .next (s.setSpan i { x with waking := setBit x.waking w false, gated := setBit x.gated w false })

/-! ## Power caps (R408, R409) -/

/-- The sites of columns in service. -/
def State.serviceSites (s : State) : List Nat := (List.range 960).filter s.inService

/-- L of R409 for `n` columns in service. -/
def capOf (mplim : Nat) (n : Nat) (throt : Bool) : Nat :=
  let l := if n == 0 then 16384 else 16384 * (10 * mplim - 600) / (10 * n)
  let l := Nat.min 16384 (Nat.max 512 l)
  if throt then l / 2 else l

/-- PCAP.LIM of every column in service recomputed (R409). -/
def State.recap (s : State) : State :=
  let l := s.serviceSites
  let cap := BitVec.ofNat 16 (capOf s.mplim.toNat l.length s.throt)
  l.foldl (fun s i => s.setCol i { s.col i with pcap := cap }) s

/-- THERMAL_SENSOR (R409): the sensor of column `sel.site` reads `sel.deg` degrees: 105 or more sets THROT, which clears once
every sensor reads below 95. A sensor stands at each good column, whether it is in service or retired (log entry 36, DESIGN CHOICE). MPNOW is measured with it (R408) (log entry 36, DESIGN CHOICE). -/
def execThermalSensor (s : State) : Host.Outcome State Fault Refusal :=
  let site := s.sel.site
  let deg := s.sel.deg.toNat
  if !s.good site.toNat then .next s
  else
  let hot := s.hot.filter (· != site)
  let hot := if 95 ≤ deg then site :: hot else hot
  let throt := if 105 ≤ deg then true else s.throt && !hot.isEmpty
  let s' : State := { s with hot := hot, throt := throt, mpnow := Config.modulePower s.time }
  .next (if throt == s.throt then s' else s'.recap)

/-- The limit that a wafer comes with (R1, R408): 960 for grade A, of 900 good columns, and 910 for grade B, of 850. -/
def mplimReset (harvest : List (BitVec 32)) : BitVec 16 := if 900 ≤ mapCount harvest then 960 else 910

/-- MPLIM written by the host (R408): below 100 or above the reset value it is dropped with an advisory error. -/
def State.writeMplim (s : State) (v : BitVec 16) : State :=
  if v < 100 || mplimReset s.harvest < v then { s with hostErr := true }
  else if v == s.mplim then s
  else ({ s with mplim := v } : State).recap

/-- MPLIM (R408): the host writes `sel.v`; a device whose boot has halted answers only DOE (R404). -/
def execMplim (s : State) : Host.Outcome State Fault Refusal :=
  .next (if s.bootLock then s.writeMplim (bits s.sel.v 0 16) else s)

/-! ## Corrected errors (R213, R271) -/

/-- CORRECTED_ERROR (R204, R213): column `sel.site`, one in service (R407), corrects an error: CECNT rises; at 1 it is logged as transient; at CETHR or
above, unless that is 0, the column is SUSPECT and event KIND 3 is posted, with tenant 0 where no tenant owns the column, and
with bytes 4-7 0, no row or launch being concerned (log entry 17, DEDUCED; log entry 70, DESIGN CHOICE). -/
def execCorrectedError (s : State) : Host.Outcome State Fault Refusal :=
  let site := s.sel.site
  if !s.inService site.toNat then .next s
  else
  let c := (s.col site.toNat).ceNow s.time
  let c := ({ c with ceTimes := c.ceTimes ++ [s.time] } : Column).ceNow s.time
  let exceeds := c.cethr != 0 && c.cethr ≤ c.cecnt
  let s := s.setCol site.toNat { c with suspect := c.suspect || exceeds }
  let s : State := { s with errlog := if c.cecnt == 1 then s.errlog ++ [site] else s.errlog }
  .next (if exceeds then s.fieldEvent 3 (c.owner.getD 0) site 0 else s)

/-- CECNT_EXPIRY (R213): the corrected errors of column `sel.site` leave the count 2^30 cycles after they occurred. -/
def execCecntExpiry (s : State) : Host.Outcome State Fault Refusal :=
  let site := s.sel.site.toNat
  .next (s.setCol site ((s.col site).ceNow s.time))

/-! ## Retirement of a column (R2, R180, R271, R275) -/

/-- The ids of a tenant's pool that are placed at a site. -/
def State.idsAt (s : State) (t : BitVec 4) (site : BitVec 10) : List (BitVec 32) :=
  (s.poolIds t).filter (fun n => (s.dir ⟨t, n⟩).site == site)

/-- A row that is not FREE takes the place of a FREE id of the same bank at another column of the partition, and that id its
place (R174, R275): write 1 sets MOVING, the target row holds the packed state (R246), and write 2 records the new place; both
stand in one event, so no access resolves the id between them (log entry 20, DEDUCED). The column that it comes to has nothing older of
other fields' lines than what the row has seen (R219, R223). -/
def State.relocate (s : State) (k : RowKey) : Option State :=
  let d := s.dir k
  let r := s.row k
  let live := s.liveLaunch k.t r.launch
  match (s.poolIds k.t).find? (fun n =>
      let e := s.dir ⟨k.t, n⟩
      e.site != d.site && e.bank == d.bank && s.spareId k.t e.site e.bank == some n &&
        (!live || (s.executor e.site.toNat e.bank).canBind k.t r.launch)) with
  | none => none
  | some n =>
    let f : RowKey := ⟨k.t, n⟩
    let e := s.dir f
    let s := s.setDir k { d with moving := true }
    let s := s.copyBind k.t r.launch e.site e.bank (live && ((s.executor e.site.toNat e.bank).bindOf k.t r.launch).isNone)
    let s := (s.setRow f { s.row f with g := r.g, work := r.work, bad := r.bad }).setRow k r.packed
    let s := if r.st == .retired then s else s.countBound k false
    let s := (s.setDir f d).setDir k { e with moving := false }
    some ((if r.st == .retired then s else s.countBound k true).acquireFar e.site.toNat)

/-- Is nothing of a tenant held at a column: no slot, job, transfer or spawn message? -/
def Column.idle (c : Column) : Bool :=
  c.jobs.isEmpty && c.sends.isEmpty && c.spawnq.isEmpty && c.gateOut.isEmpty &&
    c.execs.toList.all (fun e => e.slots.toList.all Option.isNone)

/-- Every line of a column's cache written back and dropped. -/
def State.flushColumn (s : State) (site : Nat) : State :=
  ((s.col site).cache.map (·.line)).foldl (fun s l => s.flushLine site l) s

/-- Every bound channel of a tenant's column is unbound, which event KIND 5 reports (R136, R146). -/
def State.unbindAll (s : State) (t : BitVec 4) (site : BitVec 10) : State :=
  ((((s.col site.toNat).chans.toList.filter (·.bound)).map (·.lnch)).eraseDups).foldl (fun s l => s.unbindAt t l site) s

/-- A column leaves its tenant's partition: the FREE ids placed there leave the pool (R173), its channels are unbound, its bind
records end, its caches are written back. -/
def State.releaseColumn (s : State) (t : BitVec 4) (site : BitVec 10) : State :=
  let s := (s.idsAt t site).foldl (fun s n => s.setDir ⟨t, n⟩ { s.dir ⟨t, n⟩ with valid := false }) s
  let s := (s.unbindAll t site).flushColumn site.toNat
  let c := s.col site.toNat
  let s := s.setCol site.toNat { c with
    owner := none
    execs := c.execs.map (fun e => { e with binds := e.binds.filter (fun b => b.tenant != t) }) }
  s.setTen t { s.ten t with cols := (s.ten t).cols.filter (· != site) }

/-- A bit of the retirement map. -/
def setRetired (l : List (BitVec 32)) (site : Nat) (b : Bool) : List (BitVec 32) :=
  (List.range 30).map (fun y => let w := l.getD y 0; if y == site / 32 then setBit w (site % 32) b else w)

/-- Does a tenant stand at a launch boundary as far as a column is concerned (R2, R181): no launch of it is placed, or the next
one waits for placement, and no row of the column is still to be started? -/
def State.launchBoundary (s : State) (t : BitVec 4) (site : BitVec 10) : Bool :=
  let l := (s.ten t).launches
  (l.all (fun x => x.phase != .placed) || l.any (fun x => x.phase == .waiting)) && l.all (fun x => x.todo.all (fun c => c.site != site))

/-- COLUMN_RETIREMENT (R2, R180, R271, R410): SUSPECT column `sel.site` is retired at its tenant's launch boundary, nothing of the
tenant being held at the column. Rows still placed there are relocated (R275) (log entry 20, DEDUCED). -/
def execColumnRetirement (s : State) : Host.Outcome State Fault Refusal :=
  let site := s.sel.site
  let c := s.col site.toNat
  let retire (s : State) : State := ({ s with retired := setRetired s.retired site.toNat true } : State).recap
  if !c.suspect || !s.inService site.toNat then .next s
  else
    match c.owner with
    | none => .next (retire s)
    | some t =>
      if !s.launchBoundary t site || !c.idle then .next s
      else
        match ((s.idsAt t site).filter (fun n => (s.row ⟨t, n⟩).st != .free)).foldl
            (fun (acc : Option State) n => acc.bind (fun s => s.relocate ⟨t, n⟩)) (some s) with
        | none => .next s
        | some s' => .next (retire (s'.releaseColumn t site))

/-! ## The tester and the field event queues (R123, R146, R214) -/

/-- TESTER_WINDOW (R123): a window of the tester at column `sel.site`, one in service, ends; a demand access that met it (`sel.arr`) made the
tester abandon it, and TESTPRE has risen. -/
def execTesterWindow (s : State) : Host.Outcome State Fault Refusal :=
  let site := s.sel.site.toNat
  let c := s.col site
  .next (if s.sel.arr && s.inService site then s.setCol site { c with testpre := c.testpre + 1 } else s)

/-- FIELD_EVENT_POST (R146): the oldest event that waits at field `sel.field` is posted where its queue of 1,024 has room; with
`sel.arr` the field management core reads the oldest entry instead (log entry 65, DESIGN CHOICE). -/
def execFieldEventPost (s : State) : Host.Outcome State Fault Refusal :=
  let f := s.sel.field.toNat
  let x := s.field f
  if s.sel.arr then .next (s.setField f { x with evq := x.evq.drop 1 })
  else
    match x.evWait with
    | [] => .next s
    | e :: rest =>
      if 1024 ≤ x.evq.length then .next s else .next (s.setField f { x with evq := x.evq ++ [e], evWait := rest })

end Sys2Proof.Machine
end

