-- ==== Sys2Proof/Machine/Sends.lean ====
section
/-! DEFINITION. Sends (R141-R143, R324-R327, R342-R346): SEND, SENDQ, HALO, WMK, and the arrivals of their sectors. -/

namespace Sys2Proof.Machine

/-! ## Descriptors (R326, R344) -/

/-- A fault of a descriptor's fields: ADDR is the descriptor's address (R342). -/
def badDescriptor (va : DWord) : Flt := ⟨2, 0, va, false, 0⟩

/-- The fields of a send descriptor (R326). -/
structure SendDesc where
  src : BitVec 48
  tcol : Nat
  win : BitVec 3
  doff : Nat
  len : Nat
  done : BitVec 48
  reserved : Bool
  deriving DecidableEq, Repr

/-- A send descriptor read from its 32 bytes. -/
def SendDesc.ofBits (d : BitVec 256) : SendDesc where
  src := bits d 0 48
  tcol := (bits d 64 16).toNat
  win := bits d 80 3
  doff := (bits d 96 14).toNat
  len := (bits d 128 15).toNat
  done := bits d 192 48
  reserved := bits d 48 16 != 0 || bits d 83 13 != 0 || bits d 110 18 != 0 || bits d 143 49 != 0 || bits d 240 16 != 0

/-- Are the fields of a descriptor within their limits (R326)? -/
def SendDesc.ok (d : SendDesc) (queue : Bool) : Bool :=
  !d.reserved && aligned d.src.toNat 32 && aligned d.done.toNat 8 && d.len ≤ 16384 &&
    (if queue then !bit d.win 2 && d.doff == 0 && aligned d.len 16
     else aligned d.doff 32 && aligned d.len 32 && d.doff + d.len ≤ 16384)

/-- Data cut into sectors for one target, from an offset of its window on. -/
def sectorsOf (target : BitVec 10) (off : Nat) (data : List Byte) : List Sector :=
  (List.range (ceilDiv data.length 32)).map (fun j => ⟨target, off + 32 * j, (data.drop (32 * j)).take 32⟩)

/-! ## SEND and SENDQ (R342) -/

/-- The transfer accepted: it joins the copy unit's queue. A LEN of 0 sends nothing and performs the reduction on DONE at
once (log entry 42, DEDUCED). -/
def State.acceptSend (s : State) (kind : SendKind) (len : Nat) (sectors : List Sector) (parts : List HaloPart)
    (done : Option (Nat × Keep)) (q : BitVec 3) : State :=
  let far := 3 ≤ s.scope 3
  if !far && s.releaseWaits then s.abandonGroup
  else
  let s := if far then s.releaseFar s.here else s
  let vec := if far then some (s.releaseVec s.cur s.myField) else none
  let s :=
    if len == 0 then (match done with | some x => s.unitRed s.cur s.here x 1 vec | none => s)
    else
      let c := s.col s.here
      s.setCol s.here { c with sends := c.sends ++ [⟨s.cur, kind, sectors, parts, done, vec⟩] }
  s.finish ((s.me).wp q true)

/-- SEND and SENDQ of the issuing row (R342). -/
def State.send (s : State) (queue : Bool) (q : BitVec 3) (va : DWord) : State :=
  if !aligned va.toNat 32 then s.raise (Flt.align va false)
  else
    s.ends (s.readAs va 32) fun bs s =>
      let d := SendDesc.ofBits (ofBytes 256 bs)
      let src := addr48 d.src
      s.ends ((s.checkPages (pagesOf src d.len)).bind fun _ s => s.doneWord d.done) fun done s =>
        let grid := s.gridOf s.cur
        if !d.ok queue then s.raise (badDescriptor va)
        else if grid.length ≤ d.tcol then s.raise channelBind
        else if 32 ≤ (s.col s.here).sends.length then s.finish ((s.me).wp q false)
        else
          s.ends (s.sourceBytes src d.len) fun data s =>
            let target := grid.getD d.tcol 0
            let kind : SendKind := if queue then .metadata (bits d.win 0 2) else .window d.win
            s.acceptSend kind d.len (sectorsOf target d.doff data) [] done q

/-- SEND (R342). -/
def execSend (q : BitVec 3) (a : BitVec 6) (p : BitVec 3) (s : State) : Host.Outcome State Fault Refusal :=
  word s p fun s => s.send false q ((s.me).rg a)

/-- SENDQ (R342). -/
def execSendq (q : BitVec 3) (a : BitVec 6) (p : BitVec 3) (s : State) : Host.Outcome State Fault Refusal :=
  word s p fun s => s.send true q ((s.me).rg a)

/-! ## HALO (R344) -/

/-- The fields of a halo descriptor. -/
structure HaloDesc where
  base : BitVec 48
  pitch : Nat
  rows : Nat
  depth : Nat
  side : Nat
  win : BitVec 3
  reserved : Bool
  deriving DecidableEq, Repr

/-- A halo descriptor read from its 32 bytes. -/
def HaloDesc.ofBits (d : BitVec 256) : HaloDesc where
  base := bits d 0 48
  pitch := (bits d 64 16).toNat
  rows := (bits d 80 16).toNat
  depth := (bits d 96 8).toNat
  side := (bits d 104 8).toNat
  win := bits d 112 3
  reserved := bits d 48 16 != 0 || bits d 115 13 != 0 || bits d 128 128 != 0

/-- Are the fields within their limits (R344)? -/
def HaloDesc.ok (d : HaloDesc) : Bool :=
  !d.reserved && aligned d.base.toNat 32 && aligned d.pitch 32 && 32 ≤ d.pitch && d.pitch ≤ 16384 && 1 ≤ d.rows &&
    d.depth ≤ d.rows && d.depth * d.pitch ≤ 4096 && d.side * 32 ≤ d.pitch && d.side * 32 * d.rows ≤ 4096

/-- The runs of bytes (offset in the tile, length) that go towards a neighbour: place 1 N, 2 E, 3 S, 4 W (R344). -/
def HaloDesc.runs (d : HaloDesc) (place : Nat) : List (Nat × Nat) :=
  match place with
  | 1 => [(0, d.depth * d.pitch)]
  | 2 => (List.range d.rows).map (fun i => (i * d.pitch + (d.pitch - d.side * 32), d.side * 32))
  | 3 => [((d.rows - d.depth) * d.pitch, d.depth * d.pitch)]
  | _ => (List.range d.rows).map (fun i => (i * d.pitch, d.side * 32))

/-- The mailbox counter, and so the region of the window, of the direction from which a part sent to a place arrives: 0 N,
1 E, 2 S, 3 W (R143, R344). -/
def arrivalFrom (place : Nat) : BitVec 2 :=
  match place with
  | 1 => 2
  | 2 => 3
  | 3 => 0
  | _ => 1

/-- The neighbours that exist, with their places (R132, R143) (log entry 43, DEDUCED). -/
def State.neighbours (s : State) : List (Nat × BitVec 10) :=
  [1, 2, 3, 4].filterMap (fun place =>
    match neighbour (s.gridOf s.cur) s.here place with
    | some t => if (s.col t.toNat).owner == some s.cur.t then some (place, t) else none
    | none => none)

/-- The source bytes of a list of runs of a tile. -/
def State.runBytes (s : State) (base : DWord) (l : List (Nat × Nat)) : Res (List Byte) :=
  l.foldl (fun acc (o, n) => acc.bind fun bs s =>
    (s.sourceBytes (base + BitVec.ofNat 64 o) n).bind fun x s => .ok (bs ++ x) s) (.ok [] s)

/-- HALO (R344): one part for each neighbour that exists, a part of 0 bytes too (log entry 43, DEDUCED). -/
def execHalo (q : BitVec 3) (a : BitVec 6) (p : BitVec 3) (s : State) : Host.Outcome State Fault Refusal :=
  word s p fun s =>
    let va := (s.me).rg a
    if !aligned va.toNat 32 then s.raise (Flt.align va false)
    else
      s.ends (s.readAs va 32) fun bs s =>
        let d := HaloDesc.ofBits (ofBytes 256 bs)
        let base := addr48 d.base
        let l := s.neighbours
        let pages := l.flatMap (fun x => (d.runs x.1).flatMap (fun (o, n) => pagesOf (base + BitVec.ofNat 64 o) n))
        s.ends (s.checkPages pages) fun _ s =>
          if !d.ok then s.raise (badDescriptor va)
          else if 32 ≤ (s.col s.here).sends.length then s.finish ((s.me).wp q false)
          else
            let all : Res (List Sector) := l.foldl (fun acc (place, t) => acc.bind fun ss s =>
              (s.runBytes base (d.runs place)).bind fun data s =>
                .ok (ss ++ sectorsOf t ((arrivalFrom place).toNat * 0x1000) data) s) (.ok [] s)
            s.ends all fun sectors s =>
              s.acceptSend (.halo d.win) 1 sectors (l.map (fun (place, t) => ⟨t, arrivalFrom place⟩)) none q

/-! ## WMK (R346) -/

/-- WMK: FILL and the arrival map of a receive window (R346). -/
def execWmk (k : BitVec 3) (v : BitVec 6) (p : BitVec 3) (s : State) : Host.Outcome State Fault Refusal :=
  word s p fun s =>
    let x := (s.me).rg v
    if !aligned x.toNat 32 || 16384 < x.toNat then s.raise (Flt.align x false)
    else
      let c := s.col s.here
      (s.setCol s.here { c with
        wmk := c.wmk.set k.toNat (bits x 0 18)
        arr := c.arr.set k.toNat (BitVec.ofNat 512 (2 ^ (x.toNat / 32) - 1)) }).advance

/-! ## Arrivals (R142, R143, R138) -/

/-- The length of the run of set bits from bit `i` on. -/
def runLength (x : BitVec 512) : (fuel i : Nat) → Nat
  | 0, i => i
  | n + 1, i => if bit x i then runLength x n (i + 1) else i

/-- A sector written into a receive window: its bit is set and FILL raised; over a bit that is set already, FILL stays (R142). -/
def Column.arrive (c : Column) (k : BitVec 3) (off : Nat) (data : List Byte) : Column :=
  let c := c.scratchStore (0x4000 * k.toNat + off) data
  if bit c.arr[k.toNat] (off / 32) then c
  else
    let m := setBit c.arr[k.toNat] (off / 32) true
    { c with
      arr := c.arr.set k.toNat m
      wmk := c.wmk.set k.toNat (BitVec.ofNat 18 (max c.wmk[k.toNat].toNat (32 * runLength m 512 0))) }

/-- Metadata entries that arrive, in source order: they are held and join the queue as entries free (R138). -/
def Column.arriveMeta (c : Column) (q : BitVec 2) (data : List Byte) : Column :=
  { c with mqHeld := c.mqHeld.set q.toNat (c.mqHeld[q.toNat] ++
      (List.range (data.length / 16)).map (fun j => ofBytes 128 ((data.drop (16 * j)).take 16))) }

/-- Transfer `k` of a column, once its turn has come: transfers are served in the order of their issue, so nothing of those before it
is still to be sent (R130). -/
def Column.serving (c : Column) (k : Nat) : Option Send :=
  if (c.sends.take k).all (fun x => x.sectors.isEmpty && x.parts.isEmpty) then c.sends[k]? else none

/-- The transfer `sel.k` of column `sel.site`, replaced. -/
def State.setSend (s : State) (x : Send) : State :=
  let c := s.col s.sel.site.toNat
  s.setCol s.sel.site.toNat { c with sends := c.sends.set s.sel.k x }

/-- SECTOR_ARRIVAL (R141, R142): sector `sel.j` of a transfer; those of a SENDQ join in source order. -/
def execSectorArrival (s : State) : Host.Outcome State Fault Refusal :=
  match (s.col s.sel.site.toNat).serving s.sel.k with
  | none => .next s
  | some x =>
    let j := match x.kind with | .metadata _ => 0 | _ => s.sel.j
    match x.sectors[j]? with
    | none => .next s
    | some d =>
      let s := s.setSend { x with sectors := x.sectors.eraseIdx j }
      let t := s.col d.target.toNat
      .next (s.setCol d.target.toNat
        (match x.kind with
         | .window k => t.arrive k d.off d.data
         | .halo k => t.arrive k d.off d.data
         | .metadata q => t.arriveMeta q d.data))

/-- HALO_ARRIVAL (R143, R209): every sector of a part has been written; the neighbour's counter for the arrival direction
rises. -/
def execHaloArrival (s : State) : Host.Outcome State Fault Refusal :=
  match (s.col s.sel.site.toNat).serving s.sel.k with
  | none => .next s
  | some x =>
    match x.parts[s.sel.j]? with
    | none => .next s
    | some m =>
      if x.sectors.any (fun d => d.target == m.target) then .next s
      else
        let s := s.setSend { x with parts := x.parts.eraseIdx s.sel.j }
        let t := s.col m.target.toNat
        .next (s.setCol m.target.toNat { t with mb := t.mb.set m.counter.toNat (t.mb[m.counter.toNat] + 1) })

/-- METADATA_ARRIVAL (R138): the oldest held entry of queue `sel.q` joins it as soon as there is room. -/
def execMetadataArrival (s : State) : Host.Outcome State Fault Refusal :=
  let c := s.col s.sel.site.toNat
  let q := s.sel.q.toNat
  match c.mqHeld[q] with
  | [] => .next s
  | e :: l =>
    if 64 ≤ c.mq[q].length then .next s
    else .next (s.setCol s.sel.site.toNat { c with mqHeld := c.mqHeld.set q l, mq := c.mq.set q (c.mq[q] ++ [e]) })

/-- TARGET_ACKNOWLEDGEMENT (R141, R342): the targets have acknowledged the last sector; the entry is free, and DONE rises by
1 as a release. A target acknowledges the sector of a SENDQ when it arrives, also while its entries are still held there because the
queue is full (R138) (log entry 81, DESIGN CHOICE). -/
def execTargetAcknowledgement (s : State) : Host.Outcome State Fault Refusal :=
  let site := s.sel.site.toNat
  let c := s.col site
  match c.serving s.sel.k with
  | none => .next s
  | some x =>
    if !x.sectors.isEmpty || !x.parts.isEmpty || !s.departRoom (fieldOfSite site) then .next s
    else
      let s := s.setCol site { c with sends := c.sends.eraseIdx s.sel.k }
      .next (match x.done with | some w => s.unitRed x.row site w 1 x.vec | none => s)

end Sys2Proof.Machine
end

