-- ==== Sys2Proof/Machine/Gateway.lean ====
section
/-! DEFINITION. Gateway blocks between wafers (R140, R375-R378, R383, R385): GNEXT, GDONE, the arrival of a block and the peer's
acknowledgement. -/

namespace Sys2Proof.Machine

/-! ## GNEXT (R383) -/

/-- GNEXT: the oldest descriptor is popped and stored, in one step (R383). -/
def execGnext (q : BitVec 3) (a : BitVec 6) (p : BitVec 3) (s : State) : Host.Outcome State Fault Refusal :=
  word s p fun s =>
    let va := (s.me).rg a
    if (s.linkOf s.here).isNone then s.raise channelBind
    else if !aligned va.toNat 32 then s.raise (Flt.align va true)
    else
      s.ends (s.check s.who .store va 32) fun _ s =>
        match (s.col s.here).gateq with
        | [] => s.finish ((s.me).wp q false)
        | d :: rest =>
          s.ends (s.rowStore CacheHint.none va d.desc) fun _ s =>
            (s.setCol s.here { s.col s.here with gateq := rest }).finish ((s.me).wp q true)

/-! ## GDONE (R385) -/

/-- The fields of a forward descriptor (R385). -/
structure ForwardDesc where
  tag : BitVec 32
  swin : BitVec 3
  dwin : BitVec 3
  soff : Nat
  doff : Nat
  len : Nat
  done : BitVec 48
  reserved : Bool
  deriving DecidableEq, Repr

/-- A forward descriptor read from its 32 bytes. -/
def ForwardDesc.ofBits (d : BitVec 256) : ForwardDesc where
  tag := bits d 0 32
  swin := bits d 32 3
  dwin := bits d 36 3
  soff := (bits d 64 14).toNat
  doff := (bits d 80 14).toNat
  len := (bits d 96 15).toNat
  done := bits d 128 48
  reserved := bits d 35 1 != 0 || bits d 39 25 != 0 || bits d 78 2 != 0 || bits d 94 2 != 0 || bits d 111 17 != 0 ||
    bits d 176 80 != 0

/-- Are the fields within their limits (R385)? -/
def ForwardDesc.ok (d : ForwardDesc) : Bool :=
  !d.reserved && aligned d.soff 32 && aligned d.doff 32 && aligned d.len 32 && d.soff + d.len ≤ 16384 &&
    d.doff + d.len ≤ 16384 && aligned d.done.toNat 8

/-- GDONE (R385): the checks of R342 steps 1 to 3, the pairing, step 5; then the block leaves for the peer
(log entry 57, DEDUCED). -/
def execGdone (q : BitVec 3) (a : BitVec 6) (p : BitVec 3) (s : State) : Host.Outcome State Fault Refusal :=
  word s p fun s =>
    let va := (s.me).rg a
    match s.linkOf s.here with
    | none => s.raise channelBind
    | some (_, link) =>
      if !aligned va.toNat 32 then s.raise (Flt.align va false)
      else
        s.ends (s.readAs va 32) fun bs s =>
          let d := ForwardDesc.ofBits (ofBytes 256 bs)
          s.ends (s.doneWord d.done) fun done s =>
            if !d.ok then s.raise (badDescriptor va)
            else if link.paired != some s.cur.t then s.raise channelBind
            else if 32 ≤ (s.col s.here).sends.length then s.finish ((s.me).wp q false)
            else if !(s.me).early.isEmpty then s.abandonGroup
            else
              let off := 0x4000 * d.swin.toNat + d.soff
              if poisoned (s.col s.here).badScratch off d.len then s.raise (Flt.ecc 4 false)
              else
                let s := s.releaseFar s.here
                let c := s.col s.here
                let g : GateSend := ⟨s.cur, d.tag, d.dwin, d.doff, c.scratch.readBytes off d.len, done, s.releaseVec s.cur s.myField⟩
                (s.setCol s.here { c with gateOut := c.gateOut ++ [g] }).finish ((s.me).wp q true)

/-- PEER_QUEUED (R385): the peer has queued the descriptor of block `sel.k` of gateway column `sel.site`: DONE rises by 1 as a
release at WAFER scope (log entry 57, DEDUCED) (log entry 63, DESIGN CHOICE). -/
def execPeerQueued (s : State) : Host.Outcome State Fault Refusal :=
  let site := s.sel.site.toNat
  let c := s.col site
  match c.gateOut[s.sel.k]? with
  | none => .next s
  | some x =>
    if !s.departRoom (fieldOfSite site) then .next s
    else
    let s := s.setCol site { c with gateOut := c.gateOut.eraseIdx s.sel.k }
    .next (match x.done with | some w => s.unitRed x.row site w 1 (some x.vec) | none => s)

/-! ## A block arrives (R140, R378) -/

/-- The 32 bytes of a block descriptor (R378). -/
def blockBytes (tag : BitVec 32) (win : BitVec 3) (off len : Nat) (seq : BitVec 32) : List Byte :=
  toBytes 4 tag ++ toBytes 4 (win.setWidth 32 : BitVec 32) ++ natToBytes 4 off ++ natToBytes 4 len ++ toBytes 4 seq ++
    List.replicate 12 0

/-- GATEWAY_BLOCK_ARRIVAL (R140, R378): a block of the peer on paired link `sel.link`: its tag is `sel.word`, its window
`sel.slot`, its offset `sel.k`, its bytes those of `sel.acc`. Its sectors are written into the window (R142), then its
descriptor joins the queue. While 256 descriptors are present the block is held at the link (log entry 63, DESIGN CHOICE). -/
def execGatewayBlockArrival (s : State) : Host.Outcome State Fault Refusal :=
  match s.links.find? (fun x => x.1 == s.sel.link.toNat) with
  | none => .next s
  | some (i, link) =>
    let site := link.site.toNat
    let c := s.col site
    let off := s.sel.k
    let data := s.sel.acc.data
    if link.paired.isNone || 256 ≤ c.gateq.length || !aligned off 32 || !aligned data.length 32 || 16384 < off + data.length then .next s
    else
      let seq := link.seq + 1
      let c := (List.range (data.length / 32)).foldl (fun c j =>
        c.arrive s.sel.slot (off + 32 * j) ((data.drop (32 * j)).take 32)) c
      let c := { c with gateq := c.gateq ++ [⟨blockBytes s.sel.word s.sel.slot off data.length seq⟩] }
      let s := s.setCol site c
      .next { s with links := NMap.set s.links i { link with seq := seq } }

/-! ## The end of a pairing (R403) -/

/-- A pairing ends: transfers that the peer has not queued are discarded and their DONE words stay; descriptors already queued
stay. -/
def State.endPairing (s : State) (i : Nat) : State :=
  match s.links.find? (fun x => x.1 == i) with
  | none => s
  | some (_, link) =>
    let site := link.site.toNat
    let s := s.setCol site { s.col site with gateOut := [] }
    { s with links := NMap.set s.links i { link with paired := none } }

/-- LINK_FAILURE (R403): stack link `sel.link` fails. -/
def execLinkFailure (s : State) : Host.Outcome State Fault Refusal := .next (s.endPairing s.sel.link.toNat)

/-- PAIRING_END (R403): the peer's tenant is reset, or the peer unpairs, on link `sel.link`. -/
def execPairingEnd (s : State) : Host.Outcome State Fault Refusal := .next (s.endPairing s.sel.link.toNat)

end Sys2Proof.Machine
end

