-- ==== Sys2Proof/Machine/Matrix.lean ====
section
/-! DEFINITION. Matrix jobs (R17, R137, R138, R186, R187, R236, R241, R268, R362-R376): the instructions, the two arrays, the
tiles, operand faults and completion. -/

namespace Sys2Proof.Machine

/-! ## The operand record (R362) -/

/-- The extents of a record: bytes 0x30-0x3F, kept as OPSNAP. -/
structure Extents where
  m : Nat
  n : Nat
  k : Nat
  mode : BitVec 2
  acc : Bool
  cfmt : Bool
  mq : BitVec 2
  reserved : Bool
  deriving DecidableEq, Repr

/-- The extents of OPSNAP (R362). -/
def Extents.ofBits (x : BitVec 128) : Extents where
  m := (bits x 0 24).toNat
  n := (bits x 32 24).toNat
  k := (bits x 64 24).toNat
  mode := bits x 96 2
  acc := bit x 98
  cfmt := bit x 99
  mq := bits x 100 2
  reserved := bits x 24 8 != 0 || bits x 56 8 != 0 || bits x 88 8 != 0 || bits x 102 26 != 0

/-- The number of tiles in a row of tiles. -/
def Extents.cols (x : Extents) : Nat := ceilDiv x.n 32

/-- T (R364). -/
def Extents.tiles (x : Extents) : Nat := ceilDiv x.m 32 * x.cols

/-- Is the mode T8 (0), B16 (1), I8 (2) or S16 (3)? T8 runs on the sign-select array, the others on the product array (R137). -/
def Extents.signSelect (x : Extents) : Bool := x.mode == 0

/-- Do the elements of A and B have two bytes (R363)? -/
def Extents.wide (x : Extents) : Bool := x.mode == 1 || x.mode == 3

/-- The bytes of an element of A and of B, T2 trits standing in bytes (R363). -/
def Extents.elem (x : Extents) : Nat := if x.wide then 2 else 1

/-- The bytes of an element of C (R363). -/
def Extents.celem (x : Extents) : Nat := if x.cfmt then 2 else 4

/-- The addresses and strides of a record: bytes 0x00-0x2F. -/
structure Operands where
  a : BitVec 48
  b : BitVec 48
  c : BitVec 48
  mbox : BitVec 48
  sa : BitVec 32
  sb : BitVec 32
  sc : BitVec 32
  tile0 : BitVec 32
  reserved : Bool
  deriving DecidableEq, Repr

/-- The addresses and strides (R362). -/
def Operands.ofBits (x : BitVec 384) : Operands where
  a := bits x 0 48
  b := bits x 64 48
  c := bits x 128 48
  mbox := bits x 192 48
  sa := bits x 256 32
  sb := bits x 288 32
  sc := bits x 320 32
  tile0 := bits x 352 32
  reserved := bits x 48 16 != 0 || bits x 112 16 != 0 || bits x 176 16 != 0 || bits x 240 16 != 0

/-- Step 3 of R371 on a record; the rounding mode at issue. -/
def recordFields (o : Operands) (x : Extents) (rnd : Nat) : Bool :=
  !o.reserved && !x.reserved && !(x.cfmt && !x.wide) && (x.mode == 3 || x.mq == 0) &&
    !(x.mode == 3 && (x.k % 4 != 0 || 2048 < x.k)) && rnd < 5

/-- Step 4 of R371. -/
def recordAligned (o : Operands) (x : Extents) : Bool :=
  aligned o.a.toNat x.elem && aligned o.sa.toNat x.elem && aligned o.b.toNat x.elem && aligned o.sb.toNat x.elem &&
    aligned o.c.toNat x.celem && aligned o.sc.toNat x.celem && aligned o.mbox.toNat 8

/-! ## Job ids and the job list (R137, R369) -/

/-- The job ids of a column that are not free: those present, and those reserved by a FAULT entry or by the notice on its way
to become one. -/
def State.jobIds (s : State) (site : BitVec 10) : List (BitVec 16) :=
  ((s.col site.toNat).jobs.map (·.id)) ++
  s.rows.flatMap (fun (_, r) => (r.tickets.filter (fun x => x.site == site && x.st == .faulted)).map (fun x => bits x.ticket 0 16)) ++
  (s.jobNotes.filter (fun x => x.site == site && x.fault.isSome)).map (fun x => bits x.ticket 0 16)

/-- The first id from `i` on that is free, never 0 (R137). -/
def nextJob (used : List (BitVec 16)) : (fuel : Nat) → BitVec 16 → BitVec 16
  | 0, i => i
  | fuel + 1, i => if i == 0 || used.contains i then nextJob used fuel (i + 1) else i

/-- The entry of a ticket. -/
def Row.ticketOf (r : Row) (v : BitVec 32) : Option Ticket := r.tickets.find? (fun x => x.ticket == v)

/-- The ticket's entry taken off the list. -/
def Row.dropTicket (r : Row) (v : BitVec 32) : Row := { r with tickets := r.tickets.filter (fun x => x.ticket != v) }

/-- A seventeenth DONE entry drops the oldest (R369): the DONE entries stand in the order in which they completed. -/
def capDone (l : List Ticket) : List Ticket :=
  if (l.filter (fun x => x.st == .done)).length ≤ 16 then l
  else match l.find? (fun x => x.st == .done) with
    | some o => l.erase o
    | none => l

/-! ## MXQ and MXS (R371) -/

/-- Steps 1 to 5 of R371: the record's parts and the mailbox's address. -/
def State.jobRecord (s : State) (va : DWord) : Res (Operands × Extents × BitVec 128) :=
  if !aligned va.toNat 64 then .fault (Flt.align va false)
  else
    (s.readAs va 64).bind fun bs s =>
      let v : BitVec 512 := ofBytes 512 bs
      let o := Operands.ofBits (bits v 0 384)
      let x := Extents.ofBits (bits v 384 128)
      if !recordFields o x (s.me).rnd then .fault ⟨0x02, 0, va, false, 0⟩
      else if !recordAligned o x then .fault (Flt.align va false)
      else
        (s.dramWord (addr48 o.mbox)).bind fun _ s => .ok (o, x, bits v 384 128) s

/-- The job accepted (R186, R371 step 7): its record joins the queue and its RUNNING entry the row's list; its ticket. -/
def State.acceptJob (s : State) (va : DWord) (o : Operands) (x : Extents) (snap : BitVec 128) : BitVec 32 × State :=
  let c := s.col s.here
  let used := s.jobIds s.seat.site
  let id := nextJob used (used.length + 2) c.jobCtr
  let r := s.me
  let ticket : BitVec 32 := BitVec.ofNat 16 (indexIn (s.gridOf s.cur) s.here) ++ id
  let job : Job := ⟨id, ticket, x.mode, x.acc, false, false, s.cur, s.group, r.fmt, va, addr48 o.mbox, o.tile0, 0, 0, false, snap,
    r.priv, .queued, [], 0, [], s.releaseVec s.cur s.myField, []⟩
  let n := id + 1
  let s := s.setCol s.here { c with jobs := c.jobs ++ [job], jobCtr := if n == 0 then 1 else n }
  let r := r.dropTicket ticket
  (ticket, s.setMe { r with tickets := r.tickets ++ [⟨ticket, s.seat.site, .running, 0, none, Vector.replicate 12 0⟩] })

/-- The issue of a job (R371): the record's address stands in OPREC of a fault; `k` goes on with the ticket. -/
def State.issueJob (s : State) (va : DWord) (d : BitVec 6) (q : BitVec 3) (k : BitVec 32 → State → State) : State :=
  if s.releaseWaits then s.abandonGroup
  else
    match s.jobRecord va with
    | .ok (o, x, snap) s' =>
      let full := 16 ≤ (s'.col s'.here).jobs.length
      let owed := 16 ≤ ((s'.me).tickets.filter (fun e => e.st == .faulted)).length
      if full || owed then s'.finish (((s'.me).wg d 0).wp q false)
      else
        let (t, s') := s'.acceptJob va o x snap
        k t (s'.setMe ((s'.me).wp q true))
    | .fault f => s.raise { f with opRec := va }
    | .wait on j => s.waitRow { s.me with fill := j } on
    | .stall => s.abandonGroup
    | .miss a => (s.waitWalk s.who a).abandonGroup
    | .move site => s.startMove site s.group

/-- The acquire of a mailbox (R236). -/
def State.mailboxAcquire (s : State) (t : Ticket) : State := (s.joinDv s.cur t.vec).acquireFar s.here

/-- A completed ticket collected (R373, R268), behind every release of the row (R220): its status is written, its entry ends, and its fault, if it left one, is taken
behind the group; where the store of its record must wait, the group is left to be issued again, the entry kept. -/
def State.collect (s : State) (t : Ticket) (d : BitVec 6) (f : Row → Row) : State :=
  if s.releasing s.cur then s.abandonGroup
  else
  let a := s.mailboxAcquire t
  let a := a.finish { (f (((a.me).dropTicket t.ticket).wg d t.status)) with prog := 0 }
  match t.fault with
  | some i => (a.takeFault? s.cur { i with cpc := s.after, defer := true }).getD s.abandonGroup
  | none => a

/-- MXS once its job is accepted has the job's ticket in mind, wherever its row goes; not any more when it ends (R255, R371). -/
def Row.forgetJob (r : Row) (v : BitVec 32) : Row := if r.mxs == some v then { r with mxs := none } else r

/-- MXW on a ticket, and MXS once its job is accepted (R371, R373). -/
def State.awaitJob (s : State) (v : BitVec 32) (d : BitVec 6) : State :=
  match (s.me).ticketOf v with
  | none => s.finish { (((s.me).forgetJob v).wg d 0) with prog := 0 }
  | some t => if t.st == .running then s.waitRow { s.me with jobWait := some v } 3 else s.collect t d (fun r => r.forgetJob v)

/-- MXQ (R371). -/
def execMxq (d a : BitVec 6) (q : BitVec 3) (p : BitVec 3) (s : State) : Host.Outcome State Fault Refusal :=
  word s p fun s => s.issueJob ((s.me).rg a) d q (fun t s => s.finish ((s.me).wg d (t.setWidth 64)))

/-- The ticket of the job that an MXS issued again waits on (R255): the one it was accepted with; where PROG names another job, it is
one of the column that the row stands in. -/
def State.mxsTicket (s : State) : BitVec 32 :=
  let id := bits (s.me).prog 0 16
  match (s.me).mxs with
  | some t => if bits t 0 16 == id then t else BitVec.ofNat 16 (indexIn (s.gridOf s.cur) s.here) ++ id
  | none => BitVec.ofNat 16 (indexIn (s.gridOf s.cur) s.here) ++ id

/-- MXS (R371, R255): issued again with PROG = 0x1_0000 | job id, it waits on its job. -/
def execMxs (d a : BitVec 6) (q : BitVec 3) (p : BitVec 3) (s : State) : Host.Outcome State Fault Refusal :=
  word s p fun s =>
    let prog := (s.me).prog
    if bit prog 16 then s.awaitJob s.mxsTicket d
    else
      s.issueJob ((s.me).rg a) d q (fun t s =>
        (s.setMe { s.me with prog := 0x10000 ||| (bits t 0 16).setWidth 32, mxs := some t }).awaitJob t d)

/-- MXW (R373). -/
def execMxw (d a : BitVec 6) (p : BitVec 3) (s : State) : Host.Outcome State Fault Refusal :=
  word s p fun s => s.awaitJob (bits ((s.me).rg a) 0 32) d

/-- MXT (R373). -/
def execMxt (d a : BitVec 6) (q : BitVec 3) (p : BitVec 3) (s : State) : Host.Outcome State Fault Refusal :=
  word s p fun s =>
    let v := bits ((s.me).rg a) 0 32
    match (s.me).ticketOf v with
    | none => s.finish (((s.me).wg d 0).wp q true)
    | some t =>
      if t.st == .running then s.finish (((s.me).wg d 0).wp q false) else s.collect t d (fun r => r.wp q true)

/-- MXCAN (R375): the cancel leaves for the accepting column, and the row awaits the answer. -/
def execMxcan (a : BitVec 6) (q : BitVec 3) (p : BitVec 3) (s : State) : Host.Outcome State Fault Refusal :=
  word s p fun s =>
    match (s.me).ticketOf (bits ((s.me).rg a) 0 32) with
    | none => s.finish ((s.me).wp q false)
    | some t =>
      if t.st != .running then s.finish ((s.me).wp q false)
      else
        let s : State := { s with mxcans := s.mxcans ++ [⟨t.site, s.cur, bits t.ticket 0 16, q⟩] }
        s.awaitAnswer

/-! ## The engine's accesses (R17, R236, R363) -/

/-- The engine of a column as an agent of a job: it has the rights of the issuing row at issue, and issues loads and stores
under the rules of program rows (R17). The job waits for the walks that its accesses need (R178). -/
def Job.who (x : Job) (site : Nat) : Who := ⟨x.row.t, x.sup, site, true, some (.job (BitVec.ofNat 10 site) x.id)⟩

/-- One who has asked for walks at a span waits for none any more (R178). -/
def State.leaveQueue (s : State) (w : Who) : State :=
  match w.asker with
  | none => s
  | some a =>
    let i := spanOfSite w.site
    let x := s.span i
    if x.walkq.contains a then s.setSpan i { x with walkq := x.walkq.filter (· != a) } else s

/-- Where A, B and C may lie (R363). -/
def operandPlace (l : Loc) : Bool :=
  match l with
  | .dram _ => true
  | .aperture _ => true
  | .scratch _ => true
  | _ => false

/-- Where an access of a job may go: its operands only where A, B and C may lie, its record wherever a load may read (R362). -/
inductive JobPart where
  | operand
  | record
  deriving DecidableEq, Repr

/-- An access of a job checked; a receive window above FILL is waited for (R119). -/
def State.jobCheck (s : State) (w : Who) (part : JobPart) (use : Use) (va : DWord) (n : Nat) : Res (Loc × Attr) :=
  (s.check w use va 1).bind fun (l, attr) s =>
    if part == .operand && !operandPlace l then .fault (Flt.page 3 va use.write)
    else
      match s.fillWaitAt w.site l n with
      | .ok _ s => .ok (l, attr) s
      | _ => .stall

/-- A fault of a job's access reports the address at which it faulted (R186: FADDR). -/
def Res.faultAt {α : Type} (x : Res α) (va : DWord) : Res α :=
  match x with
  | .fault f => .fault { f with addr := va }
  | x => x

/-- `n` bytes of a job's operand or record, sector by sector. -/
def State.jobRead (s : State) (w : Who) (part : JobPart) (va : DWord) (n : Nat) : Res (List Byte) :=
  (piecesOf 32 va n).foldl (fun acc (a, m) => acc.bind fun bs s =>
    ((s.jobCheck w part .load a m).bind fun (l, attr) s =>
      (s.loadAt w l attr CacheHint.none a m).bind fun x s => .ok (bs ++ x) s).faultAt a) (.ok [] s)

/-- Several runs of bytes of operands. -/
def State.jobReads (s : State) (w : Who) (l : List (DWord × Nat)) : Res (List (List Byte)) :=
  l.foldl (fun acc (a, n) => acc.bind fun rs s => (s.jobRead w .operand a n).bind fun bs s => .ok (rs ++ [bs]) s) (.ok [] s)

/-- Runs of bytes stored, after every one of them has been checked (R187): a tile is written whole or not at all. They
wait while their field's window of outstanding writes has no room for them (R212). -/
def State.jobWrites (s : State) (w : Who) (l : List (DWord × List Byte)) : Res Unit :=
  if !s.departRoom (fieldOfSite w.site) then .stall
  else
  let parts := l.flatMap (fun (va, bs) => (piecesOf 32 va bs.length).map (fun (a, m) => (a, (bs.drop (a - va).toNat).take m)))
  let checked : Res (List (Loc × Attr × List Byte)) := parts.foldl (fun acc (a, bs) => acc.bind fun ws s =>
    (s.jobCheck w .operand .store a bs.length).bind fun (l, attr) s => .ok (ws ++ [(l, attr, bs)]) s) (.ok [] s)
  checked.bind fun ws s => .ok () (ws.foldl (fun s (l, attr, bs) => s.storeAt w .core l attr CacheHint.none bs 0) s)

/-! ## A tile (R83, R84, R364-R366) -/

/-- The flags of a status word, NV to BADMETA at bits 0 to 5 (R368). -/
def jobFlags (f : Flags) (badmeta : Bool) : BitVec 6 :=
  BitVec.ofBool badmeta ++ BitVec.ofBool f.sat ++ BitVec.ofBool f.nx ++ BitVec.ofBool f.uf ++ BitVec.ofBool f.of ++
    BitVec.ofBool f.nv

/-- Element `i` of `n` bytes of a run. -/
def elemOf (bs : List Byte) (n i : Nat) : Nat := bytesToNat ((bs.drop (n * i)).take n)

/-- One step of R83: acc := Round(acc + s, RNE) to FP32, `s` the exact sum of the group's products. -/
def floatStep (ftz : Bool) (acc : Nat × Flags) (prods : List (FVal × FVal)) : Nat × Flags :=
  let ps := prods.map (fun (a, b) => a.mul b)
  let (g, f1) := sumExact .rne (ps.map (·.1))
  let (t, f2) := sumExact .rne [FFmt.f32.read acc.1, g]
  let (r, f3) := FFmt.f32.write ⟨.rne, false, ftz⟩ t
  let sg := sigFlags (FFmt.f32.read acc.1 :: prods.flatMap (fun (a, b) => [a, b]))
  (r, Flags.orAll [acc.2, sg, Flags.orAll (ps.map (·.2)), f1, f2, f3])

/-- One step of R84: acc := Sat(acc + s, I32). -/
def intStep (acc : Int × Flags) (s : Int) : Int × Flags :=
  let (r, f) := IFmt.clamp ⟨32, true⟩ (acc.1 + s)
  (r, acc.2.or f)

/-- The k of group `g` (R83). -/
def groupKs (k g : Nat) : List Nat := (List.range (min 32 (k - 32 * g))).map (32 * g + ·)

/-- A B16 element: row `a` of A, column `j` of the rows `b` of B. -/
def b16Elem (ftz : Bool) (k : Nat) (a : List Byte) (b : List (List Byte)) (j c0 : Nat) : Nat × Flags :=
  let val (x : Nat) : FVal := FFmt.bf16.readFtz ftz x
  (List.range (ceilDiv k 32)).foldl (fun acc g =>
    floatStep ftz acc ((groupKs k g).map (fun i => (val (elemOf a 2 i), val (elemOf (b.getD i []) 2 j))))) (c0, Flags.none)

/-- The nibble of an entry for row group `r` and set `s` of its K group: i0 and i1 (R366). -/
def metaNibble (e : BitVec 128) (r s : Nat) : Nat × Nat :=
  ((bits e (32 * r + 4 * s) 2).toNat, (bits e (32 * r + 4 * s + 2) 2).toNat)

/-- The pairs (compressed element, k) that group `g` keeps for row group `r` (R366). -/
def keptPairs (k g r : Nat) (e : BitVec 128) : List (Nat × Nat) :=
  ((List.range 8).filter (fun s => 8 * g + s < k / 4)).flatMap (fun s =>
    let (i0, i1) := metaNibble e r s
    if i1 ≤ i0 then [] else [(2 * (8 * g + s), 32 * g + 4 * s + i0), (2 * (8 * g + s) + 1, 32 * g + 4 * s + i1)])

/-- Does a nibble that is read keep no product (R366)? `rows` counts the rows of the tile. -/
def badMeta (k rows : Nat) (kept : List (BitVec 128)) : Bool :=
  ((List.range kept.length).zip kept).any (fun (g, e) =>
    (List.range 4).any (fun r => 8 * r < rows && (List.range 8).any (fun s =>
      8 * g + s < k / 4 && (let (i0, i1) := metaNibble e r s; i1 ≤ i0))))

/-- An S16 element. -/
def s16Elem (ftz : Bool) (k r : Nat) (kept : List (BitVec 128)) (a : List Byte) (b : List (List Byte)) (j c0 : Nat) : Nat × Flags :=
  let val (x : Nat) : FVal := FFmt.bf16.readFtz ftz x
  ((List.range kept.length).zip kept).foldl (fun acc (g, e) =>
    floatStep ftz acc ((keptPairs k g r e).map (fun (t, i) => (val (elemOf a 2 t), val (elemOf (b.getD i []) 2 j))))) (c0, Flags.none)

/-- A T8 or an I8 element. -/
def intElem (trits : Bool) (k : Nat) (a : List Byte) (b : List (List Byte)) (j : Nat) (c0 : Int) : Int × Flags :=
  let i8 : IFmt := ⟨8, true⟩
  let av (i : Nat) : Int × Bool :=
    if trits then readTrit ((a.getD (i / 4) 0).toNat / 4 ^ (i % 4) % 4) else (i8.read (elemOf a 1 i), false)
  (List.range (ceilDiv k 32)).foldl (fun acc g =>
    let ks := groupKs k g
    let sum := (ks.map (fun i => (av i).1 * i8.read (elemOf (b.getD i []) 1 j))).foldl (· + ·) 0
    let (r, f) := intStep acc sum
    (r, f.or (Flags.nvIf (ks.any (fun i => (av i).2))))) (c0, Flags.none)

/-- The bytes of one element of C (R364): its accumulation from the element as stored, or from +0. -/
def tileElem (x : Extents) (fmtcap : BitVec 9) (kept : List (BitVec 128)) (r : Nat) (a : List Byte) (b : List (List Byte))
    (j : Nat) (cOld : Nat) : List Byte × Flags :=
  if x.wide then
    let ftz := bit fmtcap 8
    let c0 := if x.acc then (if x.cfmt then (FFmt.f32.write ⟨.rne, false, false⟩ (FFmt.bf16.read cOld)).1 else cOld) else 0
    let c0fl := if x.acc && x.cfmt then sigFlags [FFmt.bf16.read cOld] else Flags.none
    let (v, f) := if x.mode == 3 then s16Elem ftz x.k (r / 8) kept a b j c0 else b16Elem ftz x.k a b j c0
    if x.cfmt then
      let (w, f2) := FFmt.bf16.write ⟨modeOf (bits fmtcap 4 3).toNat, false, ftz⟩ (FFmt.f32.read v)
      (natToBytes 2 w, Flags.orAll [c0fl, f, f2])
    else (natToBytes 4 v, f)
  else
    let i32 : IFmt := ⟨32, true⟩
    let (v, f) := intElem x.signSelect x.k a b j (if x.acc then i32.read cOld else 0)
    (natToBytes 4 (i32.wrap v), f)

/-- The run of bytes of a row of an operand. -/
def rowVa (base : BitVec 48) (stride : BitVec 32) (i off : Nat) : DWord :=
  addr48 base + BitVec.ofNat 64 (i * stride.toNat + off)

/-- The record's bytes 0x00-0x2F, read at the start (R362). -/
def State.jobOperands (s : State) (site : Nat) (x : Job) : Res (List Byte) :=
  if x.oprec.isEmpty then s.jobRead (x.who site) .record x.opRec 48 else .ok x.oprec s

/-- Tile PROGW of a job computed and written (R187, R364): a fault leaves C as it was. -/
def State.jobTile (s : State) (site : Nat) (x : Job) : Res Job :=
  let e := Extents.ofBits x.opsnap
  let w := x.who site
  (s.jobOperands site x).bind fun rb s =>
    let o := Operands.ofBits (ofBytes 384 rb)
    let i0 := 32 * (x.progw.toNat / e.cols)
    let j0 := 32 * (x.progw.toNat % e.cols)
    let rows := min 32 (e.m - i0)
    let cols := min 32 (e.n - j0)
    let abytes := if e.signSelect then ceilDiv e.k 4 else if e.mode == 3 then e.k else e.elem * e.k
    if e.mode == 3 && x.kept.length < ceilDiv e.k 32 then .stall
    else
      (s.jobReads w (if e.k == 0 then [] else (List.range rows).map (fun i => (rowVa o.a o.sa (i0 + i) 0, abytes)))).bind fun as s =>
      (s.jobReads w ((List.range e.k).map (fun k => (rowVa o.b o.sb k (e.elem * j0), e.elem * cols)))).bind fun bs s =>
      (s.jobReads w (if e.acc then (List.range rows).map (fun i => (rowVa o.c o.sc (i0 + i) (e.celem * j0), e.celem * cols)) else [])).bind
        fun cs s =>
        let out := (List.range rows).map (fun i => (List.range cols).map (fun j =>
          tileElem e x.fmtcap x.kept i (as.getD i []) bs j (elemOf (cs.getD i []) e.celem j)))
        let fl := Flags.orAll (out.flatMap (fun r => r.map (·.2)))
        let writes := ((List.range rows).zip out).map (fun (i, r) =>
          (rowVa o.c o.sc (i0 + i) (e.celem * j0), r.flatMap (·.1)))
        (s.jobWrites w writes).bind fun _ s =>
          .ok { x with oprec := rb
                       progw := x.progw + 1
                       flags := x.flags ||| jobFlags fl (badMeta e.k rows x.kept)
                       kept := [] } s

/-! ## The arrays (R137, R138, R366, R367) -/

/-- The job `sel.k` of column `sel.site`. -/
def State.selJob (s : State) : Option Job := (s.col s.sel.site.toNat).jobs[s.sel.k]?

/-- The job `sel.k` of column `sel.site` replaced. -/
def State.setJob (s : State) (x : Job) : State :=
  let c := s.col s.sel.site.toNat
  s.setCol s.sel.site.toNat { c with jobs := c.jobs.set s.sel.k x }

/-- Is the tenant being stopped, stopped or being reset: its jobs neither start nor begin a tile (R273, R276)? -/
def Tenant.held (x : Tenant) : Bool := x.st != .active

/-- JOB_START (R137, R17, R362, R367): an array, the sign-select array where `sel.arr`, starts the first queued job of its
modes once its previous job has left it; the kick is the engine's acquire (R236). Zero extents end the job at once (log entry 56, DEDUCED). -/
def execJobStart (s : State) : Host.Outcome State Fault Refusal :=
  let site := s.sel.site.toNat
  let c := s.col site
  let mine (x : Job) : Bool := (Extents.ofBits x.opsnap).signSelect == s.sel.arr
  if c.jobs.any (fun x => mine x && (x.st == .running || x.st == .suspended)) then .next s
  else
    match (List.range c.jobs.length).find? (fun i => match c.jobs[i]? with | some x => mine x && x.st == .queued | none => false) with
    | none => .next s
    | some i =>
      match c.jobs[i]? with
      | none => .next s
      | some x =>
        if (s.ten x.row.t).held then .next s
        else
          let e := Extents.ofBits x.opsnap
          let put (s : State) (y : Job) : State :=
            let c := s.col site
            s.setCol site { c with jobs := c.jobs.set i y }
          if e.m == 0 || e.n == 0 then .next (put s { x with st := .finished, progw := 0 })
          else if e.tiles ≤ x.progw.toNat then .next (put s { x with st := .finished })
          else if e.k == 0 && e.acc then .next (put s { x with st := .finished, progw := BitVec.ofNat 32 e.tiles })
          else
            match (s.acquireFar site).jobRead (x.who site) .record x.opRec 48 with
            | .ok bs s => .next (put s { x with st := .running, oprec := bs })
            | .miss va => .next ((put (s.acquireFar site) { x with st := .running }).waitWalk (x.who site) va)
            | _ => .next (put (s.acquireFar site) { x with st := .running })

/-- The metadata entries that an S16 job still lacks for its tile, as far as its queue holds them (R366). -/
def State.takeMeta (s : State) (x : Job) : State × Job :=
  let e := Extents.ofBits x.opsnap
  if e.mode != 3 then (s, x)
  else
    let c := s.col s.sel.site.toNat
    let q := c.mq[e.mq.toNat]
    let n := ceilDiv e.k 32 - x.kept.length
    let x := { x with kept := x.kept ++ q.take n }
    let s := s.setCol s.sel.site.toNat { c with mq := c.mq.set e.mq.toNat (q.drop n) }
    (s.setJob x, x)

/-- TILE_COMPLETE (R83, R84, R187, R364-R366): the running job `sel.k` of column `sel.site` computes its tile and writes it. A
job that stalls or whose operand faults completes none, and one that needs a walk waits for it (R178). At a tile boundary a cancel (R375) or a stop (R273) takes hold
(log entry 56, DEDUCED). -/
def execTileComplete (s : State) : Host.Outcome State Fault Refusal :=
  match s.selJob with
  | none => .next s
  | some x =>
    if x.st != .running then .next s
    else
      let (s, x) := s.takeMeta x
      match s.jobTile s.sel.site.toNat x with
      | .ok y s' =>
        let ended := (Extents.ofBits y.opsnap).tiles ≤ y.progw.toNat || y.cancel
        let st : JobSt := if ended then .finished else if (s'.ten y.row.t).held then .suspended else .running
        .next ((s'.leaveQueue (x.who s.sel.site.toNat)).setJob { y with st := st, walked := [] })
      | .miss va => .next (s.waitWalk (x.who s.sel.site.toNat) va)
      | _ => .next s

/-! ## Operand faults (R371, R372, R187) -/

/-- The fault that a job leaves pending on its row (R241, R262, R268). -/
def Job.faultInfo (x : Job) : FaultInfo :=
  ⟨0x0C, bits x.fcode 0 8, 4, x.fwrite, true, x.ipc, 0, x.faddr, x.opRec, x.progw, x.id⟩

/-- OPERAND_FAULT (R371): the running job `sel.k` of column `sel.site` meets a fault at an operand: it is suspended with a
notice where the fault is resolvable, and ends FAULT otherwise; a cancelled job ends. -/
def execOperandFault (s : State) : Host.Outcome State Fault Refusal :=
  match s.selJob with
  | none => .next s
  | some x =>
    if x.st != .running then .next s
    else
      let site := s.sel.site.toNat
      let (s, x) := s.takeMeta x
      match s.jobTile site x with
      | .miss va => .next (s.waitWalk (x.who site) va)
      | .fault f =>
        let s := s.leaveQueue (x.who site)
        let t := s.ten x.row.t
        let y : Job := { x with walked := [], fcode := (f.sub ++ f.code).setWidth 32, faddr := f.addr, fwrite := f.write }
        if x.cancel then .next (s.setJob { x with st := .finished })
        else if f.code == 0x05 && f.sub == 1 && bit t.fpol 4 then
          let r := s.row x.row
          let d := s.dir x.row
          let bytes := recordBytes { y.faultInfo with cpc := r.pc } x.row.t x.row.n r.launch ⟨d.site, d.bank⟩
            (s.timeAt d.site.toNat) x.sup true false false false
          .next ((s.setJob { y with st := .suspended }).setTen x.row.t { t with fqWait := t.fqWait ++ [bytes] })
        else .next (s.setJob { y with defer := true, st := .finished })
      | _ => .next s

/-! ## Cancels at the column (R375) -/

/-- Does a running S16 job stall: its tile lacks entries that its queue does not hold (R138)? -/
def Column.stalled (c : Column) (x : Job) : Bool :=
  let e := Extents.ofBits x.opsnap
  e.mode == 3 && x.kept.length + (c.mq[e.mq.toNat]).length < ceilDiv e.k 32

/-- MXCAN_AT_COLUMN (R375): cancel `sel.k` reaches its column. A queued, suspended or stalled job stops at once, a running one
at its next tile boundary; a job whose last tile was written, or which has ended, is not cancelled. -/
def execMxcanAtColumn (s : State) : Host.Outcome State Fault Refusal :=
  match s.mxcans[s.sel.k]? with
  | none => .next s
  | some m =>
    let s : State := { s with mxcans := s.mxcans.eraseIdx s.sel.k }
    let c := s.col m.site.toNat
    match c.jobs.find? (fun x => x.id == m.job && x.row == m.row) with
    | none => .next (s.answer m.row (fun r => r.wp m.pd false))
    | some x =>
      if x.st == .finished then .next (s.answer m.row (fun r => r.wp m.pd x.cancel))
      else
        let st : JobSt := if x.st == .running && !c.stalled x then .running else .finished
        let jobs := c.jobs.map (fun y => if y.id == m.job && y.row == m.row then { y with cancel := true, st := st } else y)
        .next ((s.setCol m.site.toNat { c with jobs := jobs }).answer m.row (fun r => r.wp m.pd true))

/-! ## Completion (R17, R368, R369) -/

/-- The status word of a job that has ended (R368). -/
def Job.status (x : Job) (reset : Bool) : DWord :=
  let code : BitVec 4 := if reset then 3 else if x.defer then 2 else if x.cancel then 3 else 1
  x.progw ++ x.id ++ 0#5 ++ BitVec.ofBool reset ++ x.flags ++ code

/-- The job off its queue, and its notice on the way to its row (R369). -/
def State.noteJob (s : State) (site : Nat) (x : Job) (reset : Bool) (v : Vector (BitVec 32) 12) : State :=
  let s := s.leaveQueue (x.who site)
  let c := s.col site
  let fault := if x.defer && !reset then some x.faultInfo else none
  { s.setCol site { c with jobs := c.jobs.filter (fun y => y.id != x.id) } with
    jobNotes := s.jobNotes ++ [⟨x.row, x.ticket, BitVec.ofNat 10 site, x.status reset, fault, v⟩] }

/-- The end of a job (R17, R369): the mailbox's store-release, behind the write-back of C (R223, R236), and the notice; none
while the release may not become visible yet, or its field's window of outstanding writes has no room (R212). A mailbox that no longer translates to DRAM is not written. -/
def State.endJob (s : State) (site : Nat) (x : Job) (reset : Bool) : Option State :=
  let s := s.releaseFar site
  let v := s.unitVec (fieldOfSite site) x.vec
  if !s.departRoom (fieldOfSite site) then none
  else
  match s.check (x.who site) .store x.mbox 8 with
  | .ok (.dram pa, attr) s' =>
    if covers (s'.field (homeField pa)).fav v then
      some ((s'.applyRelease x.row site (.dram pa) attr CacheHint.none (toBytes 8 (x.status reset)) (some v) true).noteJob site x
        reset v)
    else none
  | .ok _ _ => some (s.noteJob site x reset v)
  | .fault _ => some (s.noteJob site x reset v)
  | _ => none

/-- JOB_COMPLETION (R17, R187, R236, R367, R368): job `sel.k` of column `sel.site` has ended: the engine performs its mailbox
store-release, behind the walk that it may need (R178). No mailbox of a tenant that is stopped is written (R273). -/
def execJobCompletion (s : State) : Host.Outcome State Fault Refusal :=
  match s.selJob with
  | none => .next s
  | some x =>
    if x.st != .finished || (s.ten x.row.t).held then .next s
    else
      let w := x.who s.sel.site.toNat
      match s.check w .store x.mbox 8 with
      | .miss va => .next (s.waitWalk w va)
      | _ => .next ((s.endJob s.sel.site.toNat x false).getD s)

/-- COMPLETION_NOTICE (R369): notice `sel.k` reaches its row: its entry becomes DONE or FAULT, and a row that waits on it, or a
HALT that waits for a job, is woken. -/
def execCompletionNotice (s : State) : Host.Outcome State Fault Refusal :=
  match s.jobNotes[s.sel.k]? with
  | none => .next s
  | some m =>
    let s : State := { s with jobNotes := s.jobNotes.eraseIdx s.sel.k }
    let r := s.row m.row
    let st : TicketSt := if m.fault.isSome then .faulted else .done
    let put (x : Ticket) : Ticket := { x with st := st, status := m.status, fault := m.fault, vec := m.vec }
    let l := r.tickets.map (fun x => if x.ticket == m.ticket then put x else x)
    let last := l.filter (fun x => x.ticket == m.ticket && x.st == .done)
    let l := l.filter (fun x => !(x.ticket == m.ticket && x.st == .done)) ++ last
    let s := s.setRow m.row { r with tickets := capDone l }
    let mine := match r.jobWait with | some v => v == m.ticket | none => true
    .next (if r.waiton == 3 && mine then s.wakeRow m.row else s)

end Sys2Proof.Machine
end

