-- ==== Sys2Proof/Machine/Tree.lean ====
section
/-! DEFINITION. The summary trees in memory and the arithmetic of the walker (R189-R195, R421). -/

namespace Sys2Proof.Machine

/-! ## Arithmetic (R191): subnormals are kept, a NaN is the canonical NaN and sets NV -/

/-- A rounding of the walker: neither SAT nor FTZ reaches it. -/
def wkCtl (m : Mode) : RoundCtl := ⟨m, false, false⟩

/-- The value of an FP32 encoding. -/
def f32v (x : Nat) : FVal := FFmt.f32.read x

/-- The value of a BF16 encoding. -/
def bf16v (x : Nat) : FVal := FFmt.bf16.read x

/-- A result and whether a NaN arose in it. -/
structure Arith where
  x : Nat
  nv : Bool
  deriving DecidableEq, Repr

/-- A rounded result of a format. -/
def Arith.of (f : FFmt) (r : Nat × Flags) : Arith := ⟨r.1, r.2.nv || (f.read r.1).isNan⟩

/-- Norm(a − b) of BF16 vectors (R191): exact differences and squares, one rounding up to FP32. -/
def treeNorm (a b : List Nat) : Arith :=
  let ds := List.zipWith (fun x y => sumExact .rne [bf16v x, (bf16v y).negate]) a b
  let sq := ds.map (fun d => d.1.mul d.1)
  let (s, fl) := sumExact .rne (sq.map (·.1))
  let r := fSqrt .f32 (wkCtl .rup) s
  let nv := fl.nv || ds.any (fun d => d.2.nv || d.1.isNan)
  let y := Arith.of .f32 r
  ⟨y.x, y.nv || nv⟩

/-- Norm(x) (R191). -/
def treeNorm0 (a : List Nat) : Arith := treeNorm a (a.map (fun _ => 0))

/-- Dot(q, x): fused, rounded once to FP32 (R192). -/
def treeDot (q x : List Nat) : Arith :=
  Arith.of .f32 (fusedSum .f32 (wkCtl .rne) [] (List.zipWith (fun a b => (bf16v a, bf16v b)) q x))

/-- Round(a + b) of FP32 values. -/
def treeAdd (m : Mode) (a b : Nat) : Arith := Arith.of .f32 (fAdd .f32 (wkCtl m) (f32v a) (f32v b))

/-- Round(a − b) of FP32 values. -/
def treeSub (m : Mode) (a b : Nat) : Arith := Arith.of .f32 (fSub .f32 (wkCtl m) (f32v a) (f32v b))

/-- max (R79). -/
def treeMax (a b : Nat) : Arith := Arith.of .f32 (fMinMax .f32 true false a b)

/-- Exp2 (R192). -/
def treeExp2 (a : Nat) : Arith := Arith.of .f32 (sfu .exp2 .f32 (wkCtl .rne) (f32v a))

/-- A BF16 value widened to FP32. -/
def treeWiden (a : Nat) : Arith := Arith.of .f32 (FFmt.f32.write (wkCtl .rne) (bf16v a))

/-- Round(sum / count, RNE) to BF16 (R191). -/
def treeMean (sum count : Nat) : Arith :=
  Arith.of .bf16 (fDiv .bf16 (wkCtl .rne) (f32v sum) (FVal.ofInt count))

/-- The results of a list of operations. -/
def Arith.list (l : List Arith) : List Nat × Bool := (l.map (·.x), l.any (·.nv))

/-! ## Nodes (R190) -/

/-- A node with its sum record. -/
structure TNode where
  kind : Nat
  lvl : Nat
  nch : Nat
  count : Nat
  rho : Nat
  parent : Nat
  kptr : BitVec 48
  vptr : BitVec 48
  child : List Nat
  cent : List Nat
  ksum : List Nat
  vsum : List Nat
  meanv : List Nat
  deriving DecidableEq, Repr

/-- No node (R189, R190). -/
def noNode : Nat := 0xFFFFFFFF

/-- `n` bytes of a list at an offset, as a number. -/
def natAt (bs : List Byte) (o n : Nat) : Nat := bytesToNat ((bs.drop o).take n)

/-- `k` elements of `n` bytes from an offset. -/
def elemsAt (bs : List Byte) (o n k : Nat) : List Nat := (List.range k).map (fun i => natAt bs (o + n * i) n)

/-- A node without its sum record, from its 256 bytes. -/
def TNode.ofBytes (d : Nat) (bs : List Byte) : TNode :=
  let w := natAt bs 0 4
  { kind := w % 4, lvl := w / 16 % 16, nch := w / 256 % 32, count := natAt bs 4 4, rho := natAt bs 8 4,
    parent := natAt bs 12 4, kptr := BitVec.ofNat 48 (natAt bs 0x10 6), vptr := BitVec.ofNat 48 (natAt bs 0x18 6),
    child := elemsAt bs 0x10 4 16, cent := elemsAt bs 0x50 2 d, ksum := [], vsum := [], meanv := [] }

/-- The node with its sum record, from the record's 768 bytes. -/
def TNode.withSums (x : TNode) (d dv : Nat) (bs : List Byte) : TNode :=
  { x with ksum := elemsAt bs 0 4 d, vsum := elemsAt bs 0x100 4 dv, meanv := elemsAt bs 0x200 2 dv }

/-- Elements of `n` bytes, with +0 up to `k` of them. -/
def elemBytes (n k : Nat) (l : List Nat) : List Byte :=
  (l ++ List.replicate (k - l.length) 0).flatMap (fun v => natToBytes n v)

/-- The 256 bytes of a node: reserved bytes 0 (R190). -/
def TNode.bytes (x : TNode) : List Byte :=
  natToBytes 4 (x.kind + 16 * x.lvl + 256 * x.nch) ++ natToBytes 4 x.count ++ natToBytes 4 x.rho ++ natToBytes 4 x.parent ++
  (if x.kind == 1 then natToBytes 8 x.kptr.toNat ++ natToBytes 8 x.vptr.toNat ++ List.replicate 48 0
   else elemBytes 4 16 x.child) ++
  elemBytes 2 64 x.cent ++ List.replicate 48 0

/-- The 768 bytes of a sum record. -/
def TNode.sumBytes (x : TNode) : List Byte :=
  elemBytes 4 64 x.ksum ++ elemBytes 4 64 x.vsum ++ elemBytes 2 64 x.meanv ++ List.replicate 128 0

/-- CENT and MEANV of a node from its sums (R191). -/
def TNode.derive (x : TNode) : TNode × Bool :=
  let (c, n1) := Arith.list (x.ksum.map (fun s => treeMean s x.count))
  let (v, n2) := Arith.list (x.vsum.map (fun s => treeMean s x.count))
  ({ x with cent := c, meanv := v }, n1 || n2)

/-- Upkeep(X, k, v) (R194). -/
def TNode.upkeep (x : TNode) (k v : List Nat) : TNode × Bool :=
  let addB (a b : Nat) : Arith := Arith.of .f32 (fAdd .f32 (wkCtl .rne) (f32v a) (bf16v b))
  let (ks, n1) := Arith.list (List.zipWith addB x.ksum k)
  let (vs, n2) := Arith.list (List.zipWith addB x.vsum v)
  let (y, n3) := ({ x with count := (x.count + 1) % 2 ^ 32, ksum := ks, vsum := vs } : TNode).derive
  let move := treeNorm y.cent x.cent
  let far := treeNorm k y.cent
  let r := treeAdd .rup x.rho move.x
  let m := treeMax r.x far.x
  ({ y with rho := m.x }, n1 || n2 || n3 || move.nv || far.nv || r.nv || m.nv)

/-- NewLeaf (R194). -/
def TNode.leaf (k v : List Nat) (kptr vptr : BitVec 48) : TNode × Bool :=
  let (ks, n1) := Arith.list (k.map treeWiden)
  let (vs, n2) := Arith.list (v.map treeWiden)
  (⟨1, 0, 1, 1, 0, noNode, kptr, vptr, [], k, ks, vs, v⟩, n1 || n2)

/-- NewInternal of one child (R194). -/
def TNode.over (c : TNode) (i : Nat) : TNode :=
  { c with kind := 2, lvl := c.lvl + 1, nch := 1, parent := noNode, child := [i] }

/-- The sums of several lists of FP32 values in their order, each addition rounded (R194, R195). -/
def treeSums (l : List (List Nat)) : List Nat × Bool :=
  match l with
  | [] => ([], false)
  | x :: xs => xs.foldl (fun (acc, nv) y =>
      let (r, n) := Arith.list (List.zipWith (treeAdd .rne) acc y)
      (r, nv || n)) (x, false)

/-- The greatest of FP32 values (R79). -/
def treeMaxAll (l : List Arith) : Arith :=
  match l with
  | [] => ⟨0, false⟩
  | x :: xs => xs.foldl (fun acc y => let m := treeMax acc.x y.x; ⟨m.x, acc.nv || y.nv || m.nv⟩) x

/-- An internal node over children: NewRoot (R194) and the levels of a rebuild (R195). -/
def TNode.parentOf (l : List (Nat × TNode)) : TNode × Bool :=
  let ns := l.map (·.2)
  let (ks, n1) := treeSums (ns.map (·.ksum))
  let (vs, n2) := treeSums (ns.map (·.vsum))
  let x : TNode := ⟨2, (ns.headD ⟨0, 0, 0, 0, 0, 0, 0, 0, [], [], [], [], []⟩).lvl + 1, l.length, (ns.foldl (fun c y => c + y.count) 0) % 2 ^ 32, 0,
    noNode, 0, 0, l.map (·.1), [], ks, vs, []⟩
  let (y, n3) := x.derive
  let m := treeMaxAll (ns.map (fun c =>
    let d := treeNorm c.cent y.cent
    let r := treeAdd .rup c.rho d.x
    ⟨r.x, r.nv || d.nv⟩))
  ({ y with rho := m.x }, n1 || n2 || n3 || m.nv)

/-- A leaf of a rebuild (R195). -/
def TNode.rebuiltLeaf (ks vs : List (List Nat)) (kptr vptr : BitVec 48) : TNode × Bool :=
  let wide (l : List (List Nat)) : List (List Nat) × Bool :=
    let r := l.map (fun e => Arith.list (e.map treeWiden))
    (r.map (·.1), r.any (·.2))
  let (kw, n1) := wide ks
  let (vw, n2) := wide vs
  let (sk, n3) := treeSums kw
  let (sv, n4) := treeSums vw
  let x : TNode := ⟨1, 0, ks.length, ks.length, 0, noNode, kptr, vptr, [], [], sk, sv, []⟩
  let (y, n5) := x.derive
  let m := treeMaxAll (ks.map (fun k => treeNorm k y.cent))
  ({ y with rho := m.x }, n1 || n2 || n3 || n4 || n5 || m.nv)

/-! ## The descriptor (R189) -/

/-- A tree descriptor. -/
structure Tree where
  d : Nat
  dv : Nat
  fan : Nat
  ver : Nat
  nkeys : Nat
  root : Nat
  height : Nat
  nnodes : Nat
  capn : Nat
  capk : Nat
  tail : Nat
  nbase : BitVec 48
  sbase : BitVec 48
  kbase : BitVec 48
  vbase : BitVec 48
  deriving DecidableEq, Repr

/-- The fields of a descriptor's first 64 bytes. HEIGHT is read and written as its whole word, so that step 3 of R202 finds a
HEIGHT above 15 (log entry 55, DEDUCED). -/
def Tree.ofBytes (bs : List Byte) : Tree :=
  let w := natAt bs 0 4
  let va (o : Nat) : BitVec 48 := BitVec.ofNat 48 (natAt bs o 6)
  { d := w % 128, dv := w / 256 % 128, fan := w / 2 ^ 16 % 4, ver := w / 2 ^ 24, nkeys := natAt bs 4 4, root := natAt bs 8 4,
    height := natAt bs 0xC 4, nnodes := natAt bs 0x10 4, capn := natAt bs 0x14 4, capk := natAt bs 0x18 4,
    tail := natAt bs 0x1C 4, nbase := va 0x20, sbase := va 0x28, kbase := va 0x30, vbase := va 0x38 }

/-- F (R189). -/
def Tree.width (t : Tree) : Nat := 4 * 2 ^ t.fan

/-- The checks of step 3 of R202 on a descriptor, against the FAN of an OTCFG. -/
def Tree.ok (t : Tree) (otcfg : BitVec 32) : Bool :=
  t.ver == 1 && 1 ≤ t.d && t.d ≤ 64 && 1 ≤ t.dv && t.dv ≤ 64 && t.fan != 3 && t.fan == (bits otcfg 0 2).toNat &&
  t.height ≤ 15 && aligned t.nbase.toNat 256 && aligned t.sbase.toNat 256

/-- The address of node `n`. -/
def Tree.nodeVa (t : Tree) (n : Nat) : DWord := addr48 t.nbase + BitVec.ofNat 64 (256 * n)

/-- The address of the sum record of node `n`. -/
def Tree.sumVa (t : Tree) (n : Nat) : DWord := addr48 t.sbase + BitVec.ofNat 64 (768 * n)

/-- The address of key `i`. -/
def Tree.keyVa (t : Tree) (i : Nat) : DWord := addr48 t.kbase + BitVec.ofNat 64 (2 * t.d * i)

/-- The address of value `i`. -/
def Tree.valVa (t : Tree) (i : Nat) : DWord := addr48 t.vbase + BitVec.ofNat 64 (2 * t.dv * i)

/-- The fields that an append or a rebuild writes, with their offsets in the descriptor (R189). -/
def Tree.updates (t : Tree) : List (Nat × List Byte) :=
  [(4, natToBytes 4 t.nkeys ++ natToBytes 4 t.root ++ natToBytes 4 t.height ++ natToBytes 4 t.nnodes), (0x1C, natToBytes 4 t.tail)]

end Sys2Proof.Machine
end

