-- ==== Sys2Proof/Machine/Walker.lean ====
section
/-! DEFINITION. The walker (R139, R189-R203, R421, R431, R432): requests, the tree lock, walks, appends and rebuilds. -/

namespace Sys2Proof.Machine

/-! ## What the walker reads and writes -/

/-- Why a request ends early: the CODE (2 FORMAT, 3 PAGE, 4 FULL), FADDR and the walk's subcode (R193, R194, R197). -/
structure WErr where
  code : Nat
  addr : DWord
  sub : BitVec 8
  deriving DecidableEq, Repr

/-- The pieces of [va, va + n), each within one 256-byte line. -/
def linePieces (va : DWord) (n : Nat) : List (DWord × Nat) := piecesOf 256 va n

/-- An address as the walker translates it, by the tenant's page tables: a place of DRAM of slots 0-959, or the subcode of PAGE (R189,
R193, R197). The record at DST alone (`dst`) goes wherever a store may: to the host window (R389) and, where the directory holds the
row, to the control window (R109, R110) too; not to an aperture (R127). With the place goes what the page makes of its line at the
home (R107). -/
def State.treePa (s : State) (t : BitVec 4) (sup write dst : Bool) (va : DWord) : Except Nat (Loc × Keep) :=
  if !canonical va then .error 1
  else
    match s.walk t (va48 va) with
    | .error n => .error n
    | .ok e =>
      if (write && !e.attr.w) || (e.attr.sup && !sup) then .error 2
      else
        match s.locate ⟨t, sup, 0, false, none⟩ (e.frame + va48 va % 2 ^ e.lg) e.attr with
        | .error n => .error n
        | .ok l =>
          let ok : Except Nat (Loc × Keep) := .ok (l, keepOf e.attr CacheHint.none)
          match l with
          | .dram _ => ok
          | .host _ => if dst then ok else .error 3
          | .rcb k _ => if dst && s.held k then ok else .error 3
          | .rowSpace k _ => if dst && s.held k then ok else .error 3
          | .aperture _ => .error (if dst then 4 else 3)
          | _ => .error 3

/-- An address that does not translate ends a request with PAGE; an entry of its tables with an uncorrected error has no subcode
of PAGE (R193, R270). -/
def WErr.page (va : DWord) (n : Nat) : WErr := ⟨3, va, if n == 0x0E02 then 0 else BitVec.ofNat 8 n⟩

/-- `n` bytes read at their homes for a request; an uncorrected error ends it with PAGE too (R193, R270). -/
def State.treeRead (s : State) (t : BitVec 4) (sup : Bool) (va : DWord) (n : Nat) : Except WErr (List Byte) :=
  (linePieces va n).foldl (fun acc (a, m) =>
    match acc with
    | .error e => .error e
    | .ok bs =>
      match s.treePa t sup false false a with
      | .error k => .error (WErr.page a k)
      | .ok (.dram pa, _) =>
        let s := s.merge (pa / 256) none
        if s.homeBad pa m then .error ⟨3, a, 0⟩ else .ok (bs ++ s.homeBytes pa m)
      | .ok _ => .error (WErr.page a 3)) (.ok [])

/-- A list of writes translated: the pieces with their places; a page that does not translate, or is not
writable, ends the request with PAGE (R194). `dst` says that they are the record's. -/
def State.treePlan (s : State) (t : BitVec 4) (sup dst : Bool) (l : List (DWord × List Byte)) :
    Except WErr (List ((Loc × Keep) × List Byte)) :=
  l.foldl (fun acc (va, bs) =>
    (linePieces va bs.length).foldl (fun acc (a, m) =>
      match acc with
      | .error e => .error e
      | .ok ws =>
        match s.treePa t sup true dst a with
        | .error k => .error (WErr.page a k)
        | .ok x => .ok (ws ++ [(x, (bs.drop (a - va).toNat).take m)])) acc) (.ok [])

/-- A write of a record into the control window leaves the walker's field `f` for its row's port (R87, R110), word by word, with the
right captured at acceptance; one that the row refuses (R89) is dropped, no row waiting for it (log entry 97, DESIGN CHOICE). The last
one carries the vector of the release (R199). -/
def State.recordOut (s : State) (f : Nat) (sup : Bool) (k : RowKey) (rcb : Bool) (off : Nat) (data : List Byte)
    (vec : Option (Vector (BitVec 32) 12)) : State :=
  (List.range (data.length / 4)).foldl (fun s j =>
    let (s, num) := s.depart f (fieldOfSite (s.dir k).site.toNat) false
    { s with outside := s.outside ++ [⟨k, 0, vec.isSome, rcb, off + 4 * j, (data.drop (4 * j)).take 4, .core, sup, vec, num⟩] }) s

/-- Writes of a walker performed at their homes (R199); they leave the walker's field with numbers (R224). Those of a record in the
host window are performed in host memory (R389), those in the control window leave for their rows. -/
def State.treeWrite (s : State) (f : Nat) (sup : Bool) (l : List ((Loc × Keep) × List Byte)) : State :=
  l.foldl (fun s ((a, keep), bs) =>
    match a with
    | .dram pa =>
      let s := ((s.recall (pa / 256) none).homeWrite pa bs true).keepLine pa keep
      (s.depart f (homeField pa) true).1
    | .host h => { s with host := s.host.writeBytes h bs }
    | .rcb k o => s.recordOut f sup k true o bs none
    | .rowSpace k o => s.recordOut f sup k false o bs none
    | _ => s) s

/-- A record's last write performed as a release with its vector (R197, R199). -/
def State.treeRelease (s : State) (f : Nat) (sup : Bool) (a : Loc × Keep) (bs : List Byte) (v : Vector (BitVec 32) 12) : State :=
  match a.1 with
  | .dram pa => (s.treeWrite f sup [(a, bs)]).carry pa bs.length v
  | .rcb k o => s.recordOut f sup k true o bs (some v)
  | .rowSpace k o => s.recordOut f sup k false o bs (some v)
  | _ => s.treeWrite f sup [(a, bs)]

/-- The field of the home of a record's last write, where it has one (R225). -/
def State.recordField (s : State) (a : Loc) : List Nat :=
  match a with
  | .dram pa => [homeField pa]
  | .rcb k _ => [fieldOfSite (s.dir k).site.toNat]
  | .rowSpace k _ => [fieldOfSite (s.dir k).site.toNat]
  | _ => []

/-- A node read and checked (R193): `above` is the LVL of its parent, where it is known. -/
def State.treeNode (s : State) (q : WReq) (t : Tree) (n : Nat) (above : Option Nat) : Except WErr TNode :=
  let va := t.nodeVa n
  if t.nnodes ≤ n then .error ⟨2, va, 0⟩
  else
    match s.treeRead q.row.t q.sup va 256 with
    | .error e => .error e
    | .ok bs =>
      let x := TNode.ofBytes t.d bs
      let lvlOk := match above with | some l => x.lvl + 1 == l | none => true
      if (x.kind != 1 && x.kind != 2) || x.nch == 0 || t.width < x.nch || !lvlOk || (x.kind == 1 && x.lvl != 0)
      then .error ⟨2, va, 0⟩ else .ok x

/-- The sum record of a node read beside it. -/
def State.treeSums (s : State) (q : WReq) (t : Tree) (n : Nat) (x : TNode) : Except WErr TNode :=
  (s.treeRead q.row.t q.sup (t.sumVa n) 768).map (x.withSums t.d t.dv)

/-- A vector of BF16 elements read. -/
def State.treeVec (s : State) (q : WReq) (va : DWord) (n : Nat) : Except WErr (List Nat) :=
  (s.treeRead q.row.t q.sup va (2 * n)).map (fun bs => elemsAt bs 0 2 n)

/-! ## The walk (R192, R193) -/

/-- A walk in progress: m, s, acc, whether a depth limit cut, whether a NaN arose, whether a logit was NaN or infinite,
the counts of nodes tested and summarised, leaves opened and keys evaluated, and why it has ended. -/
structure WalkAcc where
  m : Nat
  s : Nat
  acc : List Nat
  cut : Bool
  nv : Bool
  bad : Bool
  tested : Nat
  summed : Nat
  leaves : Nat
  keys : Nat
  err : Option WErr
  deriving DecidableEq, Repr

/-- Is the value NaN or infinite? -/
def notFinite (x : Nat) : Bool := match f32v x with | .fin _ _ _ => false | _ => true

/-- Add(l, w, v) of R192: the sums are exact before their one rounding. The weight is the exact count: one above 2^24 is not rounded
to FP32 first, of which the rule, w being exact there, does not speak (log entry 94, DESIGN CHOICE). -/
def WalkAcc.add (a : WalkAcc) (l : Arith) (w : Nat) (v : List Nat) : WalkAcc :=
  let m2 := treeMax a.m l.x
  let da := treeSub .rne a.m m2.x
  let db := treeSub .rne l.x m2.x
  let ea := treeExp2 da.x
  let eb := treeExp2 db.x
  let wb := ((FVal.ofInt w).mul (f32v eb.x)).1
  let sum := Arith.of .f32 (fusedSum .f32 (wkCtl .rne) [wb] [(f32v a.s, f32v ea.x)])
  let accs := List.zipWith (fun x y =>
    Arith.of .f32 (fusedSum .f32 (wkCtl .rne) [] [(f32v x, f32v ea.x), (wb, bf16v y)])) a.acc v
  let (ac, n) := Arith.list accs
  { a with
    m := m2.x
    s := sum.x
    acc := ac
    nv := a.nv || l.nv || m2.nv || da.nv || db.nv || ea.nv || eb.nv || sum.nv || n
    bad := a.bad || notFinite l.x }

/-- A walk that has ended early. -/
def WalkAcc.fail (a : WalkAcc) (e : WErr) : WalkAcc := { a with err := some e }

/-- The keys of a leaf that is opened, in slot order (R192). -/
def State.walkLeaf (s : State) (q : WReq) (t : Tree) (key : List Nat) (x : TNode) (a : WalkAcc) : WalkAcc :=
  (List.range x.nch).foldl (fun a j =>
    if a.err.isSome then a
    else
      match s.treeVec q (addr48 x.kptr + BitVec.ofNat 64 (2 * t.d * j)) t.d with
      | .error e => a.fail e
      | .ok k =>
        match s.treeVec q (addr48 x.vptr + BitVec.ofNat 64 (2 * t.dv * j)) t.dv with
        | .error e => a.fail e
        | .ok v => ({ a with keys := a.keys + 1 } : WalkAcc).add (treeDot key k) 1 v) { a with leaves := a.leaves + 1 }

/-- Visit(n, lvl) of R192: depth first, children in CHILD order. LVL falls at each step down, so the fuel of 17 levels does
not run out. -/
def State.visit (s : State) (q : WReq) (t : Tree) (key : List Nat) (nq : Nat) :
    (fuel : Nat) → (n lvl : Nat) → (above : Option Nat) → WalkAcc → WalkAcc
  | 0, _, _, _, a => a
  | fuel + 1, n, lvl, above, a =>
    if a.err.isSome then a
    else
      match s.treeNode q t n above with
      | .error e => a.fail e
      | .ok x =>
        let l := treeDot key x.cent
        let tt := Arith.of .f32 (fMul .f32 (wkCtl .rup) (f32v nq) (f32v x.rho))
        let d1 := treeSub .rdn a.m l.x
        let d2 := treeSub .rdn d1.x tt.x
        let near := (fCompare .le (f32v tt.x) (f32v q.ota.toNat)).1
        let far := (fCompare .le (f32v q.otf.toNat) (f32v d2.x)).1
        let depth := (bits q.otcfg 8 4).toNat
        let cut := !near && !far && x.kind == 2 && lvl == depth
        let a : WalkAcc := { a with
          tested := a.tested + 1
          cut := a.cut || cut
          nv := a.nv || l.nv || tt.nv || d1.nv || d2.nv
          bad := a.bad || notFinite l.x }
        if near || far || cut then
          match s.treeVec q (t.sumVa n + 0x200) t.dv with
          | .error e => a.fail e
          | .ok v => ({ a with summed := a.summed + 1 } : WalkAcc).add l x.count v
        else if x.kind == 1 then s.walkLeaf q t key x a
        else
          (x.child.take x.nch).foldl (fun a c => State.visit s q t key nq fuel c (lvl + 1) (some x.lvl) a) a

/-- Walk(q) of R192. -/
def State.walkTree (s : State) (q : WReq) (t : Tree) : WalkAcc :=
  let key := (q.key.map BitVec.toNat) ++ List.replicate (t.d - q.key.length) 0
  let nq := treeNorm0 key
  let a : WalkAcc := ⟨0xFF800000, 0, List.replicate t.dv 0, false, nq.nv, false, 0, 0, 0, 0, none⟩
  if t.height == 0 then a else s.visit q t key nq.x 17 t.root 1 none a

/-- A count as INFO0 holds it: saturating at 0xFFFF (R197). -/
def sat16 (n : Nat) : Nat := min n 0xFFFF

/-- What a request leaves: the CODE with its flags, INFO0, INFO1, FADDR, the further fields of a result record with their
offsets, and the writes to the tree. -/
structure WOut where
  code : Nat
  nv : Bool
  cut : Bool
  info0 : Nat
  info1 : Nat
  faddr : DWord
  rest : List (Nat × List Byte)
  tree : List ((Loc × Keep) × List Byte)
  deriving DecidableEq, Repr

/-- A request that ends with FORMAT, PAGE or FULL: FADDR is 0 for FULL, the infos are 0 (R193, R197). -/
def WOut.ofErr (e : WErr) (nv : Bool) : WOut := ⟨e.code, nv, false, 0, 0, if e.code == 4 then 0 else e.addr, [], []⟩

/-- The result record of a walk (R192, R197). -/
def WalkAcc.out (a : WalkAcc) : WOut :=
  let nan := FFmt.f32.nanBits
  let pos := (fCompare .lt (.fin false 0 0) (f32v a.s)).1
  let os := a.acc.map (fun x => if pos then Arith.of .f32 (fDiv .f32 (wkCtl .rne) (f32v x) (f32v a.s)) else ⟨0, false⟩)
  let all := a.acc.map (fun _ => nan)
  let (m, s, acc, o, nv) : Nat × Nat × List Nat × List Nat × Bool :=
    if a.bad then (nan, nan, all, all, true) else (a.m, a.s, a.acc, os.map (·.x), a.nv || os.any (·.nv))
  ⟨1, nv, a.cut, sat16 a.summed + 2 ^ 16 * sat16 a.leaves, a.keys, 0,
    [(0x18, natToBytes 4 m ++ natToBytes 4 s), (0x40, elemBytes 4 0 acc), (0x140, elemBytes 4 0 o)], []⟩

/-! ## The append (R194, R421) -/

/-- TAIL and the nodes on its PARENT chain up to ROOT, each read with its sums and checked (R194). Where two LVLs do not fit, FADDR
names the upper node, just read; where the chain does not end within HEIGHT nodes, the next node, which was not read (log entry 78,
DESIGN CHOICE). -/
def State.treeChain (s : State) (q : WReq) (t : Tree) :
    (fuel : Nat) → (n : Nat) → (below : Option Nat) → Except WErr (List (Nat × TNode))
  | 0, n, _ => .error ⟨2, t.nodeVa n, 0⟩
  | fuel + 1, n, below =>
    match s.treeNode q t n none with
    | .error e => .error e
    | .ok x =>
      let fits := match below with | none => x.kind == 1 | some l => x.lvl == l + 1
      if !fits || (x.parent == noNode && n != t.root) then .error ⟨2, t.nodeVa n, 0⟩
      else
        match s.treeSums q t n x with
        | .error e => .error e
        | .ok x =>
          if x.parent == noNode then .ok [(n, x)]
          else (State.treeChain s q t fuel x.parent (some x.lvl)).map ((n, x) :: ·)

/-- TAIL and its ancestors as far as their PARENT fields name nodes: those that an append writes, whose addresses are translated
before any of them is checked (R194). -/
def State.treePath (s : State) (q : WReq) (t : Tree) : (fuel : Nat) → (n : Nat) → Except WErr (List Nat)
  | 0, _ => .ok []
  | fuel + 1, n =>
    match s.treeNode q t n none with
    | .error e => if e.code == 3 then .error e else .ok (if n < t.nnodes then [n] else [])
    | .ok x => if x.parent == noNode then .ok [n] else (State.treePath s q t fuel x.parent).map (n :: ·)

/-- Upkeep of nodes with a key and a value, in order (R194). -/
def upkeepAll (l : List (Nat × TNode)) (k v : List Nat) : List (Nat × TNode) × Bool :=
  let r := l.map (fun (n, x) => let (y, nv) := x.upkeep k v; ((n, y), nv))
  (r.map (·.1), r.any (·.2))

/-- The chain of one-child nodes above a new leaf (R194): for each full ancestor one node, numbered from `next` on. The
nodes come bottom first, each naming its parent but for the last. -/
def newChain : List (Nat × TNode) → (next : Nat) → (at_ : Nat) → TNode → List (Nat × TNode) × Nat
  | [], next, i, x => ([(i, x)], next)
  | _ :: full, next, i, x =>
    let (l, n) := newChain full (next + 1) next (x.over i)
    ((i, { x with parent := next }) :: l, n)

/-- The last node of a list given a parent. -/
def linkLast (p : Nat) (l : List (Nat × TNode)) : List (Nat × TNode) :=
  match l.reverse with
  | [] => []
  | (i, x) :: r => ((i, { x with parent := p }) :: r).reverse

/-- The nodes that an append writes, the tree after it, and whether a NaN arose (R194, R421). -/
def appendNodes (t : Tree) (chain : List (Nat × TNode)) (k v : List Nat) (kptr vptr : BitVec 48) :
    List (Nat × TNode) × Tree × Bool :=
  let t' : Tree := { t with nkeys := (t.nkeys + 1) % 2 ^ 32 }
  let (leaf, n0) := TNode.leaf k v kptr vptr
  match chain with
  | [] => ([(t.nnodes, leaf)], { t' with root := t.nnodes, tail := t.nnodes, height := 1, nnodes := t.nnodes + 1 }, n0)
  | (i, x) :: up =>
    if x.nch < t.width then
      let (l, nv) := upkeepAll ((i, { x with nch := x.nch + 1 }) :: up) k v
      (l, t', nv)
    else
      let full := up.takeWhile (fun c => c.2.nch == t.width)
      let (new, next) := newChain full (t.nnodes + 1) t.nnodes leaf
      let top := new.getLastD (t.nnodes, leaf)
      let t' : Tree := { t' with tail := t.nnodes, nnodes := next }
      match up.drop full.length with
      | (p, y) :: rest =>
        let y : TNode := { y with child := y.child.set y.nch top.1, nch := y.nch + 1 }
        let (l, nv) := upkeepAll ((p, y) :: rest) k v
        (linkLast p new ++ l, t', n0 || nv)
      | [] =>
        let old := ((i, x) :: up).getLastD (i, x)
        let (r, nv) := TNode.parentOf [old, top]
        (linkLast next new ++ [(old.1, { old.2 with parent := next }), (next, r)],
          { t' with root := next, height := t.height + 1, nnodes := next + 1 }, n0 || nv)

/-- The writes of nodes with their sum records. -/
def Tree.nodeWrites (t : Tree) (l : List (Nat × TNode)) : List (DWord × List Byte) :=
  l.flatMap (fun (n, x) => [(t.nodeVa n, x.bytes), (t.sumVa n, x.sumBytes)])

/-- The writes of the descriptor. -/
def Tree.descWrites (t : Tree) (va : DWord) : List (DWord × List Byte) :=
  t.updates.map (fun (o, bs) => (va + BitVec.ofNat 64 o, bs))

/-- The low 48 bits of an address. -/
def lo48 (va : DWord) : BitVec 48 := bits va 0 48

/-- The pages of every address that an append may write, translated for writing (R194): the key and value slots, TAIL and its
ancestors, and the slots of new nodes. -/
def State.appendPages (s : State) (q : WReq) (t : Tree) : Except WErr Unit :=
  let zeros (n : Nat) : List Byte := List.replicate n 0
  let node (n : Nat) : List (DWord × List Byte) := [(t.nodeVa n, zeros 256), (t.sumVa n, zeros 768)]
  let plan := fun l => (s.treePlan q.row.t q.sup false l).map (fun _ => ())
  let path : Except WErr (List Nat) := if t.height == 0 then .ok [] else s.treePath q t t.height t.tail
  match plan [(t.keyVa t.nkeys, zeros (2 * t.d)), (t.valVa t.nkeys, zeros (2 * t.dv))], path with
  | .error e, _ => .error e
  | _, .error e => .error e
  | .ok _, .ok l => plan ((l ++ (List.range (t.height + 1)).map (t.nnodes + ·)).flatMap node)

/-- Append(k, v) (R194): the capacities are checked, so that nothing outside the tables is written (R200), then every address it
may write is translated, then the chain is read and checked (log entry 55, DEDUCED). -/
def State.appendTree (s : State) (q : WReq) (t : Tree) : WOut :=
  let pad (l : List (BitVec 16)) (n : Nat) : List Nat := (l.map BitVec.toNat ++ List.replicate (n - l.length) 0).take n
  let k := pad q.key t.d
  let v := pad q.val t.dv
  let kva := t.keyVa t.nkeys
  let vva := t.valVa t.nkeys
  if t.capk ≤ t.nkeys || t.capn < t.nnodes + t.height + 1 then WOut.ofErr ⟨4, 0, 0⟩ false
  else
    match s.appendPages q t with
    | .error e => WOut.ofErr e false
    | .ok _ =>
      match (if t.height == 0 then .ok [] else s.treeChain q t t.height t.tail none) with
      | .error e => WOut.ofErr e false
      | .ok chain =>
        if t.height == 15 && chain.all (fun c => c.2.nch == t.width) then WOut.ofErr ⟨4, 0, 0⟩ false
        else
          let (nodes, t', nv) := appendNodes t chain k v (lo48 kva) (lo48 vva)
          match s.treePlan q.row.t q.sup false
            ((kva, elemBytes 2 0 k) :: (vva, elemBytes 2 0 v) :: t.nodeWrites nodes ++ t'.descWrites q.descVa) with
          | .error e => WOut.ofErr e false
          | .ok ws => ⟨1, nv, false, t.nkeys, 0, 0, [], ws⟩

/-! ## The rebuild (R195) -/

/-- The numbers of nodes of the levels over `n` nodes of the level below, up to the root (R195). -/
def levelSizes (w : Nat) : (fuel : Nat) → (n : Nat) → List Nat
  | 0, _ => []
  | fuel + 1, n => if n ≤ 1 then [] else ceilDiv n w :: levelSizes w fuel (ceilDiv n w)

/-- A list cut into groups of `w`. -/
def groupsOf {α : Type} (w : Nat) (l : List α) : List (List α) :=
  (List.range (ceilDiv l.length w)).map (fun j => (l.drop (w * j)).take w)

/-- One level above another (R195): the nodes below, now naming their parents, and the new level. -/
def levelUp (w next : Nat) (l : List (Nat × TNode)) : List (Nat × TNode) × List (Nat × TNode) × Bool :=
  let gs := (List.range (ceilDiv l.length w)).zip (groupsOf w l)
  let ps := gs.map (fun (j, g) => let (x, nv) := TNode.parentOf g; ((next + j, x), nv))
  (gs.flatMap (fun (j, g) => g.map (fun (i, x) => (i, { x with parent := next + j }))), ps.map (·.1), ps.any (·.2))

/-- The levels above the leaves, until one node remains (R195). -/
def levelsUp (w : Nat) : (fuel : Nat) → (next : Nat) → List (Nat × TNode) → List (Nat × TNode) × Bool
  | 0, _, l => (l, false)
  | fuel + 1, next, l =>
    if l.length ≤ 1 then (l, false)
    else
      let (below, up, n1) := levelUp w next l
      let (rest, n2) := levelsUp w fuel (next + up.length) up
      (below ++ rest, n1 || n2)

/-- Vectors read one after another. -/
def State.treeVecs (s : State) (q : WReq) (n : Nat) : List DWord → Except WErr (List (List Nat))
  | [] => .ok []
  | va :: l =>
    match s.treeVec q va n with
    | .error e => .error e
    | .ok v => (State.treeVecs s q n l).map (v :: ·)

/-- The rebuild of a tree (R195): the keys and values are read before the pages of what it writes are translated, so FADDR is a key's
or a value's address where both fault (log entry 79, DESIGN CHOICE). -/
def State.rebuildTree (s : State) (q : WReq) (t : Tree) : WOut :=
  let w := t.width
  let nl := ceilDiv t.nkeys w
  let sizes := if nl == 0 then [] else nl :: levelSizes w 17 nl
  let total := sizes.foldl (· + ·) 0
  if t.capn < total || 15 < sizes.length then WOut.ofErr ⟨4, 0, 0⟩ false
  else
    let ids := List.range t.nkeys
    match s.treeVecs q t.d (ids.map t.keyVa), s.treeVecs q t.dv (ids.map t.valVa) with
    | .error e, _ => WOut.ofErr e false
    | _, .error e => WOut.ofErr e false
    | .ok ks, .ok vs =>
      let gs := (List.range nl).zip ((groupsOf w ks).zip (groupsOf w vs))
      let leaves := gs.map (fun (j, (k, v)) =>
        let (x, nv) := TNode.rebuiltLeaf k v (lo48 (t.keyVa (w * j))) (lo48 (t.valVa (w * j)))
        ((j, x), nv))
      let (nodes, nv) := levelsUp w 17 nl (leaves.map (·.1))
      let t' : Tree := { t with
        root := if total == 0 then noNode else total - 1
        height := sizes.length
        nnodes := total
        tail := if nl == 0 then noNode else nl - 1 }
      match s.treePlan q.row.t q.sup false (t.nodeWrites nodes ++ t'.descWrites q.descVa) with
      | .error e => WOut.ofErr e false
      | .ok ws => ⟨1, nv || leaves.any (·.2), false, total, 0, 0, [], ws⟩

/-! ## Statistics (R432) -/

/-- The statistics of a tenant at a span. -/
def State.wstat (s : State) (t : BitVec 4) (span : Nat) : WStats := NMap.get WStats.reset (s.ten t).wstats span

/-- The statistics of a tenant at a span changed. -/
def State.modStat (s : State) (t : BitVec 4) (span : Nat) (f : WStats → WStats) : State :=
  let x := s.ten t
  s.setTen t { x with wstats := NMap.set x.wstats span (f (s.wstat t span)) }

/-- The requests of a walker queue: the one being served counts until it is finished (R139). -/
def Span.requests (x : Span) : Nat := x.wq.length + (if x.wcur.isSome then 1 else 0)

/-- The 32 bytes that KTEST stores (R432). -/
def State.statBytes (s : State) (t : BitVec 4) (span : Nat) : List Byte :=
  let x := s.wstat t span
  toBytes 4 x.accept ++ toBytes 4 x.refuse ++ toBytes 4 x.tested ++ toBytes 4 x.summed ++ toBytes 4 x.keys ++
  toBytes 4 x.appends ++ natToBytes 4 (x.lockCycles / 256) ++ natToBytes 4 (s.span span).requests

/-! ## Acceptance (R202) -/

/-- An address of a request translated for the issuing row: outside DRAM of slots 0-959 it is PAGE, subcode attribute (R202 step
2). -/
def State.treeCheck (s : State) (use : Use) (va : DWord) : Res Nat :=
  (s.translate s.who use.write va).bind fun (pa, attr) s =>
    if attr.cw || 960 ≤ paSlot pa then .fault (Flt.page 3 va use.write)
    else
      match s.locate s.who pa attr with
      | .error n => .fault (Flt.page (BitVec.ofNat 8 n) va use.write)
      | .ok _ => .ok pa s

/-- Every page of [va, va + n) translated as a load. -/
def State.treeCheckAll (s : State) (va : DWord) (n : Nat) : Res Unit :=
  (pagesOf va n).foldl (fun acc a => acc.bind fun _ s => (s.treeCheck .load a).bind fun _ s => .ok () s) (.ok () s)

/-- A read of the walker at acceptance; an uncorrected error is the row's (R270). -/
def State.treeCopy (s : State) (va : DWord) (n : Nat) : Res (List Byte) :=
  match s.treeRead s.cur.t (s.me).priv va n with
  | .ok bs => .ok bs s
  | .error e => if e.sub == 0 then .fault (Flt.ecc 2 false) else .fault (Flt.page e.sub e.addr false)

/-- WALK_FORMAT at a record (R202 step 3). -/
def walkFormat (va : DWord) : Flt := ⟨0x0A, 0, va, false, 0⟩

/-- Is a request record well formed: reserved fields and the fields that R196 marks 0, and DST's alignment? -/
def recordOk (op : WalkOp) (bs : List Byte) : Bool :=
  let q (o : Nat) : Nat := natAt bs o 8
  q 0 < 2 ^ 48 && q 8 < 2 ^ 48 && q 16 < 2 ^ 48 && q 24 == 0 &&
  (match op with
   | .kwalk => q 8 == 0 && aligned (q 16) 64
   | .kapnd => aligned (q 16) 8
   | .ksum => q 0 == 0 && q 8 == 0 && aligned (q 16) 8)

/-- 16-bit elements of bytes. -/
def elems16 (bs : List Byte) : List (BitVec 16) := (elemsAt bs 0 2 (bs.length / 2)).map (BitVec.ofNat 16)

/-- Steps 1 to 3 of R202: the request, with its sources copied (log entry 55, DEDUCED). -/
def State.request (s : State) (op : WalkOp) (ga gb : DWord) : Res WReq :=
  let use : Use := match op with | .kwalk => .load | _ => .store
  if !aligned ga.toNat 8 then .fault (Flt.align ga false)
  else if !aligned gb.toNat 256 then .fault (Flt.align gb use.write)
  else
    (s.treeCheckAll ga 32).bind fun _ s =>
    (s.treeCheck use gb).bind fun pa s =>
    (s.treeCopy ga 32).bind fun bs s =>
    (s.treeCopy gb 64).bind fun ds s =>
      let t := Tree.ofBytes ds
      let x := s.ten s.cur.t
      if !recordOk op bs then .fault (walkFormat ga)
      else if !t.ok x.otcfg then .fault (walkFormat gb)
      else
        let a0 := addr48 (BitVec.ofNat 48 (natAt bs 0 6))
        let a1 := addr48 (BitVec.ofNat 48 (natAt bs 8 6))
        let n0 := if op == .ksum then 0 else 2 * t.d
        let n1 := if op == .kapnd then 2 * t.dv else 0
        (s.treeCheckAll a0 n0).bind fun _ s =>
        (s.treeCheckAll a1 n1).bind fun _ s =>
        (s.treeCopy a0 n0).bind fun kb s =>
        (s.treeCopy a1 n1).bind fun vb s =>
          .ok ⟨op, s.cur, ga, gb, BitVec.ofNat 48 (natAt bs 16 6), elems16 kb, elems16 vb, x.ota, x.otf, x.otcfg, (s.me).priv,
            pa, 0, false, s.releaseVec s.cur s.myField, none⟩ s

/-- KWALK, KAPND and KSUM (R202). Acceptance is a release at WAFER scope, which the row's earlier stores precede (R199); the
record's address stands in OPREC of a fault. -/
def walkWord (op : WalkOp) (q : BitVec 3) (a b : BitVec 6) (p : BitVec 3) (s : State) : Host.Outcome State Fault Refusal :=
  word s p fun s =>
    let ga := (s.me).rg a
    if s.releaseWaits then s.abandonGroup
    else
      match (s.releaseFar s.here).request op ga ((s.me).rg b) with
      | .ok r s' =>
        let i := spanOfSite s'.here
        let x := s'.span i
        if 32 ≤ x.requests then
          (s'.modStat s'.cur.t i (fun z => { z with refuse := z.refuse + 1 })).finish ((s'.me).wp q false)
        else
          let s'' := (s'.setSpan i { x with wq := x.wq ++ [r] }).modStat s'.cur.t i (fun z => { z with accept := z.accept + 1 })
          s''.finish ((s''.me).wp q true)
      | .fault f => s.raise { f with opRec := ga }
      | .wait on k => s.waitRow { s.me with fill := k } on
      | .stall => s.abandonGroup
      | .miss a => (s.waitWalk s.who a).abandonGroup
      | .move site => s.startMove site s.group

/-- KWALK (R192, R202). -/
def execKwalk (q : BitVec 3) (a b : BitVec 6) (p : BitVec 3) (s : State) : Host.Outcome State Fault Refusal :=
  walkWord .kwalk q a b p s

/-- KAPND (R194, R202). -/
def execKapnd (q : BitVec 3) (a b : BitVec 6) (p : BitVec 3) (s : State) : Host.Outcome State Fault Refusal :=
  walkWord .kapnd q a b p s

/-- KSUM (R195, R202). -/
def execKsum (q : BitVec 3) (a b : BitVec 6) (p : BitVec 3) (s : State) : Host.Outcome State Fault Refusal :=
  walkWord .ksum q a b p s

/-- KCFG (R431), and KTEST (R432) where `f` is 1. -/
def execKstat (f : BitVec 1) (a : BitVec 6) (p : BitVec 3) (s : State) : Host.Outcome State Fault Refusal :=
  word s p fun s =>
    let va := (s.me).rg a
    if f == 1 then
      s.ends (s.rowStore CacheHint.none va (s.statBytes s.cur.t (spanOfSite s.here))) (fun _ s' => s'.advance)
    else
      s.ends (s.rowLoad CacheHint.none va 16) (fun bs s' =>
        let c := BitVec.ofNat 32 (natAt bs 8 4)
        if natAt bs 12 4 != 0 || (c &&& ~~~0xF03#32) != 0 || bits c 0 2 == 3 then s.raise ⟨0x02, 0, va, false, 0⟩
        else
          let x := s'.ten s'.cur.t
          (s'.setTen s'.cur.t { x with ota := BitVec.ofNat 32 (natAt bs 0 4), otf := BitVec.ofNat 32 (natAt bs 4 4),
                                       otcfg := c }).advance)

/-! ## The tree lock (R198) -/

/-- TLOCK of a descriptor at its home: READERS, WRITER, WWAIT. -/
def State.tlock (s : State) (pa : Nat) : BitVec 32 := (s.merge (pa / 256) none).mem32 (pa + 0x40)

/-- TLOCK written by its home: the protection of R198 does not hold against it. -/
def State.setTlock (s : State) (pa : Nat) (v : BitVec 32) : State :=
  let s := s.recall (pa / 256) none
  let s : State := { s with mem := s.mem.writeBytes (pa + 0x40) (toBytes 4 v) }
  ((s.fireLine (pa / 256)).wakeJoins (pa + 0x40) 4).touchHeld pa

/-- May a lock request be granted on a TLOCK (R198)? Behind waiting requests the order of arrival decides, not WWAIT. -/
def lockFree (v : BitVec 32) (exclusive : Bool) : Bool := !bit v 16 && (!exclusive || bits v 0 16 == 0)

/-- The vectors of a home's word joined into a vector (R224). -/
def State.joinWord (s : State) (v : Vector (BitVec 32) 12) (pa n : Nat) : Vector (BitVec 32) 12 :=
  (s.relvec.filter (fun (w, _) => meets (4 * w) 4 pa n)).foldl (fun acc (_, u) => joinVec acc u) v

/-- The request that a span's walker serves holds the lock: an acquire at WAFER scope (R199). -/
def State.lockGranted (s : State) (span pa : Nat) : State :=
  let x := s.span span
  match x.wcur with
  | none => s
  | some q =>
    let s := s.modStat q.row.t span (fun z => { z with lockCycles := z.lockCycles + (s.time - q.asked) })
    let x := s.span span
    s.setSpan span { x with wcur := some { q with granted := true, vec := s.joinWord q.vec (pa + 0x40) 4 } }

/-- WALKER_REQUEST_START (R198, R199): the walker of span `sel.span` takes its next request, once the releases that the
acceptance is have become visible, and asks for the lock; an exclusive request that must wait sets WWAIT. -/
def execWalkerRequestStart (s : State) : Host.Outcome State Fault Refusal :=
  let i := s.sel.span.toNat
  let x := s.span i
  match x.wcur, x.wq with
  | none, q :: l =>
    if !covers (s.field (i / 8)).fav q.vec then .next s
    else
      let s := s.setSpan i { x with wq := l, wcur := some { q with asked := s.time } }
      let excl := q.op != .kwalk
      let v := s.tlock q.pa
      let must := excl && (!lockFree v true || s.locks.any (fun r => r.pa == q.pa))
      let s := if must then s.setTlock q.pa (setBit v 17 true) else s
      .next { s with locks := s.locks ++ [⟨s.sel.span, q.pa, excl⟩] }
  | _, _ => .next s

/-- TLOCK_GRANT (R198): the home grants the lock of waiting request `sel.k` to the requests at the front of its descriptor's
queue: a run of walks together, an exclusive request alone. WWAIT stays while an exclusive request waits. -/
def execTlockGrant (s : State) : Host.Outcome State Fault Refusal :=
  match s.locks[s.sel.k]? with
  | none => .next s
  | some r =>
    let mine := s.locks.filter (fun x => x.pa == r.pa)
    let front := mine.takeWhile (fun x => !x.exclusive)
    let run := if front.isEmpty then mine.take 1 else front
    let excl := front.isEmpty
    let v := s.tlock r.pa
    if !lockFree v excl then .next s
    else
      let rest := s.locks.filter (fun x => !run.contains x)
      let v := if excl then setBit v 16 true else v + BitVec.ofNat 32 run.length
      let v := setBit v 17 (rest.any (fun x => x.pa == r.pa && x.exclusive))
      let s : State := { s with locks := rest }
      .next (run.foldl (fun s x => s.lockGranted x.span.toNat x.pa) (s.setTlock r.pa v))

/-! ## Serving a request (R193-R199) -/

/-- The work of a request that holds its lock, and what its statistics count (log entry 55, DEDUCED). -/
def State.serve (s : State) (q : WReq) : WOut × (WStats → WStats) :=
  match s.treeRead q.row.t q.sup q.descVa 64 with
  | .error e => (WOut.ofErr e false, id)
  | .ok bs =>
    let t := Tree.ofBytes bs
    if !t.ok q.otcfg then (WOut.ofErr ⟨2, q.descVa, 0⟩ false, id)
    else
      match q.op with
      | .kwalk =>
        let a := s.walkTree q t
        let st : WStats → WStats := fun z => { z with
          tested := z.tested + BitVec.ofNat 32 a.tested
          summed := z.summed + BitVec.ofNat 32 a.summed
          keys := z.keys + BitVec.ofNat 32 a.keys }
        (match a.err with | some e => { WOut.ofErr e a.nv with cut := a.cut } | none => a.out, st)
      | .kapnd =>
        let o := s.appendTree q t
        (o, fun z => if o.code == 1 then { z with appends := z.appends + 1 } else z)
      | .ksum => (s.rebuildTree q t, id)

/-- The word of STATUS (R197): CODE, NV, DEPTHCUT. -/
def WOut.word (o : WOut) : BitVec 32 := BitVec.ofNat 32 (o.code + (if o.nv then 16 else 0) + (if o.cut then 32 else 0))

/-- The fields of the record but STATUS, with their addresses (R197). -/
def WOut.fields (o : WOut) (dst : DWord) : List (DWord × List Byte) :=
  ((4, natToBytes 4 o.info0 ++ natToBytes 4 o.info1 ++ List.replicate 4 0 ++ toBytes 8 ((lo48 o.faddr).setWidth 64 : DWord)) ::
    o.rest).map (fun (k, bs) => (dst + BitVec.ofNat 64 k, bs))

/-- The notice of a DST that does not translate or is not writable (R197). Of the fields that the rule does not list, the site, the
executor and TIME are those of the row's directory place at completion, PROG is 0, and SUP the right captured at acceptance (log entry
80, DESIGN CHOICE). -/
def State.walkNotice (s : State) (q : WReq) (sub : BitVec 8) : State :=
  let d := s.dir q.row
  let i : FaultInfo := ⟨0x05, sub, 1, true, true, 0, 0, addr48 q.dst, q.reqVa, 0, 0⟩
  let bytes := recordBytes i q.row.t q.row.n (s.row q.row).launch ⟨d.site, d.bank⟩ (s.timeAt d.site.toNat) q.sup true false false false
  let x := s.ten q.row.t
  s.setTen q.row.t { x with fqWait := x.fqWait ++ [bytes] }

/-- The work of the request: the tree's writes and the record's fields are performed, or the notice is queued; STATUS is
still to come. -/
def State.serveAll (s : State) (span : Nat) (q : WReq) : State :=
  let (o, st) := s.serve q
  let s := (s.treeWrite (span / 8) q.sup o.tree).modStat q.row.t span st
  let dst := addr48 q.dst
  let done (s : State) (f : WFin) : State :=
    let x := s.span span
    s.setSpan span { x with wcur := some { q with fin := some f } }
  match s.treePlan q.row.t q.sup true ((dst, toBytes 4 o.word) :: o.fields dst) with
  | .error e => done (s.walkNotice q e.sub) ⟨none, o.word⟩
  | .ok [] => done s ⟨none, o.word⟩
  | .ok ((a, _) :: ws) => done (s.treeWrite (span / 8) q.sup ws) ⟨some a, o.word⟩

/-- Is a word of a record of a tenant still on its way to its row, behind which STATUS is written (R197)? -/
def State.recordSent (s : State) (t : BitVec 4) : Bool := s.outside.any (fun x => x.agent == .core && x.row.t == t)

/-- WALKER_REQUEST_COMPLETE (R193-R199, R421): the walker of span `sel.span` does the work of the request it serves; once the
releases may become visible, the lock is released and STATUS is written, last of all. Both wait while its field's window of
outstanding writes has no room (R212). -/
def execWalkerRequestComplete (s : State) : Host.Outcome State Fault Refusal :=
  let i := s.sel.span.toNat
  match (s.span i).wcur with
  | none => .next s
  | some q =>
    if !q.granted || !s.departRoom (i / 8) then .next s
    else
      match q.fin with
      | none => .next (s.serveAll i q)
      | some f =>
        let v := s.unitVec (i / 8) q.vec
        let homes := homeField q.pa :: (match f.pa with | some a => s.recordField a.1 | none => [])
        if s.recordSent q.row.t || !homes.all (fun g => covers (s.field g).fav v) then .next s
        else
          let w := s.tlock q.pa
          let s := s.setTlock q.pa (if q.op == .kwalk then w - 1 else setBit w 16 false)
          let s : State := { s with relvec := NMap.set s.relvec ((q.pa + 0x40) / 4) v }
          let x := s.span i
          let s := s.setSpan i { x with wcur := none }
          .next (match f.pa with | none => s | some a => s.treeRelease (i / 8) q.sup a (toBytes 4 f.word) v)

end Sys2Proof.Machine
end

