-- ==== Sys2Proof/Machine/Tenant.lean ====
section
/-! DEFINITION. Stopping and restarting a tenant, and the tenant reset (R148, R160, R242, R273, R276, R277, R418). -/

namespace Sys2Proof.Machine

/-- The rows of a tenant that have a record. -/
def State.rowsOf (s : State) (t : BitVec 4) : List RowKey :=
  (s.rows.map (fun x => RowKey.ofKey x.1)).filter (fun k => k.t == t)

/-! ## Stop and restart (R273) -/

/-- A tenant stopped (R273, steps 1 and 2): STATE 2, and STOP to each of its rows; those that it stops are marked, and every armed
monitor of its rows fires (R324). -/
def State.stopTenant (s : State) (t : BitVec 4) : State :=
  let s := s.setTen t { s.ten t with st := .stopped, stopping := true }
  (s.rowsOf t).foldl (fun s k =>
    let r := (s.row k).fireAll
    let s := s.setRow k r
    if r.st.live then (s.setRow k { r with stoppedByTenant := true }).outsideCommand k .stop else s) s

/-- A row that the stop has stopped is started again; behind a STOP that still waits for its boundary, the START waits too. -/
def State.restartRow (s : State) (k : RowKey) : State :=
  let r := s.row k
  if !r.stoppedByTenant then s
  else
    let s := s.setRow k { r with stoppedByTenant := false }
    if !r.held.isEmpty then s.setRow k { s.row k with held := r.held ++ [.start] }
    else if r.st == .stopped then (s.outsideCommand k .start).acquireFar (s.siteOf k)
    else s

/-- A stopped tenant restarted (R273): START to the rows the stop has stopped; suspended jobs go on from PROGW
(log entry 22, DEDUCED). -/
def State.startTenant (s : State) (t : BitVec 4) : State :=
  let s := s.setTen t { s.ten t with st := .active, stopping := false }
  let s := (s.rowsOf t).foldl (fun s k => s.restartRow k) s
  { s with cols := s.cols.map (fun (i, c) =>
      (i, { c with jobs := c.jobs.map (fun x => if x.row.t == t && x.st == .suspended then { x with st := .running } else x) })) }

/-- Does a slot of an executor hold a row of a tenant? -/
def State.slotsOf (s : State) (t : BitVec 4) : Bool :=
  s.cols.any (fun (_, c) => c.execs.toList.any (fun e =>
    e.slots.toList.any (fun x => match x with | some sl => sl.row.t == t | none => false)))

/-- Is an operation of a tenant in flight at a home, a walker, a copy unit or a link, or a job of it running (R273, R276)? -/
def State.tenantBusy (s : State) (t : BitVec 4) : Bool :=
  s.slotsOf t ||
  (s.rowsOf t).any (fun k => (s.row k).st == .moving || (s.row k).await.isSome || (s.row k).early.any (fun e => !e.due)) ||
  s.cols.any (fun (_, c) => c.jobs.any (fun x => x.row.t == t && x.st == .running) ||
    c.sends.any (fun x => x.row.t == t) || c.gateOut.any (fun x => x.row.t == t)) ||
  s.spans.any (fun (_, x) => x.wq.any (fun q => q.row.t == t) || (match x.wcur with | some q => q.row.t == t | none => false) ||
    x.walks.any (fun w => w.t == t)) ||
  s.outside.any (fun x => x.row.t == t) || s.refusedStores.any (fun x => x.row.t == t) || s.reds.any (fun x => x.row.t == t) ||
  s.acks.any (fun k => k.t == t) || s.homeOps.any (fun x => x.row.t == t) || s.parked.any (fun x => x.row.t == t) ||
  s.ldfeAns.any (fun x => x.row.t == t) || s.abandons.any (fun x => x.row.t == t) || s.pushes.any (fun x => x.row.t == t) ||
  s.spawns.any (fun x => x.tenant == t) || s.jobNotes.any (fun x => x.row.t == t) || s.mxcans.any (fun x => x.row.t == t) ||
  s.tlbis.any (fun x => x.row.t == t) || s.retires.any (fun x => x.row.t == t)

/-- VCTL_STOP (R273, R390): the host stops tenant `sel.t`; a tenant that is not active takes none. A device whose boot has
halted answers only DOE (R404). -/
def execVctlStop (s : State) : Host.Outcome State Fault Refusal :=
  let t := s.sel.t
  if !s.bootLock then .next s
  else
  match (s.ten t).st with
  | .active => .next (s.stopTenant t)
  | .resetting => .next (s.writeError t 3 4)
  | _ => .next (s.writeError t 2 4)

/-- VCTL_START (R273, R390): the host restarts tenant `sel.t`; a tenant that is not stopped takes none. -/
def execVctlStart (s : State) : Host.Outcome State Fault Refusal :=
  let t := s.sel.t
  if !s.bootLock then .next s
  else
  match (s.ten t).st with
  | .stopped => .next (s.startTenant t)
  | .resetting => .next (s.writeError t 3 4)
  | _ => .next (s.writeError t 2 4)

/-- TENANT_STOP_DRAIN (R273, step 5): no operation of tenant `sel.t` remains in flight: its stop has ended. -/
def execTenantStopDrain (s : State) : Host.Outcome State Fault Refusal :=
  let t := s.sel.t
  let x := s.ten t
  if x.st == .stopped && x.stopping && !s.tenantBusy t then .next (s.setTen t { x with stopping := false }) else .next s

/-! ## Tenant reset: its first steps (R276) -/

/-- A row at step 2: it issues no more, waits for nothing, and no fault of it is raised. A MOVING row ends FREE. -/
def Row.silence (r : Row) : Row :=
  let st : RowSt := match r.st with
    | .free => .free
    | .retired => .free
    | .moving => .free
    | _ => .stopped
  { r with st := st, waiton := 0, await := none, held := [], stepping := false, stepper := none, hold := 0, joinw := none,
           jobWait := none, fill := none, deadline := none, move := none, deferred := [], replayDue := false, run := [], mid := .none,
           again := [], gbase := none, mxs := none }

/-- The slots of a tenant's rows close; those reserved are given up. -/
def Exec.closeTenant (e : Exec) (t : BitVec 4) : Exec :=
  { e with slots := e.slots.map (fun x =>
      match x with
      | none => none
      | some sl => if sl.row.t != t then some sl else if sl.phase == .reserved then none else some { sl with phase := .closing }) }

/-- Steps 1 and 2 of a tenant reset (R276): STATE 3; no command is read, no row issues. A row that was MOVING stands where its
directory entry last recorded it (log entry 23, DEDUCED). -/
def State.beginReset (s : State) (t : BitVec 4) : State :=
  let s := s.setTen t { s.ten t with st := .resetting, resetStep := 3, stopping := false, partial_ := false }
  let s := (s.rowsOf t).foldl (fun s k =>
    if (s.row k).st == .moving then s.setDir k { s.dir k with moving := false } else s) s
  { s with
    rows := s.rows.map (fun (k, r) => (k, if (RowKey.ofKey k).t == t then r.silence else r))
    cols := s.cols.map (fun (i, c) => (i, { c with execs := c.execs.map (fun e => e.closeTenant t) }))
    run := if s.cur.t == t then [] else s.run }

/-- VCTL_RESET (R276, R390): the host resets tenant `sel.t`, active or stopped. -/
def execVctlReset (s : State) : Host.Outcome State Fault Refusal :=
  let t := s.sel.t
  if !s.bootLock then .next s
  else
  match (s.ten t).st with
  | .active => .next (s.beginReset t)
  | .stopped => .next (s.beginReset t)
  | .resetting => .next (s.writeError t 3 4)
  | _ => .next (s.writeError t 2 4)

/-- FUNCTION_LEVEL_RESET (R386, R387): a function level reset of the VF of tenant `sel.t` performs a tenant reset, wherever the
tenant's rows stand. A tenant that is absent, swapped out or already being reset has nothing to reset. -/
def execFunctionLevelReset (s : State) : Host.Outcome State Fault Refusal :=
  let t := s.sel.t
  match (s.ten t).st with
  | .active => .next (s.beginReset t)
  | .stopped => .next (s.beginReset t)
  | _ => .next s

/-! ## Step 3: work in flight ends (R148, R160, R200, R242) -/

/-- The tenant's jobs at a column end with their mailbox's store-release and RESET in its status (R148, R368); none while a
release may not become visible yet. -/
def State.endJobsAt (s : State) (t : BitVec 4) (site : Nat) : Option State :=
  ((s.col site).jobs.filter (fun x => x.row.t == t)).foldl
    (fun (acc : Option State) x => acc.bind (fun s => s.endJob site x true)) (some s)

/-- Every job of a tenant ends. -/
def State.endJobs (s : State) (t : BitVec 4) : Option State :=
  (s.cols.map (·.1)).foldl (fun (acc : Option State) i => acc.bind (fun s => s.endJobsAt t i)) (some s)

/-- A place freed by a reset: as Free does, with OWNER, TENANT and OBJ 0 (R152, R418). -/
def Place.clear (p : Place) : Place := { p.free with owner := 0, tenant := 0, obj := 0 }

/-- Bytes at their home written by the device, behind a recall; no protection holds against it. -/
def State.deviceWrite (s : State) (pa : Nat) (data : List Byte) : State :=
  let s := s.recall (pa / 256) none
  let s : State := { s with mem := s.mem.writeBytes pa data }
  ((s.fireLine (pa / 256)).wakeJoins pa data.length).touchSpan pa true

/-- Every place of a tenant at a span is freed, and bytes 0x00-0x0F of the hold words are written 0 (R160). -/
def State.freePlaces (s : State) (t : BitVec 4) (i : Nat) : State :=
  let x := s.span i
  let mine := fun (p : Place) => p.tenant == t
  let words := ((x.pool.filter (fun (_, p) => mine p && p.st != 0)).map (fun (_, p) => 64 * p.obj.toNat)).eraseDups
  let s := s.setSpan i { x with pool := x.pool.map (fun (j, p) => (j, if mine p && p.st != 0 then p.clear else p)) }
  words.foldl (fun s a => s.deviceWrite a (List.replicate 16 0)) s

/-- The walker requests of a tenant at a span are discarded; a lock that one holds is given up (R198, R200). -/
def State.dropWalks (s : State) (t : BitVec 4) (i : Nat) : State :=
  let x := s.span i
  let s := s.setSpan i { x with
    wq := x.wq.filter (fun q => q.row.t != t)
    wcur := match x.wcur with | some q => if q.row.t == t then none else some q | none => none
    walks := x.walks.filter (fun w => w.t != t)
    defers := x.defers.filter (fun d => d.row.t != t)
    transRow := match x.transRow with | some k => if k.t == t then none else some k | none => none }
  match x.wcur with
  | some q => if q.row.t == t then s.deviceWrite (q.pa + 0x40) (List.replicate 4 0) else s
  | none => s

/-- Was an operation of a tenant with several elements applied in part: is one of its elements still on its way when another has
been performed (R242, R277)? -/
def State.torn (s : State) (t : BitVec 4) : Bool :=
  s.reds.any (fun x => x.row.t == t &&
    (s.reds.filter (fun y => y.row == x.row && y.seq == x.seq)).length < x.count)

/-- The departure numbers of what a reset drops (R224, R242): they keep counting. -/
def State.numbersOf (s : State) (t : BitVec 4) : List (Option (BitVec 4 × BitVec 32)) :=
  (s.outside.filter (fun x => x.row.t == t)).map (·.num) ++ (s.reds.filter (fun x => x.row.t == t)).map (·.num) ++
    (s.homeOps.filter (fun x => x.row.t == t)).map (·.num) ++ (s.parked.filter (fun x => x.row.t == t)).map (·.num)

/-- Everything in flight between a tenant's rows and the homes is dropped (R242). -/
def State.dropFlights (s : State) (t : BitVec 4) : State :=
  let s := (s.numbersOf t).foldl (fun s n => s.performed n) s
  let pas := s.spans.flatMap (fun (_, x) => (match x.wcur with | some q => if q.row.t == t then [q.pa] else [] | none => []))
  { s with
    rows := s.rows.map (fun (k, r) => (k, if (RowKey.ofKey k).t == t then { r with early := [], replay := [] } else r))
    outside := s.outside.filter (fun x => x.row.t != t)
    refusedStores := s.refusedStores.filter (fun x => x.row.t != t)
    reds := s.reds.filter (fun x => x.row.t != t)
    acks := s.acks.filter (fun k => k.t != t)
    homeOps := s.homeOps.filter (fun x => x.row.t != t)
    parked := s.parked.filter (fun x => x.row.t != t)
    holdWakes := s.holdWakes.filter (fun x => x.row.t != t)
    ldfeAns := s.ldfeAns.filter (fun x => x.row.t != t)
    fires := s.fires.filter (fun x => x.row.t != t)
    joinWakes := s.joinWakes.filter (fun k => k.t != t)
    abandons := s.abandons.filter (fun x => x.row.t != t)
    spawns := s.spawns.filter (fun x => x.tenant != t)
    pushes := s.pushes.filter (fun x => x.row.t != t)
    jobNotes := s.jobNotes.filter (fun x => x.row.t != t)
    mxcans := s.mxcans.filter (fun x => x.row.t != t)
    locks := s.locks.filter (fun x => !pas.contains x.pa)
    retires := s.retires.filter (fun x => x.row.t != t)
    tlbis := s.tlbis.filter (fun x => x.row.t != t) }

/-- The queues of a column emptied of a tenant (R148). -/
def Column.dropQueues (c : Column) (t : BitVec 4) : Column :=
  if c.owner != some t then c
  else { c with chans := Vector.replicate 16 Chan.reset, mq := Vector.replicate 4 [], mqHeld := Vector.replicate 4 [],
                sends := [], spawnq := [], gateq := [], gateOut := [] }

/-- Step 3 as a whole, behind the end of the jobs. -/
def State.endWork (s : State) (t : BitVec 4) : State :=
  let s := s.setTen t { s.ten t with partial_ := s.torn t }
  let s := s.dropFlights t
  let s := (s.spans.map (·.1)).foldl (fun s i => (s.dropWalks t i).freePlaces t i) s
  let s := (s.links.filter (fun (_, l) => l.paired == some t)).foldl (fun s (i, _) => s.endPairing i) s
  let s := (s.ten t).cols.foldl (fun s c => s.unbindAll t c) s
  { s with cols := s.cols.map (fun (i, c) => (i, c.dropQueues t)) }

/-! ## Steps 5 and 6 (R103, R129, R277) -/

/-- A column of the tenant after step 5: watermarks, mailboxes, scratchpad, data region of the code store, tables (R103,
R129). -/
def Column.clear (c : Column) (t : BitVec 4) : Column :=
  let mine := c.owner == some t
  let c : Column := { c with
    tlb := c.tlb.filter (fun e => e.t != t)
    comp := c.comp.filter (fun e => e.t != t)
    execs := c.execs.map (fun e => { e with binds := e.binds.filter (fun b => b.tenant != t) }) }
  if !mine then c
  else { c with
    wmk := Vector.replicate 8 0, arr := Vector.replicate 8 0, mb := Vector.replicate 4 0
    scratch := [], badScratch := []
    code := c.code.zeroRange c.xb.toNat 0x10000, badCode := wordsOutside c.badCode c.xb.toNat 0x10000 }

/-- Does a span lie wholly in a tenant's partition: some column of it does, and no good one is another's (R129)? -/
def State.spanWhole (s : State) (i : Nat) (t : BitVec 4) : Bool :=
  let sites := (List.range 960).filter (fun x => spanOfSite x == i && s.good x)
  sites.any (fun x => (s.col x).owner == some t) && sites.all (fun x => (s.col x).owner == some t || bit (s.retired.getD (x / 32) 0) (x % 32))

/-- The spans of a tenant's columns. -/
def State.tenantSpans (s : State) (t : BitVec 4) : List Nat := ((s.ten t).cols.map (fun c => spanOfSite c.toNat)).eraseDups

/-- The tenant's registers at their reset values; its record, windows and error bits stay (R100, R103). -/
def Tenant.clear (x : Tenant) : Tenant :=
  { x with fpol := 0xFF, tvec := 0, ovec := 0, tailvec := 0, cwbase := 0, ota := 0, otf := 0x7F800000, otcfg := 0,
           launches := [], ctrs := [], wstats := [], cmds := [], loading := none, fqFull := false, fqWait := [],
           resetStep := 0, partial_ := false }

/-- The records of rows without those of a tenant. Of a row of it that has issued within the last 4 cycles the cycle from which it may
issue again stands (R21). -/
def State.rowsWithout (s : State) (t : BitVec 4) : NMap Row :=
  (s.rowsOf t).foldl (fun m k =>
    if s.time < (s.row k).issueAt then NMap.set m k.key { Row.reset with issueAt := (s.row k).issueAt } else m)
    (s.rows.filter (fun x => (RowKey.ofKey x.1).t != t))

/-- Step 5 (R276): zero-fill and reset values. -/
def State.clearTenant (s : State) (t : BitVec 4) : State :=
  let whole := (s.tenantSpans t).filter (fun i => s.spanWhole i t)
  let s : State := { s with
    rows := s.rowsWithout t
    cols := s.cols.map (fun (i, c) => (i, c.clear t))
    fields := s.fields.map (fun (i, f) => (i, { f with comp := f.comp.filter (fun e => e.t != t) }))
    wcomp := s.wcomp.filter (fun e => e.t != t) }
  let s := whole.foldl (fun s i => s.setSpan i { s.span i with scratch := [], bad := [] }) s
  s.setTen t (s.ten t).clear

/-- The bytes of the TENANT_ABORT record (R277). -/
def abortRecord (s : State) (t : BitVec 4) (torn : Bool) : List Byte :=
  recordBytes ⟨0x0F, 0, 7, false, false, 0, 0, 0, 0, 0, 0⟩ t 0xFFFFFFFF 0 ⟨0, 0⟩ (s.timeAt 0) false true false false torn

/-- A ring emptied by the device: HEAD := TAIL (R148, R393). -/
def State.emptyRing (s : State) (base : Nat) : State :=
  if base == 0 then s else let s := s.merge (base / 256) none; s.coreWrite base (toBytes 4 (s.ring base).2)

/-- Step 6 (R276, R277): the rings are emptied, the TENANT_ABORT record is posted, STATE := 1. -/
def State.endReset (s : State) (t : BitVec 4) (torn : Bool) : State :=
  let x := s.ten t
  let s := (s.emptyRing x.cqbase.toNat).emptyRing x.fqbase.toNat
  let base := x.fqbase.toNat
  let s :=
    if base == 0 then s
    else
      let (_, tail) := s.ring base
      let s := s.coreWrite (base + 64 + 64 * (tail.toNat % 1024)) (abortRecord s t torn)
      s.coreWrite (base + 8) (toBytes 4 (tail + 1))
  s.setTen t { s.ten t with st := .active }

/-! ## Columns given back (R117, R398) -/

/-- A column given back by a tenant: its caches are written back, and no tenant owns it. -/
def State.freeColumn (s : State) (site : BitVec 10) : State :=
  let s := s.flushColumn site.toNat
  s.setCol site.toNat { s.col site.toNat with owner := none }

/-- The ways of a span without a tenant are gated (R117) (log entry 24, DESIGN CHOICE). -/
def State.gateSpan (s : State) (i : Nat) : State :=
  if s.cols.any (fun (site, c) => spanOfSite site == i && c.owner.isSome) then s
  else s.setSpan i { s.span i with gated := BitVec.allOnes 16, waking := 0, lines := [] }

/-- All columns of a tenant given back. -/
def State.freeColumns (s : State) (t : BitVec 4) : State :=
  let spans := s.tenantSpans t
  let s := (s.ten t).cols.foldl (fun s c => s.freeColumn c) s
  let s := s.setTen t { s.ten t with cols := [] }
  spans.foldl (fun s i => s.gateSpan i) s

/-- Bytes [lo, lo + n) at their home written 0 by the management cores, behind the recall of every cached line among them. -/
def State.clearHome (s : State) (lo n : Nat) : State :=
  let lines := ((s.cols.flatMap (fun (_, c) => c.cache.map (·.line))).filter (fun l => meets (256 * l) 256 lo n)).eraseDups
  let s := lines.foldl (fun s l => s.recall l none) s
  { s with mem := s.mem.zeroRange lo (lo + n) }

/-- The images in a tenant's kiln cache region: the places and sizes of those that its index names (R184) and of those written there
before (R185). -/
def State.kilnImages (s : State) (x : Tenant) : List (Nat × Nat) :=
  x.kilnUsed ++
  ((List.range (4 * x.kcsets.toNat)).filter (fun i => bit (s.mem32 (x.kcbase.toNat + 64 * i + 0x30)) 16)).map (fun i =>
    let a := x.kcbase.toNat + 64 * i
    ((bits (s.mem64 (a + 0x20)) 8 36).toNat * 256, (bits (s.mem32 (a + 0x28)) 0 24).toNat))

/-- A tenant removed (R398): its columns are freed, every directory entry gets VALID := 0, the kiln cache region, which holds the
index and the images, is cleared (R184, R185), its key slot erased, its host window disabled, with HWBASE and HWLIMIT 0, of which the
rule does not speak (log entry 29, DESIGN CHOICE), STATE := 0. What a swapped tenant
has left in a column that belongs to another tenant since is not touched (log entry 29, DESIGN CHOICE). -/
def State.removeTenant (s : State) (t : BitVec 4) : State :=
  let x := s.ten t
  let s := s.freeColumns t
  let free (a : Nat) : Bool := (s.col (paSlot a)).owner.isNone
  let s' := if !free x.dirbase.toNat then s
    else (s.poolIds t).foldl (fun s n => s.setDir ⟨t, n⟩ { s.dir ⟨t, n⟩ with valid := false }) s
  let s' := if !free x.kcbase.toNat then s'
    else
      let s' := ((s'.kilnImages x).filter (fun i => free i.1)).foldl (fun s i => s.clearHome i.1 i.2) s'
      s'.clearHome x.kcbase.toNat (256 * x.kcsets.toNat)
  let y := s'.ten t
  s'.setTen t { y with st := .absent, keyslot := 0, key := 0, hwen := false, hwbase := 0, hwlimit := 0, image := none, removing := false,
                       kilnUsed := [] }

/-- A management command answered: it leaves the ring's queue, and its completion word is written (R396, R398). Management
completion words lie in device DRAM or in host memory (log entry 39, DEDUCED). -/
def State.answerMgmt (s : State) (cpl : BitVec 64) (ctag : BitVec 16) (status reason : BitVec 8) (result : BitVec 32) : State :=
  let s : State := { s with mcmds := s.mcmds.drop 1 }
  let w : DWord := result ++ ctag ++ reason ++ status
  let a := cpl.toNat
  if a == 0 || !aligned a 8 then s
  else if paSlot a < 960 && s.good (paSlot a) && paOff a < 4 * layerBytes then s.coreWrite a (toBytes 8 w)
  else if 2 ^ 43 ≤ a && a < 2 ^ 44 then { s with host := s.host.writeBytes (a - 2 ^ 43) (toBytes 8 w) }
  else s

/-- A field of a ring entry's bytes at a byte offset. -/
def entField (e : List Byte) (off n : Nat) : Nat := bytesToNat ((e.drop off).take n)

/-- CPL of a command (R394). -/
def entCpl (e : List Byte) : BitVec 64 := BitVec.ofNat 64 (entField e 8 8)

/-- CTAG of a command (R394). -/
def entTag (e : List Byte) : BitVec 16 := BitVec.ofNat 16 (entField e 2 2)

/-- TENANT_RESET_DRAIN (R276): the reset of tenant `sel.t` ends its work in flight; once no row of it is left in a slot, it
zero-fills, posts TENANT_ABORT and ends, and a REMOVE that waits for it goes on (R398) (log entry 23, DEDUCED). -/
def execTenantResetDrain (s : State) : Host.Outcome State Fault Refusal :=
  let t := s.sel.t
  let x := s.ten t
  if x.st != .resetting then .next s
  else if x.resetStep == 3 then
    match s.endJobs t with
    | none => .next s
    | some s =>
      let s := s.endWork t
      .next (s.setTen t { s.ten t with resetStep := 4 })
  else if s.slotsOf t then .next s
  else
    let torn := x.partial_
    let s := (s.clearTenant t).endReset t torn
    if !x.removing then .next s
    else
      let e := s.mcmds.headD []
      .next ((s.removeTenant t).answerMgmt (entCpl e) (entTag e) 1 0 0)

end Sys2Proof.Machine
end

