-- ==== Sys2Proof/Machine/Host.lean ====
section
/-! DEFINITION. The host's tenant commands and the loader (R184, R185, R392-R397, R399-R402). -/

namespace Sys2Proof.Machine

/-! ## Rings (R392-R394) -/

/-- What a bell finds in a ring: more than 1,024 entries, or the commands that have arrived whole, each with the bytes of its
entries, and where HEAD comes to stand. -/
inductive Taken where
  | overflow
  | commands (l : List (List Byte)) (head : BitVec 32)
  deriving DecidableEq, Repr

/-- NENT of a command entry (R394): its entries, minus 1. -/
def entNent (e : List Byte) : Nat := entField e 1 1 % 4

/-- The entries of a ring grouped into commands (R394); one whose extension has not arrived waits (log entry 25, DEDUCED). -/
def State.takeFrom (s : State) (base : Nat) (tail : BitVec 32) : (fuel : Nat) → BitVec 32 → List (List Byte) × BitVec 32
  | 0, h => ([], h)
  | fuel + 1, h =>
    if h == tail then ([], h)
    else
      let entry := fun (i : Nat) => s.mem.readBytes (base + 64 + 64 * ((h + BitVec.ofNat 32 i).toNat % 1024)) 64
      let n := entNent (entry 0) + 1
      if (tail - h).toNat < n then ([], h)
      else
        let (l, h') := s.takeFrom base tail fuel (h + BitVec.ofNat 32 n)
        ((List.range n).flatMap entry :: l, h')

/-- A ring read at a bell (R393). -/
def State.takeRing (s : State) (base : Nat) : Taken :=
  let (head, tail) := s.ring base
  if 1024 < (tail - head).toNat then .overflow
  else
    let (l, h) := s.takeFrom base tail 1024 head
    .commands l h

/-- The lines of a ring as their home gives them. -/
def State.mergeRing (s : State) (base : Nat) : State :=
  (List.range 258).foldl (fun s i => s.merge (base / 256 + i) none) s

/-- Are the bytes of a command's first entry zero outside the listed ranges (R394)? The header's own fields stand first. -/
def entZero (e : List Byte) (used : List (Nat × Nat)) : Bool :=
  (entField e 1 1) < 4 && entField e 4 4 == 0 &&
    (List.range 48).all (fun i => used.any (fun (o, n) => o ≤ 16 + i && 16 + i < o + n) || entField e (16 + i) 1 == 0)

/-- OPC of a command (R394). -/
def entOpc (e : List Byte) : Nat := entField e 0 1

/-- Is a tenant command well formed (R394): its OPC known, its NENT right, its reserved bits 0? -/
def tenantCmdOk (e : List Byte) : Bool :=
  match entOpc e with
  | 1 => entNent e == 3 && entZero e []
  | 2 => entNent e == 0 && entZero e [(0x10, 1), (0x14, 4)] && entField e 0x10 1 < 4
  | 3 => entNent e == 0 && entZero e [(0x10, 1), (0x14, 4), (0x18, 8)] && entField e 0x10 1 < 4 && entField e 0x10 1 != 0
  | 4 => entNent e == 0 && entZero e [(0x10, 1), (0x14, 4)] && entField e 0x10 1 < 4 && entField e 0x10 1 != 0
  | 5 => entNent e == 0 && entZero e [(0x10, 8), (0x18, 8), (0x20, 8), (0x28, 4)]
  | _ => false

/-- A tenant's command taken from its ring: refused at once with BADCMD, or started in its turn (R394). -/
def State.takeCmd (s : State) (t : BitVec 4) (e : List Byte) : State :=
  if tenantCmdOk e then
    let x := s.ten t
    s.setTen t { x with cmds := x.cmds ++ [e] }
  else s.complete t (entCpl e) 4 0 (entTag e) 0

/-- The command ring of a tenant read at a bell (R393). A tenant that is neither active nor stopped has no commands read
(log entry 25, DEDUCED). -/
def State.bell (s : State) (t : BitVec 4) : State :=
  let x := s.ten t
  let base := x.cqbase.toNat
  if x.st == .resetting then s.writeError t 3 0x18
  else if !s.bootLock || base == 0 || !(x.st == .active || x.st == .stopped) then s
  else
    let s := s.mergeRing base
    match s.takeRing base with
    | .overflow => s.setVerr t 0 0x18
    | .commands l h => (l.foldl (fun s e => s.takeCmd t e) s).coreWrite base (toBytes 4 h)

/-- CQBELL (R393): the host rings the bell of tenant `sel.t`. -/
def execCqbell (s : State) : Host.Outcome State Fault Refusal := .next (s.bell s.sel.t)

/-- The command whose turn it is, where it is of a kind. -/
def State.nextCmd (s : State) (t : BitVec 4) (opc : Nat) : Option (List Byte) :=
  match (s.ten t).cmds with
  | [] => none
  | e :: _ => if entOpc e == opc then some e else none

/-- The command leaves the queue of those to be started. -/
def State.popCmd (s : State) (t : BitVec 4) : State :=
  let x := s.ten t
  s.setTen t { x with cmds := x.cmds.drop 1 }

/-- A command answered (R396). -/
def State.answerCmd (s : State) (t : BitVec 4) (e : List Byte) (status reason : BitVec 8) (result : BitVec 32) : State :=
  s.complete t (entCpl e) status reason (entTag e) result

/-- The vector of what the host has issued: its writes have performed (R227); an accepted launch follows what the wafer has
applied (log entry 27, DEDUCED). -/
def State.hostVec (s : State) : Vector (BitVec 32) 12 := (s.field 0).fav

/-- HOST_LAUNCH (R394): the LAUNCH command of tenant `sel.t` whose turn it is, checked and answered as the instruction is
(log entry 27, DEDUCED). -/
def execHostLaunch (s : State) : Host.Outcome State Fault Refusal :=
  let t := s.sel.t
  match s.nextCmd t 1 with
  | none => .next s
  | some e =>
    let s := s.popCmd t
    match s.submit t ((e.drop 64).take 192) true 0 s.hostVec with
    | .ok (id, s) => .next (s.answerCmd t e 1 0 id)
    | .error n => .next (s.answerCmd t e 2 (BitVec.ofNat 8 n) 0)

/-- HOST_CANCEL (R394, R207). -/
def execHostCancel (s : State) : Host.Outcome State Fault Refusal :=
  let t := s.sel.t
  match s.nextCmd t 2 with
  | none => .next s
  | some e =>
    let (live, s) := (s.popCmd t).cancel t (BitVec.ofNat 2 (entField e 0x10 1)) (BitVec.ofNat 32 (entField e 0x14 4))
    .next (s.answerCmd t e 1 0 (if live then 1 else 0))

/-- The lowest counter id of a level that is not in use, from 1 on. -/
def Tenant.freeCtr (x : Tenant) (level : BitVec 2) : BitVec 32 :=
  let ids := (x.ctrs.filter (fun c => c.level == level)).map (·.id)
  (((List.range (ids.length + 1)).map (fun i => BitVec.ofNat 32 (i + 1))).find? (fun i => !ids.contains i)).getD 1

/-- COUNTER (R394, R204): a counter with the count 1, its creator's hold, under a parent one level up. One whose parent is no live
counter, or can take no member, is refused (log entry 26, DEDUCED). -/
def execCounter (s : State) : Host.Outcome State Fault Refusal :=
  let t := s.sel.t
  match s.nextCmd t 3 with
  | none => .next s
  | some e =>
    let s := s.popCmd t
    let x := s.ten t
    let level := BitVec.ofNat 2 (entField e 0x10 1)
    let parent := BitVec.ofNat 32 (entField e 0x14 4)
    if parent != 0 && (level == 3 || !x.ctrTakes (level + 1) parent) then .next (s.answerCmd t e 2 2 0)
    else
      let id := x.freeCtr level
      let c : Ctr := ⟨level, id, 1, parent, true, BitVec.ofNat 64 (entField e 0x18 8), entTag e⟩
      let x := if parent == 0 then x else x.ctrUp (level + 1) parent
      .next ((s.setTen t { x with ctrs := x.ctrs ++ [c] }).answerCmd t e 1 0 id)

/-- SEAL (R394): the creator's hold on a counter is dropped, once (log entry 26, DEDUCED). -/
def execSeal (s : State) : Host.Outcome State Fault Refusal :=
  let t := s.sel.t
  match s.nextCmd t 4 with
  | none => .next s
  | some e =>
    let s := s.popCmd t
    let x := s.ten t
    let level := BitVec.ofNat 2 (entField e 0x10 1)
    let id := BitVec.ofNat 32 (entField e 0x14 4)
    match x.ctr level id with
    | none => .next (s.answerCmd t e 1 0 0)
    | some c =>
      if !c.held then .next (s.answerCmd t e 1 0 0)
      else
        let x : Tenant := { x with ctrs := x.ctrs.map (fun y => if y.level == level && y.id == id then { y with held := false } else y) }
        .next (((s.setTen t x).ctrDown t 3 level id).answerCmd t e 1 0 0)

/-! ## Code objects (R399, R400) -/

/-- A Krythel code object: its bytes. -/
abbrev Kco := List Byte

/-- A little-endian number of an image. -/
def Kco.num (k : Kco) (off n : Nat) : Nat := bytesToNat ((k.drop off).take n)

/-- A section of an image. -/
def Kco.section_ (k : Kco) (off len : Nat) : List Byte := (k.drop off).take len

/-- The portable form. -/
def Kco.zpf (k : Kco) : List Byte := k.section_ (k.num 0x20 8) (k.num 0x28 8)

/-- The data section. -/
def Kco.data (k : Kco) : List Byte := k.section_ (k.num 0x30 8) (k.num 0x38 8)

/-- The number of kernels. -/
def Kco.kernels (k : Kco) : Nat := k.num 0x08 4

/-- Where variant `i` of the variant table stands. -/
def Kco.variantAt (k : Kco) (i : Nat) : Nat := k.num 0x10 8 + 32 * i

/-- Does the loader take the image (R399): MAGIC, VERSION, every section within the image, ZPFDIG? -/
def Kco.ok (k : Kco) : Bool :=
  let n := k.length
  let nvar := k.num 0x06 2
  let inside := fun (off len : Nat) => off + len ≤ n
  0x70 ≤ n && k.num 0 4 == 0x314F434B && k.num 4 2 == 1 &&
    inside (k.num 0x10 8) (32 * nvar) && inside (k.num 0x18 8) (16 * k.kernels) && inside (k.num 0x20 8) (k.num 0x28 8) &&
    inside (k.num 0x30 8) (k.num 0x38 8) && inside (k.num 0x40 8) (8 * k.num 0x48 8) &&
    (List.range nvar).all (fun i => inside (k.num (k.variantAt i + 8) 8) (k.num (k.variantAt i + 16) 4)) &&
    k.section_ 0x50 32 == sha256 k.zpf

/-- The device's feature-set id (R400). -/
def State.fsid (s : State) : BitVec 32 := bits (s.featWord 0) 0 16 ++ bits (s.featWord 1) 0 16

/-- Does a variant match the device (R400)? -/
def State.matches_ (s : State) (k : Kco) (i : Nat) : Bool :=
  let v := k.variantAt i
  let w0 := s.featWord 0
  k.num (v + 4) 1 == (bits w0 0 8).toNat && k.num (v + 5) 1 ≤ (bits w0 8 8).toNat &&
    (BitVec.ofNat 32 (k.num (v + 6) 2) &&& ~~~(s.featWord 1)) == 0

/-- The variant selected for a kernel (R400): the matching one of highest MINOR, the lowest index on a tie. -/
def State.selectVariant (s : State) (k : Kco) (kern : Nat) : Option Nat :=
  ((List.range (k.num 0x06 2)).filter (fun i => k.num (k.variantAt i) 4 == kern && s.matches_ k i)).foldl
    (fun acc i =>
      match acc with
      | none => some i
      | some j => if k.num (k.variantAt j + 5) 1 < k.num (k.variantAt i + 5) 1 then some i else some j) none

/-! ## The kiln cache (R184, R185) -/

/-- The kiln version of this release (R401). -/
def kver : Nat := 1

/-- The lookup key (R184, R401). -/
def State.kilnKey (s : State) (t : BitVec 4) (k : Kco) : List Byte :=
  sha256 (Config.tenantKey (s.ten t).key ++ k.section_ 0x50 32 ++ toBytes 4 s.fsid ++ natToBytes 2 kver)

/-- Where a way of a set stands. -/
def kilnEntry (base set way : Nat) : Nat := base + 256 * set + 64 * way

/-- The set of a key (R184). -/
def State.kilnSet (s : State) (t : BitVec 4) (key : List Byte) : Nat := bytesToNat (key.take 4) % (s.ten t).kcsets.toNat

/-- The way that hits, if one does (R185). -/
def State.kilnHit (s : State) (t : BitVec 4) (key : List Byte) : Option Nat :=
  let base := (s.ten t).kcbase.toNat
  (List.range 4).find? (fun w =>
    let a := kilnEntry base (s.kilnSet t key) w
    bit (s.mem32 (a + 0x30)) 16 && s.mem.readBytes a 32 == key)

/-- The image of a way that hits; USE rises, saturating. -/
def State.kilnImage (s : State) (t : BitVec 4) (key : List Byte) (w : Nat) : List Byte × State :=
  let a := kilnEntry (s.ten t).kcbase.toNat (s.kilnSet t key) w
  let use := s.mem32 (a + 0x38)
  let image := s.mem.readBytes ((bits (s.mem64 (a + 0x20)) 8 36).toNat * 256) (bits (s.mem64 (a + 0x28)) 0 24).toNat
  (image, s.coreWrite (a + 0x38) (toBytes 4 (if use == BitVec.allOnes 32 then use else use + 1)))

/-- The way that a new entry takes (R185): an invalid one, else that of least USE, the lower on a tie. -/
def State.kilnVictim (s : State) (base set : Nat) : Nat :=
  match (List.range 4).find? (fun w => !bit (s.mem32 (kilnEntry base set w + 0x30)) 16) with
  | some w => w
  | none =>
    let use := fun w => (s.mem32 (kilnEntry base set w + 0x38)).toNat
    (List.range 4).foldl (fun b w => if use w < use b then w else b) 0

/-- Where the kiln keeps an image of `n` bytes: in the bulk layers of the tenant's column that holds the index, behind the index
where that lies there too; none where it does not fit (R184; log entry 29, DESIGN CHOICE). -/
def Tenant.kilnRoom (x : Tenant) (set w n : Nat) : Option Nat :=
  let base := x.kcbase.toNat
  let lo := max layerBytes (ceilDiv (paOff base + 256 * x.kcsets.toNat) 256 * 256)
  if 4 * layerBytes < lo + n then none
  else some (slotBase (paSlot base) + lo + 256 * (Config.kilnPlace base set w % ((4 * layerBytes - lo - n) / 256 + 1)))

/-- A translation entered into the index (R185), where there is room for its image; the place of the image is kept in mind, for the
removal of the tenant. -/
def State.kilnInsert (s : State) (t : BitVec 4) (key image : List Byte) : State :=
  let base := (s.ten t).kcbase.toNat
  let set := s.kilnSet t key
  let w := s.kilnVictim base set
  match (s.ten t).kilnRoom set w image.length with
  | none => s
  | some pa =>
  let entry := key ++ toBytes 8 (BitVec.ofNat 64 pa) ++ natToBytes 4 image.length ++ toBytes 4 s.fsid ++
    natToBytes 2 kver ++ [1, 0, 0, 0, 0, 0, 0, 0, 0, 0, 0, 0, 0, 0]
  let s := s.setTen t { s.ten t with kilnUsed := (pa, image.length) :: (s.ten t).kilnUsed.filter (fun x => x != (pa, image.length)) }
  (s.coreWrite pa image).coreWrite (kilnEntry base set w) (entry.take 64)

/-! ## LOAD (R401, R402) -/

/-- The arguments of LOAD. -/
structure LoadArgs where
  pa : Nat
  size : Nat
  dataVa : DWord
  csBase : Nat
  deriving DecidableEq, Repr

/-- The arguments of a LOAD command (R394). -/
def loadArgs (e : List Byte) : LoadArgs :=
  ⟨entField e 0x10 8, entField e 0x18 8, BitVec.ofNat 64 (entField e 0x20 8), entField e 0x28 4⟩

/-- The lines of memory that a command reads, as their homes give them. -/
def State.mergeRange (s : State) (pa n : Nat) : State :=
  (List.range (n / 256 + 2)).foldl (fun s i => s.merge (pa / 256 + i) none) s

/-- `n` bytes at the physical address that is an argument of a command: of host memory from 2^43 on (R389), else of DRAM as their homes
give them. -/
def State.physBytes (s : State) (pa n : Nat) : List Byte :=
  if 2 ^ 43 ≤ pa then s.host.readBytes (pa - 2 ^ 43) n else (s.mergeRange pa n).mem.readBytes pa n

/-- Do `n` bytes at a physical address from 2^43 on lie in a tenant's enabled host window (R389)? -/
def Tenant.hostHas (x : Tenant) (pa n : Nat) : Bool :=
  x.hwen && 2 ^ 43 + x.hwbase.toNat ≤ pa && pa + n ≤ 2 ^ 43 + x.hwlimit.toNat

/-- The bytes of the code object. -/
def State.kcoOf (s : State) (e : List Byte) : Kco := let a := loadArgs e; s.physBytes a.pa a.size

/-- The next multiple of 256. -/
def up256 (n : Nat) : Nat := (n + 255) / 256 * 256

/-- Where the images are placed (R401): each at the next multiple of 256, and where the last ends. -/
def placeImages : List (List Byte) → Nat → List (Nat × List Byte) × Nat
  | [], a => ([], up256 a)
  | i :: l, a =>
    let b := up256 a
    let (r, e) := placeImages l (b + i.length)
    ((b, i) :: r, e)

/-- The data section with its relocations and ENTRY of each launch record made (R401). -/
def Kco.linked (k : Kco) (dataVa : DWord) (places : List (Nat × List Byte)) : List Byte :=
  let d := k.data
  let m : Memory := Memory.writeBytes [] 0 d
  let m := (List.range (k.num 0x48 8)).foldl (fun (m : Memory) i =>
    let o := k.num (k.num 0x40 8 + 8 * i) 8
    if o + 8 ≤ d.length then m.writeBytes o (toBytes 8 (ofBytes 64 (m.readBytes o 8) + dataVa)) else m) m
  let m := (Config.launchRecords k).foldl (fun (m : Memory) (o, kern) =>
    if o + 192 ≤ d.length then
      match places[kern]? with
      | some (a, _) => m.writeBytes (o + 0x0C) (natToBytes 4 a)
      | none => m
    else m) m
  m.readBytes 0 d.length

/-- Bytes stored by the loader at a virtual address of the tenant: translated page by page with supervisor right; none where a
page does not translate to memory, with its subcode (log entry 28, DEDUCED). -/
def State.loaderStore (s : State) (t : BitVec 4) (va : DWord) (data : List Byte) : Except Nat State :=
  let w : Who := ⟨t, true, ((s.ten t).cols.headD 0).toNat, false, none⟩
  (List.range (ceilDiv data.length 4096)).foldl (fun (acc : Except Nat State) i =>
    match acc with
    | .error e => .error e
    | .ok s =>
      let a := va + BitVec.ofNat 64 (4096 * i)
      let bs := (data.drop (4096 * i)).take 4096
      match s.check w .store a 1 with
      | .ok (.dram pa, _) s =>
        .ok ((List.range 16).foldl (fun s j =>
          let b := (bs.drop (256 * j)).take 256
          if b.isEmpty then s else s.coreWrite (pa + 256 * j) b) s)
      | .ok (.host h, _) s => .ok { s with host := s.host.writeBytes h bs }
      | .ok _ _ => .error 3
      | .fault f => .error f.sub.toNat
      | _ => .error 0) (.ok s)

/-- The images placed in every column of the partition, with XB and HIEND (R401). -/
def State.placeCode (s : State) (t : BitVec 4) (places : List (Nat × List Byte)) (xb : BitVec 17) : State :=
  let s := (s.ten t).cols.foldl (fun s site =>
    let c := s.col site.toNat
    let code := places.foldl (fun (m : Memory) (a, bs) => m.writeBytes a bs) c.code
    let bad := places.foldl (fun l (a, bs) => unpoison l a bs.length) c.badCode
    s.setCol site.toNat { c with code := code, badCode := bad, xb := xb }) s
  s.setTen t { s.ten t with hiend := xb }

/-- Every kernel has an image: they are placed, the data section is copied, and LOAD completes (R401). Only an end above 0x1_0000 is
refused; without a kernel nothing is placed, and HIEND stays (log entry 28, DEDUCED). -/
def State.finishLoad (s : State) (t : BitVec 4) (e : List Byte) (images : List (List Byte)) : State :=
  let s := s.setTen t { s.ten t with loading := none }
  let a := loadArgs e
  let k := s.kcoOf e
  let (places, upTo) := placeImages images a.csBase
  let last := if places.isEmpty then 0 else upTo
  if 0x10000 < last then s.answerCmd t e 2 4 0
  else
    match s.loaderStore t a.dataVa (k.linked a.dataVa places) with
    | .error n => s.answerCmd t e 3 (BitVec.ofNat 8 n) 0
    | .ok s =>
      let xb : Nat := Nat.max (s.ten t).hiend.toNat last
      (s.placeCode t places (BitVec.ofNat 17 xb)).answerCmd t e 1 0 s.fsid

/-- The kernels from the next one on, each given an image: its variant's, a cached one, or one that the kiln is now to translate
(R401). -/
def State.loadKernels (s : State) (t : BitVec 4) (e : List Byte) (k : Kco) : (fuel : Nat) → List (List Byte) → State
  | 0, images => s.finishLoad t e images
  | fuel + 1, images =>
    match s.selectVariant k images.length with
    | some i => s.loadKernels t e k fuel (images ++ [k.section_ (k.num (k.variantAt i + 8) 8) (k.num (k.variantAt i + 16) 4)])
    | none =>
      let key := s.kilnKey t k
      match s.kilnHit t key with
      | some w =>
        let (image, s) := s.kilnImage t key w
        s.loadKernels t e k fuel (images ++ [image])
      | none => s.setTen t { s.ten t with loading := some ⟨e, images⟩ }

/-- The subcode of PAGE that the device meets as it reads `n` bytes at the physical address that is an argument of a command for a tenant
(R111, R127, R389, R397): none in the tenant's host window, nor in DRAM that is there and is no row of a row pool or of the engines and
in no decode range. -/
def State.argError (s : State) (t : BitVec 4) (pa n : Nat) : Option Nat :=
  if 2 ^ 43 ≤ pa then (if (s.ten t).hostHas pa n then none else some 3)
  else
    (List.range (n / 2048 + 2)).findSome? (fun j =>
      let a := if j == 0 then pa else pa / 2048 * 2048 + 2048 * j
      if pa + n ≤ a then none
      else if 960 ≤ paSlot a then some 3
      else
        match s.locate ⟨t, true, 0, false, none⟩ a ⟨false, false, 0, false, 0, false, false, false⟩ with
        | .error k => some k
        | .ok _ => none)

/-- LOAD (R401, R402): the LOAD command of tenant `sel.t` whose turn it is; one LOAD of a tenant runs at a time
(log entry 28, DEDUCED). -/
def execLoad (s : State) : Host.Outcome State Fault Refusal :=
  let t := s.sel.t
  match s.nextCmd t 5 with
  | none => .next s
  | some e =>
    let x := s.ten t
    let a := loadArgs e
    if x.loading.isSome then .next s
    else
      let s := s.popCmd t
      if a.dataVa.toNat % 4096 != 0 then .next (s.answerCmd t e 2 7 0)
      else if x.launches.any (fun l => l.phase == .placed) then .next (s.answerCmd t e 2 5 0)
      else if a.pa < 2 ^ 43 &&
        (!s.tenantDram t a.pa || !s.tenantDram t (a.pa + a.size - 1) || paSlot a.pa != paSlot (a.pa + a.size - 1))
      then .next (s.answerCmd t e 3 3 0)
      else if (s.argError t a.pa a.size).isSome then .next (s.answerCmd t e 3 (BitVec.ofNat 8 ((s.argError t a.pa a.size).getD 0)) 0)
      else
        let s := if a.pa < 2 ^ 43 then s.mergeRange a.pa a.size else s
        let k := s.kcoOf e
        if !k.ok then .next (s.answerCmd t e 2 4 0)
        else .next ((s.mergeRange (s.ten t).kcbase.toNat (256 * (s.ten t).kcsets.toNat)).loadKernels t e k k.kernels [])

/-- KILN_TRANSLATION_COMPLETE (R401): the kiln has translated the kernel that tenant `sel.t`'s LOAD waits for, or has failed. -/
def execKilnTranslationComplete (s : State) : Host.Outcome State Fault Refusal :=
  let t := s.sel.t
  match (s.ten t).loading with
  | none => .next s
  | some x =>
    let e := x.cmd
    let k := s.kcoOf e
    let i := x.images.length
    let zi := k.num (k.num 0x18 8 + 16 * i + 8) 4
    if !Config.kilnAccepts k.zpf zi kver then
      .next ((s.setTen t { s.ten t with loading := none }).answerCmd t e 2 3 0)
    else
      let image := Config.kilnImage k.zpf zi s.fsid.toNat kver
      let s := s.kilnInsert t (s.kilnKey t k) image
      .next (s.loadKernels t e k (k.kernels - i - 1) (x.images ++ [image]))

end Sys2Proof.Machine
end

