-- ==== Sys2Proof/Machine/Integer.lean ====
section
/-! DEFINITION. The integer, immediate, shift, compare, predicate and constant instructions (R278-R290). Each reads its
sources before it writes its destination (R278). -/

namespace Sys2Proof.Machine

/-! ## Shared forms (R278, R281) -/

/-- A 64-bit result of two g registers. -/
def int2 (f : DWord → DWord → DWord) (d a b : BitVec 6) (p : BitVec 3) (s : State) : Host.Outcome State Fault Refusal :=
  word s p fun s => s.finish ((s.me).wg d (f ((s.me).rg a) ((s.me).rg b)))

/-- A 32-bit result of the low words of two g registers, sign-extended (R278). -/
def int2W (f : BitVec 32 → BitVec 32 → BitVec 32) (d a b : BitVec 6) (p : BitVec 3) (s : State) :
    Host.Outcome State Fault Refusal :=
  int2 (fun x y => sext 64 (f (bits x 0 32) (bits y 0 32))) d a b p s

/-- A 64-bit result of one g register. -/
def int1 (f : DWord → DWord) (d a : BitVec 6) (p : BitVec 3) (s : State) : Host.Outcome State Fault Refusal :=
  word s p fun s => s.finish ((s.me).wg d (f ((s.me).rg a)))

/-- A 32-bit result of the low word of one g register, sign-extended (R278). -/
def int1W (f : BitVec 32 → BitVec 32) (d a : BitVec 6) (p : BitVec 3) (s : State) : Host.Outcome State Fault Refusal :=
  int1 (fun x => sext 64 (f (bits x 0 32))) d a p s

/-- A result of a g register, an immediate and nothing else (R286). -/
def intImm (f : DWord → DWord → DWord) (d a : BitVec 6) (i : BitVec 11) (p : BitVec 3) (s : State) :
    Host.Outcome State Fault Refusal :=
  word s p fun s => s.finish ((s.me).wg d (f ((s.me).rg a) (s.imm i)))

/-- A result that also reads the old destination (R280, R284). -/
def int3 (f : DWord → DWord → DWord → DWord) (d a b : BitVec 6) (p : BitVec 3) (s : State) :
    Host.Outcome State Fault Refusal :=
  word s p fun s => s.finish ((s.me).wg d (f ((s.me).rg d) ((s.me).rg a) ((s.me).rg b)))

/-! ## Arithmetic (R281-R285) -/

/-- Bits [127:64] of the exact product of two integers (R281). -/
def highProduct (x y : Int) : DWord := BitVec.ofInt 64 (x * y / 2 ^ 64)

/-- DIV: truncated quotient; all ones for a divisor of 0; the overflowing quotient wraps (R282). -/
def divS {w : Nat} (a b : BitVec w) : BitVec w := if b == 0 then BitVec.allOnes w else a.sdiv b

/-- REM: the dividend for a divisor of 0; the sign of the dividend otherwise (R282). -/
def remS {w : Nat} (a b : BitVec w) : BitVec w := if b == 0 then a else a.srem b

/-- DIVN (R282). -/
def divU {w : Nat} (a b : BitVec w) : BitVec w := if b == 0 then BitVec.allOnes w else a.udiv b

/-- REMN (R282). -/
def remU {w : Nat} (a b : BitVec w) : BitVec w := if b == 0 then a else a.umod b

/-- The smaller of two signed values. -/
def minS {w : Nat} (a b : BitVec w) : BitVec w := if a.slt b then a else b

/-- The larger of two signed values. -/
def maxS {w : Nat} (a b : BitVec w) : BitVec w := if a.slt b then b else a

/-- The smaller of two unsigned values. -/
def minU {w : Nat} (a b : BitVec w) : BitVec w := if a.ult b then a else b

/-- The larger of two unsigned values. -/
def maxU {w : Nat} (a b : BitVec w) : BitVec w := if a.ult b then b else a

/-- The count of a register shift: bits [5:0] (R283). -/
def shiftCount (b : DWord) : Nat := (bits b 0 6).toNat

/-- The field that BEXT and BINS name: LO := rb[5:0], W := min(rb[14:8], 64) (R284). -/
def fieldOf (b : DWord) : Nat × Nat := ((bits b 0 6).toNat, Nat.min (bits b 8 7).toNat 64)

/-- The low `w` bits set. -/
def lowOnes (w : Nat) : DWord := BitVec.ofNat 64 (2 ^ w - 1)

/-- BEXT (R284). -/
def bitExtract (a b : DWord) : DWord := let (lo, w) := fieldOf b; (a >>> lo) &&& lowOnes w

/-- BINS (R284): positions above 63 are dropped, every other bit of the old destination is kept. -/
def bitInsert (d a b : DWord) : DWord :=
  let (lo, w) := fieldOf b
  let m := lowOnes w <<< lo
  (d &&& ~~~m) ||| ((a &&& lowOnes w) <<< lo)

/-- SEL: a select with the old destination as mask (R284). -/
def bitSelect (d a b : DWord) : DWord := (a &&& d) ||| (b &&& ~~~d)

/-- The absolute value; the most negative value gives itself (R285). -/
def absS {w : Nat} (a : BitVec w) : BitVec w := if a.slt 0 then -a else a

/-- Leading zeros, from bit `n` - 1 downwards (R285). -/
def clzFrom {w : Nat} (a : BitVec w) : Nat → Nat
  | 0 => 0
  | n + 1 => if a.getLsbD n then 0 else 1 + clzFrom a n

/-- Bits set among the low `n` (R285). -/
def popFrom {w : Nat} (a : BitVec w) : Nat → Nat
  | 0 => 0
  | n + 1 => (if a.getLsbD n then 1 else 0) + popFrom a n

/-- ADD.D: wrapping sum (R281). -/
def execAddD (d a b : BitVec 6) (p : BitVec 3) (s : State) : Host.Outcome State Fault Refusal :=
  int2 (fun x y => x + y) d a b p s

/-- ADD.W (R281). -/
def execAddW (d a b : BitVec 6) (p : BitVec 3) (s : State) : Host.Outcome State Fault Refusal :=
  int2W (fun x y => x + y) d a b p s

/-- SUB.D: wrapping difference (R281). -/
def execSubD (d a b : BitVec 6) (p : BitVec 3) (s : State) : Host.Outcome State Fault Refusal :=
  int2 (fun x y => x - y) d a b p s

/-- SUB.W (R281). -/
def execSubW (d a b : BitVec 6) (p : BitVec 3) (s : State) : Host.Outcome State Fault Refusal :=
  int2W (fun x y => x - y) d a b p s

/-- MUL.D: low half of the product (R281). -/
def execMulD (d a b : BitVec 6) (p : BitVec 3) (s : State) : Host.Outcome State Fault Refusal :=
  int2 (fun x y => x * y) d a b p s

/-- MUL.W (R281). -/
def execMulW (d a b : BitVec 6) (p : BitVec 3) (s : State) : Host.Outcome State Fault Refusal :=
  int2W (fun x y => x * y) d a b p s

/-- MULH: high half of the signed product (R281). -/
def execMulh (d a b : BitVec 6) (p : BitVec 3) (s : State) : Host.Outcome State Fault Refusal :=
  int2 (fun x y => highProduct x.toInt y.toInt) d a b p s

/-- MULHN: high half of the unsigned product (R281). -/
def execMulhn (d a b : BitVec 6) (p : BitVec 3) (s : State) : Host.Outcome State Fault Refusal :=
  int2 (fun x y => highProduct x.toNat y.toNat) d a b p s

/-- DIV.D (R282). -/
def execDivD (d a b : BitVec 6) (p : BitVec 3) (s : State) : Host.Outcome State Fault Refusal :=
  int2 divS d a b p s

/-- DIV.W (R282). -/
def execDivW (d a b : BitVec 6) (p : BitVec 3) (s : State) : Host.Outcome State Fault Refusal :=
  int2W divS d a b p s

/-- DIVN.D (R282). -/
def execDivnD (d a b : BitVec 6) (p : BitVec 3) (s : State) : Host.Outcome State Fault Refusal :=
  int2 divU d a b p s

/-- DIVN.W (R282). -/
def execDivnW (d a b : BitVec 6) (p : BitVec 3) (s : State) : Host.Outcome State Fault Refusal :=
  int2W divU d a b p s

/-- REM.D (R282). -/
def execRemD (d a b : BitVec 6) (p : BitVec 3) (s : State) : Host.Outcome State Fault Refusal :=
  int2 remS d a b p s

/-- REM.W (R282). -/
def execRemW (d a b : BitVec 6) (p : BitVec 3) (s : State) : Host.Outcome State Fault Refusal :=
  int2W remS d a b p s

/-- REMN.D (R282). -/
def execRemnD (d a b : BitVec 6) (p : BitVec 3) (s : State) : Host.Outcome State Fault Refusal :=
  int2 remU d a b p s

/-- REMN.W (R282). -/
def execRemnW (d a b : BitVec 6) (p : BitVec 3) (s : State) : Host.Outcome State Fault Refusal :=
  int2W remU d a b p s

/-- MIN: signed minimum (R281). -/
def execMin (d a b : BitVec 6) (p : BitVec 3) (s : State) : Host.Outcome State Fault Refusal :=
  int2 minS d a b p s

/-- MAX: signed maximum (R281). -/
def execMax (d a b : BitVec 6) (p : BitVec 3) (s : State) : Host.Outcome State Fault Refusal :=
  int2 maxS d a b p s

/-- MINN: unsigned minimum (R281). -/
def execMinn (d a b : BitVec 6) (p : BitVec 3) (s : State) : Host.Outcome State Fault Refusal :=
  int2 minU d a b p s

/-- MAXN: unsigned maximum (R281). -/
def execMaxn (d a b : BitVec 6) (p : BitVec 3) (s : State) : Host.Outcome State Fault Refusal :=
  int2 maxU d a b p s

/-- AND (R281). -/
def execAnd (d a b : BitVec 6) (p : BitVec 3) (s : State) : Host.Outcome State Fault Refusal :=
  int2 (fun x y => x &&& y) d a b p s

/-- OR (R281). -/
def execOr (d a b : BitVec 6) (p : BitVec 3) (s : State) : Host.Outcome State Fault Refusal :=
  int2 (fun x y => x ||| y) d a b p s

/-- XOR (R281). -/
def execXor (d a b : BitVec 6) (p : BitVec 3) (s : State) : Host.Outcome State Fault Refusal :=
  int2 (fun x y => x ^^^ y) d a b p s

/-- ANDN: a AND NOT b (R281). -/
def execAndn (d a b : BitVec 6) (p : BitVec 3) (s : State) : Host.Outcome State Fault Refusal :=
  int2 (fun x y => x &&& ~~~y) d a b p s

/-- SHL (R283). -/
def execShl (d a b : BitVec 6) (p : BitVec 3) (s : State) : Host.Outcome State Fault Refusal :=
  int2 (fun x y => x <<< shiftCount y) d a b p s

/-- SHR (R283). -/
def execShr (d a b : BitVec 6) (p : BitVec 3) (s : State) : Host.Outcome State Fault Refusal :=
  int2 (fun x y => x >>> shiftCount y) d a b p s

/-- SRA (R283). -/
def execSra (d a b : BitVec 6) (p : BitVec 3) (s : State) : Host.Outcome State Fault Refusal :=
  int2 (fun x y => x.sshiftRight (shiftCount y)) d a b p s

/-- ROT: rotate left (R283). -/
def execRot (d a b : BitVec 6) (p : BitVec 3) (s : State) : Host.Outcome State Fault Refusal :=
  int2 (fun x y => x.rotateLeft (shiftCount y)) d a b p s

/-- BEXT (R284). -/
def execBext (d a b : BitVec 6) (p : BitVec 3) (s : State) : Host.Outcome State Fault Refusal :=
  int2 bitExtract d a b p s

/-- BINS (R284). -/
def execBins (d a b : BitVec 6) (p : BitVec 3) (s : State) : Host.Outcome State Fault Refusal :=
  int3 bitInsert d a b p s

/-- SEL (R284). -/
def execSel (d a b : BitVec 6) (p : BitVec 3) (s : State) : Host.Outcome State Fault Refusal :=
  int3 bitSelect d a b p s

/-- ABS.D (R285). -/
def execAbsD (d a : BitVec 6) (p : BitVec 3) (s : State) : Host.Outcome State Fault Refusal :=
  int1 absS d a p s

/-- ABS.W (R285). -/
def execAbsW (d a : BitVec 6) (p : BitVec 3) (s : State) : Host.Outcome State Fault Refusal :=
  int1W absS d a p s

/-- CLZ.D (R285). -/
def execClzD (d a : BitVec 6) (p : BitVec 3) (s : State) : Host.Outcome State Fault Refusal :=
  int1 (fun x => BitVec.ofNat 64 (clzFrom x 64)) d a p s

/-- CLZ.W (R285). -/
def execClzW (d a : BitVec 6) (p : BitVec 3) (s : State) : Host.Outcome State Fault Refusal :=
  int1W (fun x => BitVec.ofNat 32 (clzFrom x 32)) d a p s

/-- POPC.D (R285). -/
def execPopcD (d a : BitVec 6) (p : BitVec 3) (s : State) : Host.Outcome State Fault Refusal :=
  int1 (fun x => BitVec.ofNat 64 (popFrom x 64)) d a p s

/-- POPC.W (R285). -/
def execPopcW (d a : BitVec 6) (p : BitVec 3) (s : State) : Host.Outcome State Fault Refusal :=
  int1W (fun x => BitVec.ofNat 32 (popFrom x 32)) d a p s

/-! ## Immediate forms and shifts (R286, R287) -/

/-- ADDI (R286). -/
def execAddi (d a : BitVec 6) (i : BitVec 11) (p : BitVec 3) (s : State) : Host.Outcome State Fault Refusal :=
  intImm (fun x y => x + y) d a i p s

/-- ANDI (R286). -/
def execAndi (d a : BitVec 6) (i : BitVec 11) (p : BitVec 3) (s : State) : Host.Outcome State Fault Refusal :=
  intImm (fun x y => x &&& y) d a i p s

/-- ORI (R286). -/
def execOri (d a : BitVec 6) (i : BitVec 11) (p : BitVec 3) (s : State) : Host.Outcome State Fault Refusal :=
  intImm (fun x y => x ||| y) d a i p s

/-- XORI (R286). -/
def execXori (d a : BitVec 6) (i : BitVec 11) (p : BitVec 3) (s : State) : Host.Outcome State Fault Refusal :=
  intImm (fun x y => x ^^^ y) d a i p s

/-- A shift by the count of the word, on 64 bits or, with W = 1, on the low word sign-extended (R287). -/
def shiftImm (f : DWord → Nat → DWord) (g : BitVec 32 → Nat → BitVec 32) (d a : BitVec 6) (w : BitVec 1) (c : BitVec 6)
    (p : BitVec 3) (s : State) : Host.Outcome State Fault Refusal :=
  if w == 1 then int1W (fun x => g x c.toNat) d a p s else int1 (fun x => f x c.toNat) d a p s

/-- SHLI (R287). -/
def execShli (d a : BitVec 6) (w : BitVec 1) (c : BitVec 6) (p : BitVec 3) (s : State) : Host.Outcome State Fault Refusal :=
  shiftImm (fun x n => x <<< n) (fun x n => x <<< n) d a w c p s

/-- SHRI (R287). -/
def execShri (d a : BitVec 6) (w : BitVec 1) (c : BitVec 6) (p : BitVec 3) (s : State) : Host.Outcome State Fault Refusal :=
  shiftImm (fun x n => x >>> n) (fun x n => x >>> n) d a w c p s

/-- SRAI (R287). -/
def execSrai (d a : BitVec 6) (w : BitVec 1) (c : BitVec 6) (p : BitVec 3) (s : State) : Host.Outcome State Fault Refusal :=
  shiftImm (fun x n => x.sshiftRight n) (fun x n => x.sshiftRight n) d a w c p s

/-- ROTI (R287). -/
def execRoti (d a : BitVec 6) (w : BitVec 1) (c : BitVec 6) (p : BitVec 3) (s : State) : Host.Outcome State Fault Refusal :=
  shiftImm (fun x n => x.rotateLeft n) (fun x n => x.rotateLeft n) d a w c p s

/-! ## Compares and predicates (R288, R289) -/

/-- The conditions: 0 EQ, 1 NE, 2 LT, 3 LTN, 4 LE, 5 LEN; 6 and 7 name no instruction (R288). -/
def intCond {w : Nat} (c : BitVec 3) (a b : BitVec w) : Bool :=
  match c.toNat with
  | 0 => a == b
  | 1 => a != b
  | 2 => a.slt b
  | 3 => a.ult b
  | 4 => a.sle b
  | 5 => a.ule b
  | _ => false

/-- CMP: .D compares 64 bits, .W the low words (R288). -/
def execCmp (d c : BitVec 3) (a b : BitVec 6) (w : BitVec 1) (p : BitVec 3) (s : State) : Host.Outcome State Fault Refusal :=
  word s p fun s =>
    let x := (s.me).rg a
    let y := (s.me).rg b
    s.finish ((s.me).wp d (if w == 1 then intCond c (bits x 0 32) (bits y 0 32) else intCond c x y))

/-- CMPI: 64 bits against the immediate (R288). -/
def execCmpi (d c : BitVec 3) (a : BitVec 6) (i : BitVec 11) (p : BitVec 3) (s : State) :
    Host.Outcome State Fault Refusal :=
  word s p fun s => s.finish ((s.me).wp d (intCond c ((s.me).rg a) (s.imm i)))

/-- A predicate from two predicates (R289). -/
def pred2 (f : Bool → Bool → Bool) (d a b p : BitVec 3) (s : State) : Host.Outcome State Fault Refusal :=
  word s p fun s => s.finish ((s.me).wp d (f ((s.me).rp a) ((s.me).rp b)))

/-- PAND (R289). -/
def execPand (d a b p : BitVec 3) (s : State) : Host.Outcome State Fault Refusal :=
  pred2 (fun x y => x && y) d a b p s

/-- POR (R289). -/
def execPor (d a b p : BitVec 3) (s : State) : Host.Outcome State Fault Refusal :=
  pred2 (fun x y => x || y) d a b p s

/-- PXOR (R289). -/
def execPxor (d a b p : BitVec 3) (s : State) : Host.Outcome State Fault Refusal :=
  pred2 (fun x y => x ^^ y) d a b p s

/-- PNOT (R289). -/
def execPnot (d a p : BitVec 3) (s : State) : Host.Outcome State Fault Refusal :=
  pred2 (fun x _ => !x) d a a p s

/-- PMOV (R289). -/
def execPmov (d a p : BitVec 3) (s : State) : Host.Outcome State Fault Refusal :=
  pred2 (fun x _ => x) d a a p s

/-- MOVI: the wide immediate (R290). -/
def execMovi (d : BitVec 6) (i : BitVec 17) (p : BitVec 3) (s : State) : Host.Outcome State Fault Refusal :=
  word s p fun s => s.finish ((s.me).wg d (s.imm i))

end Sys2Proof.Machine
end

