-- ==== Sys2Proof/Machine/LoadStore.lean ====
section
/-! DEFINITION. Loads, stores, gathers, scatters, block copies and working data (R300-R310). -/

namespace Sys2Proof.Machine

/-! ## Scalar and 16-byte accesses (R304, R305, R307) -/

/-- A load of `n` bytes at an address into a register that `put` writes; the prefetches of PREFX go with it (R60, R302). -/
def State.loadTo (s : State) (va : DWord) (n : Nat) (put : Row → List Byte → Row) : State :=
  s.ends ((if va.toNat % n = 0 then s.prefxWaits va else .ok () s).bind fun _ _ => (s.prefx va).rowLoad s.cache va n)
    (fun bs s' => s'.finish (put s'.me bs))

/-- A zero-extended load into a g register (R304). -/
def loadZ (n : Nat) (t a : BitVec 6) (i : BitVec 11) (p : BitVec 3) (s : State) : Host.Outcome State Fault Refusal :=
  word s p fun s => s.loadTo (s.mAddr a i n) n (fun r bs => r.wg t (ofBytes 64 bs))

/-- A sign-extended load of `n` bytes at row.g[ra] + row.g[rb] (R307). -/
def loadS (n : Nat) (d a b : BitVec 6) (p : BitVec 3) (s : State) : Host.Outcome State Fault Refusal :=
  word s p fun s =>
    s.loadTo ((s.me).rg a + (s.me).rg b) n (fun r bs => r.wg d (sext 64 (ofBytes (8 * n) bs)))

/-- A store of the low `n` bytes of a g register (R304). -/
def storeG (n : Nat) (t a : BitVec 6) (i : BitVec 11) (p : BitVec 3) (s : State) : Host.Outcome State Fault Refusal :=
  word s p fun s =>
    s.ends (s.rowStore s.cache (s.mAddr a i n) (toBytes n ((s.me).rg t))) (fun _ s' => s'.advance)

/-- LDB: load 1 byte (R304). -/
def execLdb (t a : BitVec 6) (i : BitVec 11) (p : BitVec 3) (s : State) : Host.Outcome State Fault Refusal :=
  loadZ 1 t a i p s

/-- LDH: load 2 bytes (R304). -/
def execLdh (t a : BitVec 6) (i : BitVec 11) (p : BitVec 3) (s : State) : Host.Outcome State Fault Refusal :=
  loadZ 2 t a i p s

/-- LDW: load 4 bytes (R304). -/
def execLdw (t a : BitVec 6) (i : BitVec 11) (p : BitVec 3) (s : State) : Host.Outcome State Fault Refusal :=
  loadZ 4 t a i p s

/-- LDD: load 8 bytes (R304). -/
def execLdd (t a : BitVec 6) (i : BitVec 11) (p : BitVec 3) (s : State) : Host.Outcome State Fault Refusal :=
  loadZ 8 t a i p s

/-- STB: store 1 byte (R304). -/
def execStb (t a : BitVec 6) (i : BitVec 11) (p : BitVec 3) (s : State) : Host.Outcome State Fault Refusal :=
  storeG 1 t a i p s

/-- STH: store 2 bytes (R304). -/
def execSth (t a : BitVec 6) (i : BitVec 11) (p : BitVec 3) (s : State) : Host.Outcome State Fault Refusal :=
  storeG 2 t a i p s

/-- STW: store 4 bytes (R304). -/
def execStw (t a : BitVec 6) (i : BitVec 11) (p : BitVec 3) (s : State) : Host.Outcome State Fault Refusal :=
  storeG 4 t a i p s

/-- STD: store 8 bytes (R304). -/
def execStd (t a : BitVec 6) (i : BitVec 11) (p : BitVec 3) (s : State) : Host.Outcome State Fault Refusal :=
  storeG 8 t a i p s

/-- LDV: 16 bytes into a v register, lane 0 at the lowest address (R305). -/
def execLdv (t : BitVec 5) (a : BitVec 6) (i : BitVec 11) (p : BitVec 3) (s : State) : Host.Outcome State Fault Refusal :=
  word s p fun s => s.loadTo (s.mAddr a i 16) 16 (fun r bs => r.wv t (ofBytes 128 bs))

/-- STV: a v register as 16 bytes (R305). -/
def execStv (t : BitVec 5) (a : BitVec 6) (i : BitVec 11) (p : BitVec 3) (s : State) : Host.Outcome State Fault Refusal :=
  word s p fun s =>
    s.ends (s.rowStore s.cache (s.mAddr a i 16) (toBytes 16 ((s.me).rv t))) (fun _ s' => s'.advance)

/-- LDBS: sign-extended load (R307). -/
def execLdbs (d a b : BitVec 6) (p : BitVec 3) (s : State) : Host.Outcome State Fault Refusal :=
  loadS 1 d a b p s

/-- LDHS: sign-extended load (R307). -/
def execLdhs (d a b : BitVec 6) (p : BitVec 3) (s : State) : Host.Outcome State Fault Refusal :=
  loadS 2 d a b p s

/-- LDWS: sign-extended load (R307). -/
def execLdws (d a b : BitVec 6) (p : BitVec 3) (s : State) : Host.Outcome State Fault Refusal :=
  loadS 4 d a b p s

/-! ## Progressive instructions (R255, R264) -/

/-- Units `i`, `i + 1`, ... of a progressive instruction, each recorded in PROG when it is done. A fault, a wait or a
migration leaves PROG at the unit it met. When no unit is left, PROG := 0 and the row goes on; when only the allowed
number of units is up, or a unit must follow what is in flight, the row keeps PC on the group and stands inside it (R255),
unless a fault is due, which the unit may wait for. -/
def State.units_ (f : Nat → State → Res Unit) : (fuel i n : Nat) → State → State
  | 0, i, n, s =>
    if n ≤ i then s.finish { s.me with prog := 0 } else (s.setMe { s.me with inGroup := i != 0 }).abandonGroup
  | fuel + 1, i, n, s =>
    match f i s with
    | .ok _ s' => State.units_ f fuel (i + 1) n (s'.setMe { s'.me with prog := BitVec.ofNat 32 (i + 1) })
    | .fault e => s.raise e
    | .wait on k => s.waitRow { s.me with fill := k } on
    | .stall => (s.setMe { s.me with inGroup := i != 0 && !(s.me).owing }).abandonGroup
    | .miss va => ((s.waitWalk s.who va).setMe { (s.waitWalk s.who va).me with inGroup := i != 0 && !(s.me).owing }).abandonGroup
    | .move site => s.startMove site s.group

/-- A progressive instruction of `n` units, from unit PROG on. How many it may perform before an interruption is the
model's `units` (log entry 1, DESIGN CHOICE). -/
def State.progressive (s : State) (n : Nat) (f : Nat → State → Res Unit) : State :=
  let i := (s.me).prog.toNat
  let fuel := match s.units with | some u => Nat.min u (n - i) | none => n - i
  State.units_ f fuel i n { s with units := none }

/-! ## Gathers and scatters (R308) -/

/-- The address of element `i`: the base plus the sign-extended index lane times the element size (R300, R308). -/
def elemAddr (base : DWord) (idx : VWord) (size i : Nat) : DWord :=
  base + sext 64 (bits idx (8 * size * i) (8 * size)) * BitVec.ofNat 64 size

/-- Element `i` of a gather: the lane is written as the element completes. -/
def State.gatherUnit (size : Nat) (d : BitVec 5) (base : DWord) (idx : VWord) (i : Nat) (s : State) : Res Unit :=
  (s.rowLoad s.cache (elemAddr base idx size i) size).bind fun bs s =>
    .ok () (s.setMe ((s.me).wv d (setBits ((s.me).rv d) (8 * size * i) (ofBytes (8 * size) bs))))

/-- The base of the gather of the issuing row: where the group is tried again behind some of its elements, which may have overwritten
the register, it is the one that was read at issue (R308). -/
def State.gatherBase (s : State) (a : BitVec 6) : DWord := (s.me).gbase.getD ((s.me).rg a)

/-- The base stands while the group is still to be gone on with behind some of its elements (R255, R308). -/
def State.keepBase (s : State) (base : DWord) : State :=
  s.setMe { s.me with gbase := if s.redo && (s.me).prog != 0 then some base else none }

/-- A gather of 16 / size elements (R308). Where the base is misaligned, ADDR is the base (log entry 60, DEDUCED). -/
def gather (size : Nat) (d : BitVec 5) (a : BitVec 6) (v : BitVec 5) (p : BitVec 3) (s : State) :
    Host.Outcome State Fault Refusal :=
  word s p fun s =>
    let base := s.gatherBase a
    let idx := (s.me).rv v
    if !aligned base.toNat size then s.raise (Flt.align base false)
    else s.ends (s.prefxWaits (elemAddr base idx size 0)) fun _ _ =>
      ((s.prefx (elemAddr base idx size 0)).progressive (16 / size) (State.gatherUnit size d base idx)).keepBase base

/-- Element `i` of a scatter. -/
def State.scatterUnit (size : Nat) (src : VWord) (base : DWord) (idx : VWord) (i : Nat) (s : State) : Res Unit :=
  s.rowStore s.cache (elemAddr base idx size i) (toBytes size (bits src (8 * size * i) (8 * size)))

/-- A scatter of 16 / size elements, in lane order; the sources are read once (R308). Where the base is misaligned, ADDR is the base
(log entry 60, DEDUCED). -/
def scatter (size : Nat) (v : BitVec 5) (a : BitVec 6) (i : BitVec 5) (p : BitVec 3) (s : State) :
    Host.Outcome State Fault Refusal :=
  word s p fun s =>
    let base := (s.me).rg a
    if !aligned base.toNat size then s.raise (Flt.align base true)
    else s.progressive (16 / size) (State.scatterUnit size ((s.me).rv v) base ((s.me).rv i))

/-- LDX.H (R308). -/
def execLdxH (d : BitVec 5) (a : BitVec 6) (v : BitVec 5) (p : BitVec 3) (s : State) : Host.Outcome State Fault Refusal :=
  gather 2 d a v p s

/-- LDX.W (R308). -/
def execLdxW (d : BitVec 5) (a : BitVec 6) (v : BitVec 5) (p : BitVec 3) (s : State) : Host.Outcome State Fault Refusal :=
  gather 4 d a v p s

/-- LDX.D (R308). -/
def execLdxD (d : BitVec 5) (a : BitVec 6) (v : BitVec 5) (p : BitVec 3) (s : State) : Host.Outcome State Fault Refusal :=
  gather 8 d a v p s

/-- STX.H (R308). -/
def execStxH (v : BitVec 5) (a : BitVec 6) (i : BitVec 5) (p : BitVec 3) (s : State) : Host.Outcome State Fault Refusal :=
  scatter 2 v a i p s

/-- STX.W (R308). -/
def execStxW (v : BitVec 5) (a : BitVec 6) (i : BitVec 5) (p : BitVec 3) (s : State) : Host.Outcome State Fault Refusal :=
  scatter 4 v a i p s

/-- STX.D (R308). -/
def execStxD (v : BitVec 5) (a : BitVec 6) (i : BitVec 5) (p : BitVec 3) (s : State) : Host.Outcome State Fault Refusal :=
  scatter 8 v a i p s

/-! ## Block copies (R309) -/

/-- The checks of a block copy, made first (R309): ADDR is the memory address where that is misaligned, else the
working-data offset (log entry 60, DEDUCED). -/
def blockCheck (va w n : DWord) (write : Bool) : Option Flt :=
  if !aligned va.toNat 32 then some (Flt.align va write)
  else if !aligned w.toNat 32 || !aligned n.toNat 32 || w.toNat < 0x200 || 0x800 < w.toNat + n.toNat
  then some (Flt.align w write)
  else none

/-- Sector `j` of LDBLK. -/
def State.ldblkUnit (va : DWord) (w : Nat) (j : Nat) (s : State) : Res Unit :=
  (s.rowLoad s.cache (va + BitVec.ofNat 64 (32 * j)) 32).bind fun bs s =>
    .ok () (s.setMe ((s.me).setBytes (w + 32 * j) bs))

/-- Sector `j` of STBLK. -/
def State.stblkUnit (va : DWord) (w : Nat) (j : Nat) (s : State) : Res Unit :=
  s.rowStore s.cache (va + BitVec.ofNat 64 (32 * j)) ((s.me).bytes (w + 32 * j) 32)

/-- LDBLK: sectors of memory into the row's working data (R309) (log entry 60, DEDUCED). -/
def execLdblk (w a n : BitVec 6) (p : BitVec 3) (s : State) : Host.Outcome State Fault Refusal :=
  word s p fun s =>
    let va := (s.me).rg a
    match blockCheck va ((s.me).rg w) ((s.me).rg n) false with
    | some e => s.raise e
    | none => s.ends (s.prefxWaits va) fun _ _ => (s.prefx va).progressive (((s.me).rg n).toNat / 32) (State.ldblkUnit va ((s.me).rg w).toNat)

/-- STBLK: sectors of working data to memory (R309). -/
def execStblk (w a n : BitVec 6) (p : BitVec 3) (s : State) : Host.Outcome State Fault Refusal :=
  word s p fun s =>
    let va := (s.me).rg a
    match blockCheck va ((s.me).rg w) ((s.me).rg n) true with
    | some e => s.raise e
    | none => s.progressive (((s.me).rg n).toNat / 32) (State.stblkUnit va ((s.me).rg w).toNat)

/-! ## Working data (R310) -/

/-- LWD: 8 bytes of working data at 8 times the field (R310). -/
def execLwd (d : BitVec 6) (o : BitVec 11) (p : BitVec 3) (s : State) : Host.Outcome State Fault Refusal :=
  word s p fun s => s.finish ((s.me).wg d (ofBytes 64 ((s.me).bytes (8 * o.toNat) 8)))

/-- SWD: 8 bytes into working data (R310). -/
def execSwd (d : BitVec 6) (o : BitVec 11) (p : BitVec 3) (s : State) : Host.Outcome State Fault Refusal :=
  word s p fun s => s.finish ((s.me).setBytes (8 * o.toNat) (toBytes 8 ((s.me).rg d)))

end Sys2Proof.Machine
end

