-- ==== Sys2Proof/Machine/Manage.lean ====
section
/-! DEFINITION. The management commands of PF0 (R398, R403, R410) and swapping (R243, R274, R275). -/

namespace Sys2Proof.Machine

/-! ## The management ring (R398) -/

/-- Is a management command well formed (R394, R398)? -/
def mgmtCmdOk (e : List Byte) : Bool :=
  entNent e == 0 &&
  (match entOpc e with
   | 0x41 => entZero e [(0x10, 1)] && entField e 0x10 1 < 16
   | 0x42 => entZero e [(0x10, 1)] && entField e 0x10 1 < 16
   | 0x43 => entZero e [(0x10, 1), (0x18, 8), (0x20, 8)] && entField e 0x10 1 < 16
   | 0x44 => entZero e [(0x10, 1), (0x18, 8), (0x20, 8)] && entField e 0x10 1 < 16
   | 0x45 => entZero e [(0x10, 1)] && entField e 0x10 1 < 16
   | 0x46 => entZero e [(0x10, 1), (0x18, 8), (0x20, 8), (0x28, 1)] && entField e 0x10 1 < 16 && entField e 0x28 1 < 2
   | 0x47 => entZero e [(0x10, 1), (0x14, 1)] && entField e 0x10 1 < 32 && entField e 0x14 1 < 16
   | 0x48 => entZero e [(0x10, 1)] && entField e 0x10 1 < 32
   | 0x49 => entZero e [(0x10, 2)] && entField e 0x10 2 < 1024
   | _ => false)

/-- The management ring read at a bell. -/
def State.mbell (s : State) : State :=
  let base := s.mqbase.toNat
  if !s.bootLock || base == 0 then s
  else
    let s := s.mergeRing base
    match s.takeRing base with
    | .overflow => { s with mqovf := true }
    | .commands l h => (({ s with mcmds := s.mcmds ++ l } : State)).coreWrite base (toBytes 4 h)

/-- MQBELL (R398): the host rings the management bell. -/
def execMqbell (s : State) : Host.Outcome State Fault Refusal := .next s.mbell

/-- The command whose turn it is refused as BADCMD, where it is malformed (R394). -/
def State.badMgmt (s : State) (e : List Byte) : State := s.answerMgmt (entCpl e) (entTag e) 4 0 0

/-- The command whose turn it is, answered OK with a result. -/
def State.okMgmt (s : State) (e : List Byte) (result : Nat) : State :=
  s.answerMgmt (entCpl e) (entTag e) 1 0 (BitVec.ofNat 32 result)

/-- It ended by a fault: the subcode of PAGE that the device met while it read an argument (R397). -/
def State.faultMgmt (s : State) (e : List Byte) (sub : Nat) : State :=
  s.answerMgmt (entCpl e) (entTag e) 3 (BitVec.ofNat 8 sub) 0

/-- It refused: 6 for the state of its tenant, 7 for an argument (R397). -/
def State.refuseMgmt (s : State) (e : List Byte) (reason : BitVec 8) : State :=
  s.answerMgmt (entCpl e) (entTag e) 2 reason 0

/-- A management command of a kind in its turn: what it does where it is well formed. A malformed one with an OPC that no command
has is taken by whichever event comes. -/
def State.mgmt (s : State) (opc : Nat) (f : List Byte → State) : State :=
  match s.mcmds with
  | [] => s
  | e :: _ =>
    if !mgmtCmdOk e then s.badMgmt e
    else if entOpc e == opc then f e
    else s

/-- The tenant that a command names at 0x10. -/
def entTenant (e : List Byte) : BitVec 4 := BitVec.ofNat 4 (entField e 0x10 1)

/-! ## Partitions (R182, R398) -/

/-- The sites of a bitmap at a physical address, rising (R180, R182). -/
def State.bitmapSites (s : State) (pa : Nat) : List (BitVec 10) :=
  let bs := s.physBytes pa 120
  ((List.range 960).filter (fun i => bit (bs.getD (i / 8) 0) (i % 8))).map (BitVec.ofNat 10)

/-- Does a physical address lie in the DRAM of a partition? -/
def inPartition (sites : List (BitVec 10)) (pa : Nat) : Bool :=
  paSlot pa < 960 && paOff pa < 4 * layerBytes && sites.any (fun c => c.toNat == paSlot pa)

/-- The rows that a bank of a column has in the thread layer for tenants (R105): those that firmware reserves for engines are not
among them (R17). Which those are the spec leaves open: the last two of bank 7 (log entry 67, DESIGN CHOICE). -/
def rowsPerBank (bank : Nat) : Nat := 16 * 1536 - (if bank == 7 then 2 else 0)

/-- The checks of CREATE on a partition of a tenant (R398). -/
def State.partitionOk (s : State) (t : BitVec 4) (sites : List (BitVec 10)) : Bool :=
  let x := s.ten t
  let n := sites.length
  let d := x.dirsize.toNat
  let k := x.kcsets
  n != 0 && sites.all (fun c => s.inService c.toNat && ((s.col c.toNat).owner.isNone || (s.col c.toNat).owner == some t)) &&
    8 * n ≤ d && d ≤ 2 ^ 28 && (List.range 8).all (fun b => ceilDiv ((d + 7 - b) / 8) n ≤ rowsPerBank b) &&
    k != 0 && (k &&& (k - 1)) == 0 &&
    inPartition sites x.ptbase.toNat && inPartition sites x.dirbase.toNat && inPartition sites x.kcbase.toNat

/-- The thread-layer row of rank `i` in a bank: lowest group first, then lowest index (R398). -/
def rankEntry (site : BitVec 10) (bank i : Nat) : DirEntry :=
  ⟨site, BitVec.ofNat 3 bank, BitVec.ofNat 4 (i / 1536), BitVec.ofNat 11 (i % 1536), true, false⟩

/-- The entry of id `n` in the directory of a new partition (R398). -/
def builtEntry (sites : List (BitVec 10)) (n : Nat) : DirEntry :=
  let c := sites.length
  rankEntry (sites.getD (n / 8 % c) 0) (n % 8) (n / 8 / c)

/-- Bytes of any length written at their homes by the device. -/
def State.deviceFill (s : State) (pa : Nat) (data : List Byte) : State :=
  let s := (List.range (data.length / 256 + 2)).foldl (fun s i => s.recall (pa / 256 + i) none) s
  { s with mem := s.mem.writeBytes pa data, poison := unpoison s.poison pa data.length }

/-- Columns taken by a tenant; the ways of their spans that are gated begin to wake (R117) (log entry 24, DESIGN CHOICE). -/
def State.takeColumns (s : State) (t : BitVec 4) (sites : List (BitVec 10)) : State :=
  let s := sites.foldl (fun s c => s.setCol c.toNat { s.col c.toNat with owner := some t }) s
  (sites.map (fun c => spanOfSite c.toNat)).eraseDups.foldl (fun s i =>
    s.setSpan i { s.span i with waking := (s.span i).waking ||| (s.span i).gated }) s

/-- CREATE (R398). A partition map that cannot be read ends it, and REPART, with FAULT (R397) (log entry 30, DESIGN CHOICE). -/
def State.create (s : State) (e : List Byte) : State :=
  let t := entTenant e
  let x := s.ten t
  if x.st != .absent then s.refuseMgmt e 6
  else
    match s.argError t x.partmap.toNat 120 with
    | some n => s.faultMgmt e n
    | none =>
    let sites := s.bitmapSites x.partmap.toNat
    if !s.partitionOk t sites then s.refuseMgmt e 7
    else
      let dir := (List.range x.dirsize.toNat).flatMap (fun n => toBytes 8 (builtEntry sites n).toBits)
      let s := s.takeColumns t sites
      let s := sites.foldl (fun s c => s.setCol c.toNat { s.col c.toNat with xb := 0x1000 }) s
      let s := s.deviceFill x.dirbase.toNat dir
      let y := x.clear
      let s := s.setTen t { y with
        st := .active, key := s.fresh, keyslot := BitVec.ofNat 8 (Config.keySlot s.fresh), hiend := 0x1000, cols := sites
        stopping := false, image := none, removing := false }
      ({ s with fresh := s.fresh + 1, rows := s.rowsWithout t } : State).okMgmt e 0

/-- CREATE (R398): the command in its turn. -/
def execCreate (s : State) : Host.Outcome State Fault Refusal := .next (s.mgmt 0x41 s.create)

/-- The ids of a tenant that name no row. -/
def State.freedIds (s : State) (t : BitVec 4) : List Nat :=
  (List.range (s.ten t).dirsize.toNat).filter (fun n => !(s.dir ⟨t, BitVec.ofNat 32 n⟩).valid)

/-- The ids that joining columns receive, with their entries: id `n` goes to bank `n` mod 8 of joining column (`n` div 8) mod J, to
its lowest row not yet given (log entry 30, DESIGN CHOICE). -/
def joinEntries (joins : List (BitVec 10)) : List Nat → List (Nat × DirEntry) → List (Nat × DirEntry)
  | [], acc => acc.reverse
  | n :: l, acc =>
    let site := joins.getD (n / 8 % joins.length) 0
    let rank := (acc.filter (fun (_, d) => d.site == site && d.bank.toNat == n % 8)).length
    if rank < rowsPerBank (n % 8) then joinEntries joins l ((n, rankEntry site (n % 8) rank) :: acc) else joinEntries joins l acc

/-- REPART (R398). It refuses too where a placed launch has still to allocate rows on a column that leaves, of which the table's check
does not speak (log entry 30, DESIGN CHOICE). -/
def State.repart (s : State) (e : List Byte) : State :=
  let t := entTenant e
  let x := s.ten t
  if x.st != .stopped then s.refuseMgmt e 6
  else
    match s.argError t x.partmap.toNat 120 with
    | some n => s.faultMgmt e n
    | none =>
    let sites := s.bitmapSites x.partmap.toNat
    let leaves := x.cols.filter (fun c => !sites.contains c)
    let joins := sites.filter (fun c => !x.cols.contains c)
    if !s.partitionOk t sites ||
      leaves.any (fun c => (s.idsAt t c).any (fun n => (s.row ⟨t, n⟩).st != .free) ||
        x.launches.any (fun l => l.todo.any (fun y => y.site == c))) then s.refuseMgmt e 7
    else
      let s := leaves.foldl (fun s c => s.releaseColumn t c) s
      let s := (leaves.map (fun c => spanOfSite c.toNat)).eraseDups.foldl (fun s i => s.gateSpan i) s
      let s := s.takeColumns t joins
      let s := if joins.isEmpty then s
        else (joinEntries joins (s.freedIds t) []).foldl (fun s (n, d) => s.setDir ⟨t, BitVec.ofNat 32 n⟩ d) s
      (s.setTen t { s.ten t with cols := sites }).okMgmt e sites.length

/-- REPART (R398): the command in its turn. -/
def execRepart (s : State) : Host.Outcome State Fault Refusal := .next (s.mgmt 0x42 s.repart)

/-! ## Swapping (R274, R275) -/

/-- What a swap saves of a column (R274): of the code store what lies above the engine region, so that the images below XB stand
again where it is restored. -/
def State.columnImage (s : State) (t : BitVec 4) (site : BitVec 10) : ColImage :=
  let c := s.col site.toNat
  ⟨site, c.xb, c.wmk, c.mb, c.arr, c.scratch, c.code.filter (fun x => 0x1000 ≤ x.1), c.chans, c.jobs, c.jobCtr,
    c.execs.toList.map (fun x => x.binds.filter (fun b => b.tenant == t)), c.comp.filter (fun x => x.t == t), c.spawnq, c.mq, c.mqHeld⟩

/-- What a swap saves of a span. -/
def State.spanImage (s : State) (t : BitVec 4) (i : Nat) : SpanImage :=
  let x := s.span i
  ⟨BitVec.ofNat 7 i, s.spanWhole i t, x.wpart, if s.spanWhole i t then x.scratch else [],
    x.pool.filter (fun (_, p) => p.tenant == t && p.st != 0)⟩

/-- The spans that a swap saves something of: those of the tenant's columns, and those that hold a place of it (R274). -/
def State.imageSpans (s : State) (t : BitVec 4) : List Nat :=
  (s.tenantSpans t ++ (s.spans.filter (fun (_, x) => x.pool.any (fun (_, p) => p.tenant == t && p.st != 0))).map (·.1)).eraseDups

/-- The image of a stopped tenant (R274). -/
def State.swapImage (s : State) (t : BitVec 4) : SwapImage :=
  let x := s.ten t
  ⟨s.fresh, (Config.swapSize s.fresh).toNat, s.rows.filter (fun (k, _) => (RowKey.ofKey k).t == t),
    (List.range x.dirsize.toNat).map (fun n => (BitVec.ofNat 32 n, s.mem64 (x.dirbase.toNat + 8 * n))),
    x.cols.map (fun c => s.columnImage t c), (s.imageSpans t).map (fun i => s.spanImage t i), s.wcomp.filter (fun c => c.t == t)⟩

/-- A column of a tenant that has been saved: what the image holds leaves it. -/
def Column.emptied (c : Column) (t : BitVec 4) : Column :=
  { c with
    tlb := c.tlb.filter (fun e => e.t != t), comp := c.comp.filter (fun e => e.t != t)
    execs := c.execs.map (fun e => { e with binds := e.binds.filter (fun b => b.tenant != t) })
    chans := Vector.replicate 16 Chan.reset, jobs := [], spawnq := []
    mq := Vector.replicate 4 [], mqHeld := Vector.replicate 4 [] }

/-- The bytes that a serial number's image is written as. -/
def imageBytes (serial size : Nat) : List Byte := (List.range size).map (Config.swapByte serial)

/-- A destination or source of an image (R398): a bulk layer of a good column, or host memory. -/
def State.imagePlace (s : State) (a size : Nat) : Bool :=
  (paSlot a < 960 && s.good (paSlot a) && layerBytes ≤ paOff a && paOff a + size ≤ 4 * layerBytes) ||
    (2 ^ 43 ≤ a && a + size ≤ 2 ^ 44)

/-- SWAPOUT (R274, R398): the items are saved at the destination, the columns freed, STATE := 4. It waits until the stop of the
tenant has ended (R273), and a destination in host memory outside the tenant's window ends it with FAULT (R389)
(log entry 31, DESIGN CHOICE). What becomes of the saved place records in the pool the spec does not say:
they are FREE, their other fields cleared and GEN as it stood (log entry 71, DESIGN CHOICE). -/
def State.swapOut (s : State) (e : List Byte) : State :=
  let t := entTenant e
  let x := s.ten t
  if x.st != .stopped then s.refuseMgmt e 6
  else if x.stopping then s
  else
    let dst := entField e 0x18 8
    let s := x.cols.foldl (fun s c => s.flushColumn c.toNat) s
    let image := s.swapImage t
    if 2 ^ 43 ≤ dst && !x.hostHas dst image.size then s.faultMgmt e 3
    else if !s.imagePlace dst image.size || entField e 0x20 8 < image.size then s.refuseMgmt e 7
    else
      let bs := imageBytes image.serial image.size
      let s : State := if 2 ^ 43 ≤ dst then { s with host := s.host.writeBytes (dst - 2 ^ 43) bs } else s.deviceFill dst bs
      let s : State := { s with
        fresh := s.fresh + 1
        rows := s.rowsWithout t
        cols := s.cols.map (fun (i, c) => (i, if c.owner == some t then c.emptied t else c))
        spans := s.spans.map (fun (i, y) => (i, { y with pool := y.pool.map (fun (j, p) =>
          (j, if p.tenant == t && p.st != 0 then { p with st := 0, prev := 0xFFFF, next := 0xFFFF, owner := 0, tenant := 0, obj := 0 } else p)) }))
        fields := s.fields.map (fun (i, f) => (i, { f with comp := f.comp.filter (fun c => c.t != t) }))
        wcomp := s.wcomp.filter (fun c => c.t != t) }
      let s := s.freeColumns t
      (s.setTen t { s.ten t with st := .swapped, image := some image }).okMgmt e image.size

/-- SWAPOUT (R398): the command in its turn. -/
def execSwapout (s : State) : Host.Outcome State Fault Refusal := .next (s.mgmt 0x43 s.swapOut)

/-- The column that takes the image of a saved site: the `i`th of the new partition for the `i`th saved one. -/
def movedSite (image : SwapImage) (sites : List (BitVec 10)) (site : BitVec 10) : BitVec 10 :=
  match image.cols.findIdx? (fun c => c.site == site) with
  | some i => sites.getD i 0
  | none => site

/-- The same in the grid of a resident launch (R181): a column that left the partition before the swap keeps its index there and
stands at no site, so that the site that may take another column's image is found once only (R275, R297). -/
def movedInGrid (image : SwapImage) (sites : List (BitVec 10)) (site : BitVec 10) : BitVec 10 :=
  if image.cols.any (fun c => c.site == site) then movedSite image sites site else 0x3FF

/-- May the image be restored on a partition (R275): an image for each column, no hold word in use moved, every saved pool index
free, and each place's home kept? -/
def State.restorable (s : State) (image : SwapImage) (sites : List (BitVec 10)) : Bool :=
  image.cols.length ≤ sites.length &&
    image.spans.all (fun x => x.places.all (fun (j, p) =>
      let word := BitVec.ofNat 10 (paSlot (64 * p.obj.toNat))
      movedSite image sites word == word && (NMap.get Place.reset (s.span x.span.toNat).pool j).st == 0))

/-- A row as it is restored: READYAT and PASS are rebuilt (R274), its armed monitors fire (R324); the sites its hidden state names move
with the images. -/
def Row.restored (r : Row) (move : BitVec 10 → BitVec 10) (now : Nat) : Row :=
  { r.fireAll with readyAt := now, pass := 0, countCol := move r.countCol, tickets := r.tickets.map (fun x => { x with site := move x.site }) }

/-- A column image restored on a column (R275). -/
def Column.restored (c : Column) (t : BitVec 4) (m : ColImage) (move : BitVec 10 → BitVec 10) : Column :=
  { c with
    xb := m.xb, wmk := m.wmk, mb := m.mb, arr := m.arr, scratch := m.scratch, badScratch := []
    code := m.code.foldl (fun (k : Memory) x => k.write x.1 x.2) (c.code.zeroRange 0x1000 0x10000)
    badCode := wordsOutside c.badCode 0x1000 0x10000
    chans := m.chans, jobs := m.jobs, jobCtr := m.jobCtr, comp := c.comp ++ m.comp
    spawnq := m.spawnq.map (fun x => { x with ccol := move x.ccol, target := move x.target })
    mq := m.mq, mqHeld := m.mqHeld
    execs := Vector.ofFn (fun (i : Fin 8) => { c.execs[i] with
      binds := (c.execs[i]).binds.filter (fun b => b.tenant != t) ++ m.binds.getD i.val [] }) }

/-- The completion entries of fields and wafer, rebuilt from those of the restored columns (R205, R275). -/
def State.rebuildComp (s : State) (t : BitVec 4) (image : SwapImage) : State :=
  image.wcomp.foldl (fun s w =>
    let has := (s.ten t).cols.filter (fun c => (compOf (s.col c.toNat).comp t w.lnch).isSome)
    let fs := (has.map (fun c => fieldOfSite c.toNat)).eraseDups
    let s := fs.foldl (fun s f =>
      let n := (has.filter (fun c => fieldOfSite c.toNat == f)).length
      s.setField f { s.field f with comp := (s.field f).comp ++ [⟨t, w.lnch, BitVec.ofNat 18 n, w.cancelled⟩] }) s
    { s with wcomp := s.wcomp ++ [{ w with count := BitVec.ofNat 18 fs.length }] }) s

/-- The span that takes the scratchpad of a saved span: the one in which all its saved columns land (R275). Where they land in several,
or in one that is not wholly the tenant's, the saved scratchpad and WPART are dropped (log entry 84, DESIGN CHOICE). -/
def landedSpan (image : SwapImage) (move : BitVec 10 → BitVec 10) (span : Nat) : Option Nat :=
  match (((image.cols.filter (fun c => spanOfSite c.site.toNat == span)).map (fun c => spanOfSite (move c.site).toNat)).eraseDups) with
  | [j] => some j
  | _ => none

/-- The image restored on a partition that has passed its checks (R243, R275). The restore of a span's scratchpad follows the wake of its
ways, which it includes (R117) (log entry 24, DESIGN CHOICE). -/
def State.restore (s : State) (t : BitVec 4) (image : SwapImage) (sites : List (BitVec 10)) : State :=
  let move := movedSite image sites
  let x := s.ten t
  let s := s.takeColumns t sites
  let s := (image.cols.zip sites).foldl (fun s (m, c) => s.setCol c.toNat ((s.col c.toNat).restored t m move)) s
  let s := image.spans.foldl (fun s m =>
    let i := m.span.toNat
    let y := s.span i
    let y : Span := { y with pool := m.places.foldl (fun p (j, q) => NMap.set p j q) y.pool }
    let s := s.setSpan i y
    match landedSpan image move i with
    | some j => if m.whole && s.spanWhole j t
      then s.setSpan j { s.span j with scratch := m.scratch, wpart := m.wpart, bad := [], gated := 0, waking := 0 } else s
    | none => s) s
  let dir := image.dir.flatMap (fun (_, w) =>
    let d := DirEntry.ofBits w
    toBytes 8 (if d.valid then { d with site := move d.site, moving := false } else d).toBits)
  let s := s.deviceFill x.dirbase.toNat dir
  let s : State := { s with rows := image.rows.foldl (fun (m : NMap Row) (k, r) => NMap.set m k (r.restored move s.time)) s.rows }
  let s := s.setTen t { x with
    cols := sites, image := none, st := .stopped
    launches := x.launches.map (fun l => { l with grid := l.grid.map (movedInGrid image sites), todo := l.todo.map (fun c => { c with site := move c.site }) }) }
  s.rebuildComp t image

/-- SWAPIN (R275, R398): the bitmap becomes PARTMAP and is checked as for CREATE; the image is restored; STATE := 2. A source whose
bytes are not those of the image is refused (log entry 31, DESIGN CHOICE); a bitmap or a source that cannot be read ends it with
FAULT (R397). -/
def State.swapIn (s : State) (e : List Byte) : State :=
  let t := entTenant e
  let x := s.ten t
  match x.st, x.image with
  | .swapped, some image =>
    let src := entField e 0x18 8
    let map := entField e 0x20 8
    let sites := s.bitmapSites map
    match (s.argError t map 120).orElse (fun _ => s.argError t src image.size) with
    | some n => s.faultMgmt e n
    | none =>
    let there := s.physBytes src image.size
    if !s.partitionOk t sites || !s.imagePlace src image.size || !s.restorable image sites ||
      there != imageBytes image.serial image.size then s.refuseMgmt e 7
    else
      let s := s.setTen t { x with partmap := BitVec.ofNat 44 map &&& ~~~0xFF#44 }
      (s.restore t image sites).okMgmt e 0
  | _, _ => s.refuseMgmt e 6

/-- SWAPIN (R398): the command in its turn. -/
def execSwapin (s : State) : Host.Outcome State Fault Refusal := .next (s.mgmt 0x44 s.swapIn)

/-! ## REMOVE, HOSTWIN, PAIR, UNPAIR, REINSTATE (R398, R403, R410) -/

/-- REMOVE (R398): a tenant reset first, where the tenant is active or stopped; its end removes the tenant. -/
def State.remove (s : State) (e : List Byte) : State :=
  let t := entTenant e
  let x := s.ten t
  if x.removing then s
  else
    match x.st with
    | .active => (s.setTen t { x with removing := true }).beginReset t
    | .stopped => (s.setTen t { x with removing := true }).beginReset t
    | .swapped => (s.removeTenant t).okMgmt e 0
    | _ => s.refuseMgmt e 6

/-- REMOVE (R398): the command in its turn. -/
def execRemove (s : State) : Host.Outcome State Fault Refusal := .next (s.mgmt 0x45 s.remove)

/-- HOSTWIN (R398). -/
def State.hostWin (s : State) (e : List Byte) : State :=
  let t := entTenant e
  let x := s.ten t
  let lo := entField e 0x18 8
  let hi := entField e 0x20 8
  if !(x.st == .active || x.st == .stopped || x.st == .swapped) then s.refuseMgmt e 6
  else if !aligned lo 4096 || !aligned hi 4096 || 2 ^ 43 ≤ lo || 2 ^ 43 ≤ hi || hi ≤ lo then s.refuseMgmt e 7
  else (s.setTen t { x with hwbase := BitVec.ofNat 64 lo, hwlimit := BitVec.ofNat 64 hi, hwen := entField e 0x28 1 == 1 }).okMgmt e 0

/-- HOSTWIN (R398): the command in its turn. -/
def execHostwin (s : State) : Host.Outcome State Fault Refusal := .next (s.mgmt 0x46 s.hostWin)

/-- PAIR (R398, R403): the checks; pairing then proceeds until both wafers have completed their session
(log entry 38, DEDUCED). -/
def State.pair (s : State) (e : List Byte) : State :=
  let i := entField e 0x10 1
  let t := BitVec.ofNat 4 (entField e 0x14 1)
  let x := s.ten t
  match s.links.find? (fun y => y.1 == i) with
  | none => s.refuseMgmt e 7
  | some (_, link) =>
    if link.pairing.isSome then s
    else if !(x.st == .active || x.st == .stopped) then s.refuseMgmt e 6
    else if (s.col link.site.toNat).owner != some t then s.refuseMgmt e 7
    else { s with links := NMap.set s.links i { link with pairing := some ⟨t, entCpl e, entTag e⟩ } }

/-- PAIR (R398): the command in its turn. -/
def execPair (s : State) : Host.Outcome State Fault Refusal := .next (s.mgmt 0x47 s.pair)

/-- PAIRING_COMPLETE (R403): both wafers have completed an SPDM session over link `sel.link`, and it is paired; or the peer has
declined (`sel.arr`) (log entry 38, DEDUCED). -/
def execPairingComplete (s : State) : Host.Outcome State Fault Refusal :=
  let i := s.sel.link.toNat
  match s.links.find? (fun y => y.1 == i) with
  | none => .next s
  | some (_, link) =>
    match link.pairing with
    | none => .next s
    | some p =>
      let up := !s.sel.arr && (s.col link.site.toNat).owner == some p.t
      let link : Link := { link with pairing := none, paired := if up then some p.t else link.paired }
      let s : State := { s with links := NMap.set s.links i link }
      .next (s.answerMgmt p.cpl p.ctag 1 0 (if up then 1 else 0))

/-- UNPAIR (R398, R403): the pairing of the link ends. -/
def execUnpair (s : State) : Host.Outcome State Fault Refusal :=
  .next (s.mgmt 0x48 (fun e => (s.endPairing (entField e 0x10 1)).okMgmt e 0))

/-- REINSTATE (R398, R410): the re-test of a retired column that no tenant owns; where it passes, the column is reset, every
full/empty bit of it full (R407), and its retirement bit cleared (log entry 37, DESIGN CHOICE). -/
def State.reinstate (s : State) (e : List Byte) : State :=
  let site := entField e 0x10 2
  let c := s.col site
  if 960 ≤ site || !bit (s.retired.getD (site / 32) 0) (site % 32) || c.owner.isSome then s.refuseMgmt e 7
  else
    let pass := Config.retestPasses s.fresh
    let s : State := { s with fresh := s.fresh + 1 }
    if pass then
      let s := s.setCol site { Column.reset with skew := c.skew }
      (({ s with retired := setRetired s.retired site false, empty := s.empty.filter (fun w => paSlot (8 * w) != site) } : State).recap).okMgmt e 1
    else s.okMgmt e 0

/-- REINSTATE (R398): the command in its turn. -/
def execReinstate (s : State) : Host.Outcome State Fault Refusal := .next (s.mgmt 0x49 s.reinstate)

end Sys2Proof.Machine
end

