-- ==== Sys2Proof/Machine/Narrow.lean ====
section
/-! DEFINITION. The narrow instructions and the conversion (R341-R350). -/

namespace Sys2Proof.Machine

/-! ## V-NARROW (R341-R348) -/

/-- NV when bits [127:126] of an F6 or I6 source are not both 0 (R72). -/
def spareFlags (ef : Nat) (l : List VWord) : Flags := Flags.nvIf (efHasSpare ef && l.any (fun x => x.toNat / 2 ^ 126 != 0))

/-- The scale register gs of an operation: g(40 + k) (R341). -/
def scaleReg (k : BitVec 3) : BitVec 6 := BitVec.ofNat 6 (40 + k.toNat)

/-- An element-wise narrow word: a floating format by values, an integer format by encodings; `three` says whether vd is an
input (R342). -/
def narrow (ff : FFmt → RoundCtl → Nat → Nat → Nat → Nat × Flags) (fi : IFmt → Bool → Nat → Nat → Nat → Nat × Flags)
    (three : Bool) (d a b : BitVec 5) (p : BitVec 3) (s : State) : Host.Outcome State Fault Refusal :=
  word s p fun s =>
    let r := s.me
    let ef := r.ef
    let w := efWidth ef
    let c := s.ctl
    let x := lanewise w (128 / w) fun i =>
      let va := vlane (r.rv a) w i
      let vb := vlane (r.rv b) w i
      let vd := vlane (r.rv d) w i
      match efmt ef with
      | .flt f => ff f c va vb vd
      | .int f => fi f r.fsat va vb vd
      | .t2 => (vd, Flags.none)
    let sp := spareFlags ef (r.rv a :: r.rv b :: (if three then [r.rv d] else []))
    s.endVec (s.col s.here).chgNrw (sp.or x.2) (fun r => r.wv d x.1)

/-- A NaN among the inputs raises NV, a quiet one of E5 too (R342) (log entry 73, DEDUCED). -/
def nanRaises (l : List FVal) (x : Nat × Flags) : Nat × Flags := (x.1, x.2.or (Flags.nvIf (l.any FVal.isNan)))

/-- VNADD (R342). -/
def execVnadd (d a b : BitVec 5) (p : BitVec 3) (s : State) : Host.Outcome State Fault Refusal :=
  narrow (onVals fun fm c a b _ => nanRaises [a, b] (fAdd fm c a b))
    (fun fm sat a b _ => arith (· + ·) fm sat a b) false d a b p s

/-- VNSUB (R342). -/
def execVnsub (d a b : BitVec 5) (p : BitVec 3) (s : State) : Host.Outcome State Fault Refusal :=
  narrow (onVals fun fm c a b _ => nanRaises [a, b] (fSub fm c a b))
    (fun fm sat a b _ => arith (· - ·) fm sat a b) false d a b p s

/-- VNMUL (R342). -/
def execVnmul (d a b : BitVec 5) (p : BitVec 3) (s : State) : Host.Outcome State Fault Refusal :=
  narrow (onVals fun fm c a b _ => nanRaises [a, b] (fMul fm c a b))
    (fun fm sat a b _ => arith (· * ·) fm sat a b) false d a b p s

/-- VNFMA: element i of vd is the addend (R342). -/
def execVnfma (d a b : BitVec 5) (p : BitVec 3) (s : State) : Host.Outcome State Fault Refusal :=
  narrow (onVals fun fm c a b d => nanRaises [a, b, d] (fusedSum fm c [d] [(a, b)]))
    (fun fm sat a b d => fm.finish sat (fm.read a * fm.read b + fm.read d)) true d a b p s

/-- VNMAX: the larger element (R79, R342). -/
def execVnmax (d a b : BitVec 5) (p : BitVec 3) (s : State) : Host.Outcome State Fault Refusal :=
  narrow (fun fm c a b _ => fMinMax fm true c.ftz a b)
    (fun fm _ a b _ => (if fm.read a < fm.read b then b else a, Flags.none)) false d a b p s

/-- The elements i of a format with floor(4 i / n) = j: those of accumulator lane j (R344). -/
def laneMembers (n j : Nat) : List Nat := (List.range n).filter fun i => 4 * i / n == j

/-- The scaled value of a K8 element: a NaN scale makes it NaN (R71). -/
def k8Value (c : RoundCtl) (scale : Nat) (x : Nat) : FVal :=
  if scale == 255 then .nan true
  else
    match FFmt.e4.readFtz c.ftz x with
    | .fin n m e => .fin n m (e + scale - 127)
    | v => v

/-- The unmasked elements of the K8 blocks that a scale register names: bit 48 + i set masks element i (R344). -/
def k8Members (gs : DWord) : List Nat := (List.range 16).filter fun i => !bit gs (48 + i)

/-- VNDOT on each kind of format (R344). -/
def ndot (ef : Nat) (c : RoundCtl) (a b d : VWord) (gs : DWord) : VWord × Flags :=
  let w := efWidth ef
  let n := 128 / w
  let i32 : IFmt := ⟨32, true⟩
  let ints := fun (f : Nat → Int) j => i32.finish c.sat (((laneMembers n j).map f).foldl (· + ·) (i32.read (vlane d 32 j)))
  if ef == 13 then
    let l := k8Members gs
    let d0 := FFmt.f32.readFtz c.ftz (vlane d 32 0)
    let sa := (bits gs 0 8).toNat
    let sb := (bits gs 8 8).toNat
    let (x, fl) :=
      if l.isEmpty then ((FFmt.f32.write c d0).1, Flags.none)
      else fusedSum .f32 c [d0] (l.map fun i => (k8Value c sa (vlane a 8 i), k8Value c sb (vlane b 8 i)))
    (putLane d 32 0 x, fl)
  else
    match efmt ef with
    | .flt f =>
      lanewise 32 4 fun j =>
        fusedSum .f32 c [FFmt.f32.readFtz c.ftz (vlane d 32 j)]
          ((laneMembers n j).map fun i => (f.readFtz c.ftz (vlane a w i), f.readFtz c.ftz (vlane b w i)))
    | .int f => lanewise 32 4 (ints fun i => f.read (vlane a w i) * f.read (vlane b w i))
    | .t2 =>
      let i8 : IFmt := ⟨8, true⟩
      lanewise 32 4 fun j =>
        let l := (List.range 4).map fun i => 4 * j + i
        let (x, fl) := i32.finish c.sat ((l.map fun i => (readTrit (vlane a 2 i)).1 * i8.read (vlane b 8 i)).foldl (· + ·)
          (i32.read (vlane d 32 j)))
        (x, fl.or (Flags.nvIf (l.any fun i => (readTrit (vlane a 2 i)).2)))

/-- VNDOT (R344). -/
def execVndot (d a b : BitVec 5) (k p : BitVec 3) (s : State) : Host.Outcome State Fault Refusal :=
  word s p fun s =>
    let r := s.me
    let x := ndot r.ef s.ctl (r.rv a) (r.rv b) (r.rv d) (r.rg (scaleReg k))
    s.endVec (s.col s.here).chgNrw ((spareFlags r.ef [r.rv a, r.rv b]).or x.2) (fun r => r.wv d x.1)

/-- The conversion of one exact value y to a narrow format (R346). -/
def quantElem (ef : Nat) (c : RoundCtl) (y : FVal) : Nat × Flags :=
  match efmt ef with
  | .flt f => f.write c y
  | .int f => let (k, fl) := toClamped c.mode f.lo f.hi y; (f.wrap k, fl)
  | .t2 => let (k, fl) := toClamped c.mode (-1) 1 y; (writeTrit k, fl)

/-- VQUANT: the four F32 lanes of va times S into elements P to P + 3 of vd; elements from n on are dropped, every other
element keeps its bits (R346). The conversions raise their flags whether or not their element is dropped (log entry 15, DEDUCED). -/
def quant (ef : Nat) (c : RoundCtl) (a d : VWord) (gs : DWord) : VWord × Flags :=
  let w := efWidth ef
  let n := 128 / w
  let sv := FFmt.f32.readFtz c.ftz (bits gs 0 32).toNat
  let pos := (bits gs 32 6).toNat
  let ys := (List.range 4).map fun i =>
    let v := FFmt.f32.readFtz c.ftz (vlane a 32 i)
    let (y, fl) := v.mul sv
    let (x, fl') := quantElem ef c y
    (x, ((sigFlags [v, sv]).or fl).or fl')
  let x := packLanes w ((List.range n).map fun i =>
    if pos ≤ i && i < pos + 4 then (ys.getD (i - pos) (0, Flags.none)).1 else vlane d w i)
  (if n ≤ pos then d else x, Flags.orAll (ys.map (·.2)))

/-- VQUANT (R346, R347). Old bits [127:126] of an F6 or I6 destination whose other elements are kept are no input and raise no NV (R72)
(log entry 89, DESIGN CHOICE). -/
def execVquant (d a : BitVec 5) (k p : BitVec 3) (s : State) : Host.Outcome State Fault Refusal :=
  word s p fun s =>
    let r := s.me
    let x := quant r.ef s.ctl (r.rv a) (r.rv d) (r.rg (scaleReg k))
    s.endVec (s.col s.here).chgNrw x.2 (fun r => r.wv d x.1)

/-- The magnitude of a value. -/
def magnitude (v : FVal) : FVal := if v.isNeg then v.negate else v

/-- The scale E of R348: the smallest of 0x00-0xFE with M ≤ 448 · 2^(E − 127), else 0xFE. -/
def baqScale (m : FVal) : Nat :=
  ((List.range 255).find? fun (e : Nat) => m.cmp (.fin false 448 ((e : Int) - 127)) ≤ 0).getD 254

/-- VBAQ: the sum of two K8 blocks as a freshly scaled block, its scale, its flags (R348). -/
def baq (c : RoundCtl) (a b d : VWord) (gs : DWord) : VWord × Nat × Flags :=
  let l := k8Members gs
  let sa := (bits gs 0 8).toNat
  let sb := (bits gs 8 8).toNat
  let terms := fun i => [k8Value c sa (vlane a 8 i), k8Value c sb (vlane b 8 i)]
  let xs := l.map fun i => (i, sumExact c.mode (terms i))
  let m := xs.foldl (fun acc x => if !x.2.1.isNan && acc.cmp (magnitude x.2.1) < 0 then magnitude x.2.1 else acc) (.fin false 0 0)
  let e := if l.isEmpty then 0 else baqScale m
  let ys := xs.map fun x =>
    let v := match x.2.1 with
      | .fin n k q => FVal.fin n k (q - ((e : Int) - 127))
      | v => v
    let (y, fl) := FFmt.e4.write c v
    (x.1, y, ((sigFlags (terms x.1)).or x.2.2).or fl)
  let out := packLanes 8 ((List.range 16).map fun i =>
    match ys.find? (fun y => y.1 == i) with
    | some y => y.2.1
    | none => vlane d 8 i)
  (out, e, Flags.orAll (ys.map (·.2.2)))

/-- VBAQ (R348): gs takes the new scale in bits [23:16]. -/
def execVbaq (d a b : BitVec 5) (k p : BitVec 3) (s : State) : Host.Outcome State Fault Refusal :=
  word s p fun s =>
    let r := s.me
    let gs := r.rg (scaleReg k)
    let x := baq s.ctl (r.rv a) (r.rv b) (r.rv d) gs
    s.endVec (s.col s.here).chgNrw x.2.2
      (fun r => (r.wv d x.1).wg (scaleReg k) (setBits gs 16 (BitVec.ofNat 8 x.2.1)))

/-! ## V-CVT (R349, R350) -/

/-- The conversion of a part (R349); dropped results raise their flags too (log entry 15, DEDUCED). -/
def cvt (dst src part : Nat) (c : RoundCtl) (a d : VWord) : VWord × Flags :=
  let ws := efWidth src
  let wd := efWidth dst
  let ns := 128 / ws
  let nd := 128 / wd
  let one := fun i => convertElem dst src c (vlane a ws i)
  if ns < nd then
    let rs := (List.range ns).map one
    let x := packLanes wd ((List.range nd).map fun i =>
      if part * ns ≤ i && i < part * ns + ns then (rs.getD (i - part * ns) (0, Flags.none)).1 else vlane d wd i)
    (x, Flags.orAll (rs.map (·.2)))
  else
    lanewise wd nd fun i => if part * nd + i < ns then one (part * nd + i) else (0, Flags.none)

/-- The charge of a VCVT by its two formats (R334). -/
def State.cvtCost (s : State) (x y : BitVec 4) : Nat :=
  let c := s.col s.here
  let nrw := fun (e : BitVec 4) => 3 ≤ e.toNat && e.toNat ≤ 12
  let fpv := fun (e : BitVec 4) => e.toNat ≤ 2
  if nrw x || nrw y then c.chgNrw else if fpv x || fpv y then c.chgFpv else c.chgInt

/-- VCVT (R349): `x` the destination code, `y` the source code, `r` the part. Old bits [127:126] of a destination written in
part are no input and raise no NV (R72) (log entry 89, DESIGN CHOICE). -/
def execVcvt (d a r : BitVec 5) (x y : BitVec 4) (p : BitVec 3) (s : State) : Host.Outcome State Fault Refusal :=
  word s p fun s =>
    let me := s.me
    let z := cvt x.toNat y.toNat r.toNat s.ctl (me.rv a) (me.rv d)
    s.endVec (s.cvtCost x y) ((spareFlags y.toNat [me.rv a]).or z.2) (fun me => me.wv d z.1)

end Sys2Proof.Machine
end

