-- ==== Sys2Proof/Machine/Platform.lean ====
section
/-! DEFINITION. The host's link, its accesses to device memory and registers, attestation and power-up (R182, R386, R388, R390,
R391, R398, R404-R408). -/

namespace Sys2Proof.Machine

/-! ## HDM windows (R227, R388) -/

/-- A host access completes with an error (R388, R390, R398): the error message is sent; VERR.RANGE of the tenant that owns the
column is set, or HERR for a column of no tenant; a read returns bytes of 0 (log entry 19, DESIGN CHOICE)
(log entry 32, DESIGN CHOICE). -/
def State.hdmError (s : State) (site : Option Nat) (addr : BitVec 64) : State :=
  let s : State := { s with hostErr := true }
  let s := match site.bind (fun i => (s.col i).owner) with
    | some t => s.setVerr t 4 addr
    | none => { s with herr := true, herraddr := addr }
  if s.sel.acc.wr then s else { s with hostRead := List.replicate s.sel.acc.size 0 }

/-- An access of the host to DRAM at its home, as a host read or write (R227, R128). -/
def State.hdmDram (s : State) (pa : Nat) : State :=
  let a := s.sel.acc
  if a.wr then (s.recall (pa / 256) none).homeWrite pa a.data true
  else let s := (s.merge (pa / 256) none).touchSpan pa false; { s with hostRead := s.homeBytes pa a.size }

/-- HOST_HDM_ACCESS (R388): access `sel.acc` through HDM decoder 0, or 1 (`sel.slow`), at its offset from the decoder's base. An
access lies within one line of 64 bytes (log entry 32, DESIGN CHOICE). -/
def execHostHdmAccess (s : State) : Host.Outcome State Fault Refusal :=
  let a := s.sel.acc
  let o := a.hpa.toNat
  let n := if a.wr then a.data.length else a.size
  let addr := Config.hdmBase (if s.sel.slow then 1 else 0) + a.hpa
  if !s.bootLock || n == 0 || 64 < o % 64 + n then .next s
  else if s.sel.slow then
    let pa := slotBase 1024 + o
    if 1792 ≤ paSlot pa then .next s
    else
      let (i, k) := apertureOf pa
      if !s.rangeOn i k then .next (s.hdmError none addr)
      else if a.wr then .next (s.hdmError (some (paSlot ((s.span i).range k).1)) addr)
      else let s := s.homeReady pa none; .next { s with hostRead := s.homeBytes pa n }
  else if 960 ≤ paSlot o then .next s
  else if !s.good (paSlot o) || 4 * layerBytes ≤ paOff o || (paOff o < layerBytes && (s.poolRow o || engineRow (paOff o))) || (s.rangeAt o).isSome
  then .next (s.hdmError (some (paSlot o)) addr)
  else .next (s.hdmDram o)

/-! ## Attestation (R404, R405) -/

/-- The words of the harvest and retirement maps as bytes (R180). -/
def State.mapBytes (s : State) : List Byte := (s.harvest ++ s.retired).flatMap (toBytes 4)

/-- The six measurements as the device reports them (R404, R405): index 6 is the SHA-256 of the harvest and retirement maps; that of
a stage that failed, and of those behind it, 0 (log entry 34, DEDUCED). -/
def State.measurements (s : State) : List (List Byte) :=
  (List.range 6).map (fun i =>
    if s.bootStage.toNat ≤ i then List.replicate 32 0
    else if i == 5 then sha256 s.mapBytes else Config.measurement (i + 1))

/-- The SPDM 1.2 error Busy (R405) (log entry 33, PRESUMED). -/
def spdmBusy : List Byte := [0x12, 0x7F, 0x03, 0x00]

/-- The codes of the seven requests that are answered: GET_DIGESTS, GET_CERTIFICATE, CHALLENGE, GET_VERSION, GET_MEASUREMENTS,
GET_CAPABILITIES and NEGOTIATE_ALGORITHMS (R405) (log entry 33, PRESUMED). -/
def spdmRequests : List Byte := [0x81, 0x82, 0x83, 0x84, 0xE0, 0xE1, 0xE3]

/-- The six measurement blocks: each its index, and the measurement behind its size (R405) (log entry 33, PRESUMED). -/
def State.measurementBlocks (s : State) : List Byte :=
  ((List.range 6).zip s.measurements).flatMap (fun (i, m) =>
    [BitVec.ofNat 8 (i + 1), 1] ++ natToBytes 2 (m.length + 3) ++ [BitVec.ofNat 8 i] ++ natToBytes 2 m.length ++ m)

/-- The answer to an SPDM request (R405): its code is the request's less 0x80; GET_MEASUREMENTS returns the six indices; a request
that is none of the seven is unsupported (log entry 33, PRESUMED). -/
def State.spdmAnswer (s : State) (req : List Byte) : List Byte :=
  let code := req.getD 1 0
  if !spdmRequests.contains code then [0x12, 0x7F, 0x07, code]
  else
    [0x12, code - 0x80] ++
      (if code == 0xE0 then [0, 0, 6] ++ natToBytes 3 s.measurementBlocks.length ++ s.measurementBlocks else []) ++
      Config.spdmAnswer s.fresh req

/-- DOE_SPDM_REQUEST (R405): request `sel.acc.data` is answered; before boot stage 2 is complete, with Busy
(log entry 33, PRESUMED). -/
def execDoeSpdmRequest (s : State) : Host.Outcome State Fault Refusal :=
  if s.bootStage < 2 then .next { s with doe := spdmBusy }
  else .next { s with doe := s.spdmAnswer s.sel.acc.data, fresh := s.fresh + 1 }

/-! ## Power-up (R1, R2, R375, R404, R407, R408) -/

/-- A harvest map of grade B: 850 good columns (R1): those of grade A without x = 15, and in rows 10-29 without x = 14
(log entry 5, DESIGN CHOICE). -/
def harvestB : List (BitVec 32) := List.replicate 10 0x3FFF7FFF ++ List.replicate 20 0x3FFF3FFF

/-- The sites of the wafer edge beside a link, those that the model prefers for it first (R375; log entry 5, DESIGN CHOICE). -/
def edgeSites (link : Nat) : List Nat :=
  let at_ (j : Nat) : Nat := if link < 8 then j else if link < 16 then 32 * j + 29 else if link < 24 then 32 * 29 + j else 32 * j
  at_ (3 * (link % 8) + 3) :: (List.range 30).map at_

/-- The gateway columns that firmware names at boot: for each link a column in service on its edge, another for each link where there
are enough (R375). -/
def State.nameLinks (s : State) : NMap Link :=
  (List.range 32).foldl (fun l i =>
    let free (x : Nat) : Bool := s.inService x && !l.any (fun (_, y) => y.site.toNat == x)
    let edge := edgeSites i
    let site := ((edge.find? free).orElse (fun _ => edge.find? s.inService)).getD (edge.headD 0)
    l ++ [(i, ⟨BitVec.ofNat 10 site, none, none, 0⟩)]) []

/-- The device of a harvest and a retirement map right after a boot (R1, R2): the grade enters through the maps, the power limit and
the gateway columns alone. -/
def State.resetOf (harvest retired : List (BitVec 32)) : State :=
  let s : State := { State.reset with harvest := harvest, retired := retired, mplim := mplimReset harvest }
  { s with links := s.nameLinks }

/-- The device of grade B after its first boot (R1). -/
def State.resetB : State := State.resetOf harvestB (List.replicate 30 0)

/-- CHG as boot firmware leaves it, before the boot lock (R102): each 8 bytes of `data` name a column in service and the value, which the
register refuses or takes as it would from SRW. Which columns it writes, and what, the spec does not say: the schedule chooses
(log entry 35, DEDUCED). -/
def State.firmwareChg (s : State) (data : List Byte) : State :=
  (List.range (data.length / 8)).foldl (fun s j =>
    let site := bytesToNat ((data.drop (8 * j)).take 4)
    if s.inService site then
      match (s.col site).writeSr 2 (BitVec.ofNat 64 (bytesToNat ((data.drop (8 * j + 4)).take 4))) with
      | some c => s.setCol site c
      | none => s
    else s) s

/-- POWER_UP (R404, R407): the device boots: every register takes its reset value, every full/empty bit is full, no tenant is there.
The maps stay, and power-up writes no DRAM data. Boot firmware may write CHG of columns, as
`sel.acc` says (R102). Where stage `sel.fail` fails its verification, the boot halts before
the boot lock (log entry 35, DEDUCED). -/
def execPowerUp (s : State) : Host.Outcome State Fault Refusal :=
  let n := s.sel.fail.toNat
  let halted := n != 0 && n < 7
  .next { (State.resetOf s.harvest s.retired).firmwareChg s.sel.acc.data with
    mem := s.mem, host := s.host, schedule := s.schedule, fresh := s.fresh
    linkWidth := s.linkWidth, linkRate := s.linkRate
    bootStage := if halted then BitVec.ofNat 4 (n - 1) else 6
    bootLock := !halted }

/-- HOST_LINK_TRAINING (R386): the host link trains: x16, or x8 (`sel.x8`), at 64 GT/s, or 32 or 16 (`sel.q`). -/
def execHostLinkTraining (s : State) : Host.Outcome State Fault Refusal :=
  .next { s with
    linkWidth := if s.sel.x8 then 8 else 16
    linkRate := if s.sel.q == 0 then 64 else if s.sel.q == 1 then 32 else 16 }

/-! ## BAR0 registers (R182, R390, R391, R398, R408) -/

/-- The low or the high word of a 64-bit register written, only the bits of a mask stored. -/
def writeHalf (old mask : BitVec 64) (hi : Bool) (v : BitVec 32) : BitVec 64 :=
  (if hi then setBits old 32 v else setBits old 0 v) &&& mask

/-- Bits [43:8]. -/
def ptrMask : BitVec 64 := 0xFFFFFFFFF00

/-- A write of VCTL by an access at an address (R390): one bit at most, in a state that permits it. RESET of a tenant that is absent or
swapped out, of which the rule does not speak, is dropped like them (log entry 96, DESIGN CHOICE). -/
def State.writeVctl (s : State) (t : BitVec 4) (v : BitVec 32) (addr : BitVec 64) : State :=
  match (s.ten t).st, (bits v 0 3).toNat with
  | _, 0 => s
  | .active, 1 => s.beginReset t
  | .stopped, 1 => s.beginReset t
  | .active, 2 => s.stopTenant t
  | .stopped, 4 => s.startTenant t
  | _, _ => s.writeError t 2 addr

/-- The field of the tenant record at a word offset written (R182, R391); none where it is read-only. -/
def Tenant.writeRecord (x : Tenant) (off : Nat) (v : BitVec 32) : Option Tenant :=
  match off with
  | 0x108 => some { x with ptbase := (writeHalf (x.ptbase.setWidth 64) ptrMask false v).setWidth 44 }
  | 0x10C => some { x with ptbase := (writeHalf (x.ptbase.setWidth 64) ptrMask true v).setWidth 44 }
  | 0x110 => some { x with dirbase := (writeHalf (x.dirbase.setWidth 64) 0xFFFFFFFFFF8 false v).setWidth 44 }
  | 0x114 => some { x with dirbase := (writeHalf (x.dirbase.setWidth 64) 0xFFFFFFFFFF8 true v).setWidth 44 }
  | 0x118 => some { x with dirsize := bits v 0 29 }
  | 0x120 => some { x with partmap := (writeHalf (x.partmap.setWidth 64) ptrMask false v).setWidth 44 }
  | 0x124 => some { x with partmap := (writeHalf (x.partmap.setWidth 64) ptrMask true v).setWidth 44 }
  | 0x128 => some { x with kcbase := (writeHalf (x.kcbase.setWidth 64) ptrMask false v).setWidth 44 }
  | 0x12C => some { x with kcbase := (writeHalf (x.kcbase.setWidth 64) ptrMask true v).setWidth 44 }
  | 0x130 => some { x with kcsets := bits v 0 16 }
  | 0x008 => some { x with cqbase := writeHalf x.cqbase ptrMask false v }
  | 0x00C => some { x with cqbase := writeHalf x.cqbase ptrMask true v }
  | 0x010 => some { x with fqbase := writeHalf x.fqbase ptrMask false v }
  | 0x014 => some { x with fqbase := writeHalf x.fqbase ptrMask true v }
  | _ => none

/-- A word of VF BAR0 written by an access of the host at an address (R390, R391): in STATE 3 with VERR.RESET; record fields and
ring bases only in STATE 0 or 2. -/
def State.writeVf (s : State) (t : BitVec 4) (addr : BitVec 64) (off : Nat) (v : BitVec 32) : State :=
  let x := s.ten t
  if x.st == .resetting then s.writeError t 3 addr
  else if off == 0x004 then s.writeVctl t v addr
  else if off == 0x018 then s.bell t
  else if off == 0x01C then s.setTen t { x with verr := x.verr &&& ~~~(bits v 0 6) }
  else
    match x.writeRecord off v with
    | none => s
    | some y =>
      if x.st == .absent || x.st == .stopped then s.setTen t y else s.writeError t 2 addr

/-- A word of PF0 BAR0 written by the host (R398, R408). -/
def State.writePf (s : State) (off : Nat) (v : BitVec 32) : State :=
  match off with
  | 0x000 => { s with mqbase := writeHalf s.mqbase ptrMask false v }
  | 0x004 => { s with mqbase := writeHalf s.mqbase ptrMask true v }
  | 0x008 => s.mbell
  | 0x010 => { s with mqovf := s.mqovf && !bit v 0, herr := s.herr && !bit v 1 }
  | 0x100 => s.writeMplim (bits v 0 16)
  | _ => s

/-- A word of VF BAR0 read (R390, R391): 0 in STATE 3, but for VSTAT. -/
def Tenant.readVf (x : Tenant) (off : Nat) : BitVec 32 :=
  let st : Nat := match x.st with
    | .absent => 0
    | .active => 1
    | .stopped => 2
    | .resetting => 3
    | .swapped => 4
  match off with
  | 0x000 => BitVec.ofNat 32 st
  | 0x008 => bits x.cqbase 0 32
  | 0x00C => bits x.cqbase 32 32
  | 0x010 => bits x.fqbase 0 32
  | 0x014 => bits x.fqbase 32 32
  | 0x01C => x.verr.setWidth 32
  | 0x020 => bits x.verraddr 0 32
  | 0x024 => bits x.verraddr 32 32
  | 0x100 => BitVec.ofNat 32 (st + 256 * x.keyslot.toNat)
  | 0x108 => bits x.ptbase 0 32
  | 0x10C => bits x.ptbase 32 32
  | 0x110 => bits x.dirbase 0 32
  | 0x114 => bits x.dirbase 32 32
  | 0x118 => x.dirsize.setWidth 32
  | 0x120 => bits x.partmap 0 32
  | 0x124 => bits x.partmap 32 32
  | 0x128 => bits x.kcbase 0 32
  | 0x12C => bits x.kcbase 32 32
  | 0x130 => x.kcsets.setWidth 32
  | 0x138 => x.nextLnch
  | _ => 0

/-- A word of PF0 BAR0 read (R398, R408). -/
def State.readPf (s : State) (off : Nat) : BitVec 32 :=
  match off with
  | 0x000 => bits s.mqbase 0 32
  | 0x004 => bits s.mqbase 32 32
  | 0x010 => (BitVec.ofBool s.herr ++ BitVec.ofBool s.mqovf).setWidth 32
  | 0x018 => bits s.herraddr 0 32
  | 0x01C => bits s.herraddr 32 32
  | 0x100 => s.mplim.setWidth 32
  | 0x104 => s.mpnow.setWidth 32
  | 0x108 => if s.throt then 1 else 0
  | _ =>
    if 0x200 ≤ off && off < 0x300 then
      let x := s.ten (BitVec.ofNat 4 ((off - 0x200) / 16))
      match off % 16 with
      | 0 => bits x.hwbase 0 32
      | 4 => bits x.hwbase 32 32
      | 8 => bits x.hwlimit 0 32 ||| (if x.hwen then 1 else 0)
      | _ => bits x.hwlimit 32 32
    else 0

/-- A word of a function's BAR0 written: PF0 (`sel.arr`) or the VF of tenant `sel.t`. -/
def State.writeBar (s : State) (addr : BitVec 64) (off : Nat) (v : BitVec 32) : State :=
  if s.sel.arr then s.writePf off v else s.writeVf s.sel.t addr off v

/-- A word of a function's BAR0 read; a read of the VF in STATE 3 that is no VSTAT read sets VERR.RESET (R390). -/
def State.readBar (s : State) (addr : BitVec 64) (off : Nat) : State :=
  if s.sel.arr then { s with hostRead := s.hostRead ++ toBytes 4 (s.readPf off) }
  else
    let x := s.ten s.sel.t
    if x.st == .resetting && off != 0 then
      let s := s.writeError s.sel.t 3 addr
      { s with hostRead := s.hostRead ++ toBytes 4 (0 : BitVec 32) }
    else { s with hostRead := s.hostRead ++ toBytes 4 (x.readVf off) }

/-- State register `sel.off` (R92) written with `sel.v` by the host or a wafer management core (R100, R102): a register of tenant
`sel.t`, as SRW writes it; the decode ranges of span `sel.span`; CHG of column `sel.site`, one in service, before the boot lock. A value that the
register refuses is dropped. -/
def State.writeShared (s : State) : State :=
  let r := s.sel.off
  let v := srSource r s.sel.v
  let site := s.sel.site.toNat
  match srClass r with
  | 1 =>
    if srIndex r == 2 && !s.bootLock && s.inService site then
      match (s.col site).writeSr 2 v with
      | some c => s.setCol site c
      | none => s
    else s
  | 2 => if s.bootLock then (s.writeRange s.sel.span.toNat (srIndex r) v).getD s else s
  | 4 =>
    if s.bootLock && srIndex r != 0 then
      match (s.ten s.sel.t).writeSr (srIndex r) v with
      | some x => s.setTen s.sel.t x
      | none => s
    else s
  | _ => s

/-- REGISTER_WRITE (R100, R102, R182, R390, R391, R398, R408): the host writes `sel.v` at offset `sel.off` of BAR0, 4 or 8 bytes
(`sel.x8`); with `sel.slow` it reads there instead; with `sel.sr` the host or a wafer management core writes a state register. -/
def execRegisterWrite (s : State) : Host.Outcome State Fault Refusal :=
  let off := s.sel.off.toNat
  let addr := BitVec.ofNat 64 off
  let n := if s.sel.x8 then 8 else 4
  if s.sel.sr then .next s.writeShared
  else if !s.bootLock || !aligned off n then .next s
  else if s.sel.slow then
    let s := ({ s with hostRead := [] } : State).readBar addr off
    .next (if s.sel.x8 then s.readBar addr (off + 4) else s)
  else
    let v := s.sel.v
    let s := s.writeBar addr off (bits v 0 32)
    .next (if s.sel.x8 then s.writeBar addr (off + 4) (bits v 32 32) else s)

end Sys2Proof.Machine
end

