-- ==== Sys2Proof/Machine/ScalarFloat.lean ====
section
/-! DEFINITION. The scalar floating-point instructions (R80, R359, R360): they ignore FMT.EF, FMT.SAT and FMT.FTZ, and charge
nothing (R334). -/

namespace Sys2Proof.Machine

/-- F64, or F32 when fn[0] is 1 (R359). -/
def scalarFmt (w : BitVec 1) : FFmt := if w == 1 then .f32 else .f64

/-- The rounding of the scalar unit: the mode in force alone (R80). -/
def State.sctl (s : State) : RoundCtl := ⟨s.mode, false, false⟩

/-- An F-R word: operands as encodings, the result zero-extended, its flags ORed into EXC (R359). -/
def fscalar (f : FFmt → RoundCtl → Nat → Nat → Nat → Nat × Flags) (d a b : BitVec 6) (w : BitVec 1) (p : BitVec 3) (s : State) :
    Host.Outcome State Fault Refusal :=
  word s p fun s =>
    let r := s.me
    let fm := scalarFmt w
    let x := f fm s.sctl (r.rg a).toNat (r.rg b).toNat (r.rg d).toNat
    s.finish ((r.wg d (BitVec.ofNat 64 x.1)).raise x.2.toBits)

/-- FADD (R359). -/
def execFadd (d a b : BitVec 6) (w : BitVec 1) (p : BitVec 3) (s : State) : Host.Outcome State Fault Refusal :=
  fscalar (fun fm c a b _ => fAdd fm c (fm.read a) (fm.read b)) d a b w p s

/-- FSUB (R359). -/
def execFsub (d a b : BitVec 6) (w : BitVec 1) (p : BitVec 3) (s : State) : Host.Outcome State Fault Refusal :=
  fscalar (fun fm c a b _ => fSub fm c (fm.read a) (fm.read b)) d a b w p s

/-- FMUL (R359). -/
def execFmul (d a b : BitVec 6) (w : BitVec 1) (p : BitVec 3) (s : State) : Host.Outcome State Fault Refusal :=
  fscalar (fun fm c a b _ => fMul fm c (fm.read a) (fm.read b)) d a b w p s

/-- FFMA: Round(a × b + d), fused (R81, R359). -/
def execFfma (d a b : BitVec 6) (w : BitVec 1) (p : BitVec 3) (s : State) : Host.Outcome State Fault Refusal :=
  fscalar (fun fm c a b d => fusedSum fm c [fm.read d] [(fm.read a, fm.read b)]) d a b w p s

/-- FDIV (R359). -/
def execFdiv (d a b : BitVec 6) (w : BitVec 1) (p : BitVec 3) (s : State) : Host.Outcome State Fault Refusal :=
  fscalar (fun fm c a b _ => fDiv fm c (fm.read a) (fm.read b)) d a b w p s

/-- FSQRT (R359). -/
def execFsqrt (d a : BitVec 6) (w : BitVec 1) (p : BitVec 3) (s : State) : Host.Outcome State Fault Refusal :=
  fscalar (fun fm c a _ _ => fSqrt fm c (fm.read a)) d a 0 w p s

/-- FMIN: minimumNumber (R79, R359). -/
def execFmin (d a b : BitVec 6) (w : BitVec 1) (p : BitVec 3) (s : State) : Host.Outcome State Fault Refusal :=
  fscalar (fun fm _ a b _ => fMinMax fm false false a b) d a b w p s

/-- FMAX: maximumNumber (R79, R359). -/
def execFmax (d a b : BitVec 6) (w : BitVec 1) (p : BitVec 3) (s : State) : Host.Outcome State Fault Refusal :=
  fscalar (fun fm _ a b _ => fMinMax fm true false a b) d a b w p s

/-- The format of an FCVT code: 0 F64, 1 F32, 2 BF16, 3 H16, 4 I64, 5 I32, 6 N64, 7 N32 (R359). -/
def cvtFmt (k : BitVec 3) : EFmt :=
  match k.toNat with
  | 0 => .flt .f64
  | 1 => .flt .f32
  | 2 => .flt .bf16
  | 3 => .flt .h16
  | 4 => .int ⟨64, true⟩
  | 5 => .int ⟨32, true⟩
  | 6 => .int ⟨64, false⟩
  | _ => .int ⟨32, false⟩

/-- FCVT of one value (R75, R359): I32 results are sign-extended, every other result zero-extended. -/
def fcvt (x y : BitVec 3) (mode : Mode) (a : DWord) : DWord × Flags :=
  let c : RoundCtl := ⟨mode, false, false⟩
  let v := match cvtFmt y with
    | .flt f => f.read a.toNat
    | .int f => FVal.ofInt (f.read a.toNat)
    | .t2 => FVal.ofInt 0
  match cvtFmt x with
  | .flt f => let (r, fl) := f.write c v; (BitVec.ofNat 64 r, (sigFlags [v]).or fl)
  | .int f => let (k, fl) := toIntFmt mode f.lo f.hi v; (BitVec.ofInt 64 k, fl)
  | .t2 => (0, Flags.none)

/-- FCVT (R359). -/
def execFcvt (d a : BitVec 6) (x y p : BitVec 3) (s : State) : Host.Outcome State Fault Refusal :=
  word s p fun s =>
    let z := fcvt x y s.mode ((s.me).rg a)
    s.finish (((s.me).wg d z.1).raise z.2.toBits)

/-- An F-CMP word: p[pd] := 1 when the condition holds (R360). -/
def fcmp (c : CmpCond) (q : BitVec 3) (a b : BitVec 6) (w : BitVec 1) (p : BitVec 3) (s : State) : Host.Outcome State Fault Refusal :=
  word s p fun s =>
    let r := s.me
    let fm := scalarFmt w
    let x := fCompare c (fm.read (r.rg a).toNat) (fm.read (r.rg b).toNat)
    s.finish ((r.wp q x.1).raise x.2.toBits)

/-- FCMPEQ (R360). -/
def execFcmpeq (q : BitVec 3) (a b : BitVec 6) (w : BitVec 1) (p : BitVec 3) (s : State) : Host.Outcome State Fault Refusal :=
  fcmp .eq q a b w p s

/-- FCMPLT (R360). -/
def execFcmplt (q : BitVec 3) (a b : BitVec 6) (w : BitVec 1) (p : BitVec 3) (s : State) : Host.Outcome State Fault Refusal :=
  fcmp .lt q a b w p s

/-- FCMPLE (R360). -/
def execFcmple (q : BitVec 3) (a b : BitVec 6) (w : BitVec 1) (p : BitVec 3) (s : State) : Host.Outcome State Fault Refusal :=
  fcmp .le q a b w p s

end Sys2Proof.Machine
end

