-- ==== Sys2Proof/Machine/Scheduling.lean ====
section
/-! DEFINITION. The events of an executor: activation, the end of an activation or a close, quanta, pre-emption, budgets
(R96, R211, R245-R256). Each falls on the executor and slot that `sel` names; where its rule does not hold, nothing
happens. -/

namespace Sys2Proof.Machine

/-! ## Activation (R250, R251) -/

/-- Does R251 allow an activation now: 16 cycles since the last, at most four in any 64? -/
def Exec.mayActivate (e : Exec) (now : Nat) : Bool :=
  e.acts.all (fun t => t + 16 ≤ now) && (e.acts.filter (fun t => now < t + 64)).length < 4

/-- The activation of a row begins in a slot: STATE reads OPEN, WAITON and PASS are cleared, CTL.PRI is the bind record's
(R170, R245, R250). -/
def State.openRow (s : State) (site : BitVec 10) (bank : BitVec 3) (i : Fin 8) (c : Cand) : State :=
  let e := s.executor site.toNat bank
  let sl : Slot := ⟨c.key, .opening, c.group, c.level, s.time, s.time, false, none, false, false⟩
  let e : Exec := { e with
    slots := e.slots.set i (some sl)
    last := c.group
    acts := (e.acts ++ [s.time]).drop (e.acts.length - 3) }
  let s := s.setExecutor site.toNat bank e
  s.setRow c.key { s.row c.key with
    st := .open_, waiton := 0, pass := 0, pri := c.bind.pri, inGroup := false, run := [], mid := .none, walked := [], again := [], gbase := none,
    ahead := [] }

/-- The group of a list that comes first in the order last + 1, last + 2, ... (R250). -/
def firstGroup (last : BitVec 4) (l : List Cand) : Option (BitVec 4) :=
  (((List.range 16).map (fun i => last + 1 + BitVec.ofNat 4 i)).find? (fun g => l.any (fun c => c.group == g)))

/-- The earliest of a list: by READYAT, then by row id (R250). -/
def earliest (l : List Cand) : Option Cand :=
  l.foldl (fun acc c =>
    match acc with
    | none => some c
    | some b => if c.readyAt < b.readyAt || (c.readyAt == b.readyAt && c.key.n.toNat < b.key.n.toNat) then some c else some b)
    none

/-- The highest level of a list. -/
def topLevel (l : List Cand) : BitVec 2 := l.foldl (fun m c => if m < c.level then c.level else m) 0

/-- The choice of R250: the row to be activated. -/
def choose (last : BitVec 4) (l : List Cand) : Option Cand :=
  let top := l.filter (fun c => c.level == topLevel l)
  match firstGroup last top with
  | none => none
  | some g => earliest (top.filter (fun c => c.group == g))

/-- PASS of every candidate below the level of the choice rises (R250). -/
def State.passOver (s : State) (l : List Cand) : State :=
  (l.filter (fun c => c.level < topLevel l)).foldl (fun s c =>
    s.setRow c.key { s.row c.key with pass := (s.row c.key).pass + 1 }) s

/-- The bind record of a launch on an executor changed. -/
def Exec.modBind (e : Exec) (t : BitVec 4) (l : BitVec 32) (f : Bind → Bind) : Exec :=
  { e with binds := e.binds.map (fun b => if b.tenant == t && b.lnch == l then f b else b) }

/-- The other members of a gang that opens have their slots held from its first activation (R256), each with its own level (R250); the
gang's quantum has not begun. In which order they are opened the spec does not say: they take the lowest free slots in the order of
the row list, and the lowest held slot opens first (log entry 95, DESIGN CHOICE). -/
def State.reserveGang (s : State) (site : BitVec 10) (bank : BitVec 3) (c : Cand) : State :=
  let others := (s.readyRows site bank).filter (fun x => s.inGang c.bind x.key)
  let s := s.setExecutor site.toNat bank ((s.executor site.toNat bank).modBind c.key.t c.bind.lnch (fun b => { b with since := none }))
  others.foldl (fun s x =>
    let e := s.executor site.toNat bank
    match e.freeSlot with
    | none => s
    | some i => s.setExecutor site.toNat bank { e with
        slots := e.slots.set i (some ⟨x.key, .reserved, x.group, x.level, s.time, s.time, false, none, false, false⟩) }) s

/-- A slot that is held for a gang member, if there is one. -/
def Exec.reservedSlot (e : Exec) : Option (Fin 8) :=
  (List.finRange 8).find? (fun i => match e.slots[i] with | some sl => sl.phase == .reserved | none => false)

/-- The activation of a held slot's row, or the release of the slot where the row can no longer be opened. -/
def State.openReserved (s : State) (site : BitVec 10) (bank : BitVec 3) (i : Fin 8) : State :=
  let e := s.executor site.toNat bank
  match e.slots[i] with
  | none => s
  | some sl =>
    let r := s.row sl.row
    match e.bindOf sl.row.t r.launch with
    | some b =>
      if r.st == .ready then s.openRow site bank i ⟨sl.row, sl.group, sl.level, r.readyAt, b⟩
      else s.setExecutor site.toNat bank { e with slots := e.slots.set i none }
    | none => s.setExecutor site.toNat bank { e with slots := e.slots.set i none }

/-- ACTIVATION (R250, R251, R256): the executor opens a held gang member, else the row that R250 chooses. PASS rises where R250 makes a
choice, and so at a gang's first activation only (log entry 100, DESIGN CHOICE). -/
def State.activate (s : State) (site : BitVec 10) (bank : BitVec 3) : State :=
  let e := s.executor site.toNat bank
  if !e.mayActivate s.time then s
  else
    match e.reservedSlot with
    | some i => s.openReserved site bank i
    | none =>
      let l := s.candidates site bank
      match e.freeSlot, choose e.last l with
      | some i, some c =>
        let members := (s.rowsAt site bank).filter (s.inGang c.bind)
        let whole := s.inGang c.bind c.key && !members.any e.openIn
        let s := (s.passOver l).openRow site bank i c
        if whole then s.reserveGang site bank c else s
      | _, _ => s

/-- ACTIVATION (R250). -/
def execActivation (s : State) : Host.Outcome State Fault Refusal := .next (s.activate s.sel.site s.sel.bank)

/-- The slot that `sel` names. -/
def State.selSlot (s : State) : Option Slot := (s.executor s.sel.site.toNat s.sel.bank).slots[s.sel.slot.toNat]

/-- The slot that `sel` names replaced. -/
def State.setSelSlot (s : State) (x : Option Slot) : State :=
  let e := s.executor s.sel.site.toNat s.sel.bank
  s.setExecutor s.sel.site.toNat s.sel.bank { e with slots := e.slots.set s.sel.slot.toNat x }

/-- The slot that `sel` names is free, and no pre-emption's close of it is in progress. -/
def State.freeSelSlot (s : State) : State :=
  let e := (s.setSelSlot none).executor s.sel.site.toNat s.sel.bank
  s.setExecutor s.sel.site.toNat s.sel.bank { e with preempting := e.preempting.filter (· != s.sel.slot) }

/-- Row n's address in row space (R109, R266). -/
def State.rowSpaceAddr (s : State) (k : RowKey) : DWord :=
  (s.ten k.t).cwbase.setWidth 64 + BitVec.ofNat 64 (2 ^ 39 + 2048 * k.n.toNat)

/-- Slots of an executor changed. -/
def Exec.mapSlots (e : Exec) (l : List (BitVec 3)) (f : Slot → Slot) : Exec :=
  { e with slots := Vector.ofFn (fun (i : Fin 8) => if l.contains (BitVec.ofNat 3 i.val) then (e.slots[i]).map f else e.slots[i]) }

/-- The slots of a row and of the members of its gang that hold one, in any phase (R256). -/
def State.gangSlots (s : State) (site : BitVec 10) (bank : BitVec 3) (k : RowKey) : List (BitVec 3) :=
  let e := s.executor site.toNat bank
  let gang := match e.bindOf k.t (s.row k).launch with
    | some b => if s.inGang b k then some b else none
    | none => none
  (List.finRange 8).filterMap (fun i =>
    match e.slots[i] with
    | some x =>
      if x.row == k || (match gang with | some b => s.inGang b x.row | none => false) then some (BitVec.ofNat 3 i.val) else none
    | none => none)

/-- The quantum of an executor's row begins: that of its slot, and that of its gang where it has not begun (R252, R256). -/
def State.startQuantum (s : State) (site : BitVec 10) (bank : BitVec 3) (k : RowKey) : State :=
  let e := s.executor site.toNat bank
  let l := (s.row k).launch
  match e.bindOf k.t l with
  | some b =>
    if s.inGang b k then s.setExecutor site.toNat bank (e.modBind k.t l (fun b => { b with since := some (b.since.getD s.time) })) else s
  | none => s

/-- When the quantum of a slot's row began: that of its gang, where it belongs to one (R252, R256). -/
def State.quantumStart (s : State) (site : BitVec 10) (bank : BitVec 3) (sl : Slot) : Nat :=
  match (s.executor site.toNat bank).bindOf sl.row.t (s.row sl.row).launch with
  | some b => if s.inGang b sl.row then b.since.getD sl.openAt else sl.openAt
  | none => sl.openAt

/-- The quantum of a slot's row, with that of its gang, restarts (R252, R256). -/
def State.restartQuantum (s : State) (site : BitVec 10) (bank : BitVec 3) (l : List (BitVec 3)) (k : RowKey) : State :=
  let e := (s.executor site.toNat bank).mapSlots l (fun x => { x with openAt := s.time })
  let id := (s.row k).launch
  let gang := match e.bindOf k.t id with | some b => s.inGang b k | none => false
  s.setExecutor site.toNat bank (if gang then e.modBind k.t id (fun b => { b with since := some s.time }) else e)

/-- ACTIVATION_COMPLETE (R251, R252, R256): the slot is open and its quantum begins, and with it that of its gang. Row bytes with an uncorrected error post
ECC_UNCORRECTED whatever FPOL holds, and the row stays closed (R263, R270). -/
def execActivationComplete (s : State) : Host.Outcome State Fault Refusal :=
  match s.selSlot with
  | none => .next s
  | some sl =>
    if sl.phase != .opening then .next s
    else
      let r := s.row sl.row
      if !r.bad.isEmpty then
        let i : FaultInfo := ⟨0x0E, 1, 6, false, false, r.pc, r.pc, s.rowSpaceAddr sl.row, 0, r.prog, 0⟩
        let s' := s.freeSelSlot.takeFault sl.row i
        .next (if (s'.row sl.row).st == .faulted then s' else s)
      else
        .next ((s.setSelSlot (some { sl with phase := .open_, openAt := s.time })).startQuantum s.sel.site s.sel.bank sl.row)

/-- ROW_CLOSE_COMPLETE (R251): the slot and the subarray group are free. -/
def execRowCloseComplete (s : State) : Host.Outcome State Fault Refusal :=
  match s.selSlot with
  | none => .next s
  | some sl =>
    if sl.phase != .closing then .next s else .next s.freeSelSlot

/-! ## Quanta and pre-emption (R252, R253, R256) -/

/-- The quantum of a row in cycles (R252). -/
def State.quantum (s : State) (site : BitVec 10) (bank : BitVec 3) (k : RowKey) : Nat :=
  let r := s.row k
  if r.timeout != 0 then r.timeout.toNat * 256
  else
    match (s.executor site.toNat bank).bindOf k.t r.launch with
    | some b => b.quant.toNat * 256
    | none => 16 * 256

/-- The slots that close with the one of a row at a quantum's end or a pre-emption: those of every open member of its gang, or
its own (R256). -/
def State.closeSet (s : State) (site : BitVec 10) (bank : BitVec 3) (k : RowKey) : List (BitVec 3) :=
  (s.gangSlots site bank k).filter (fun i =>
    match (s.executor site.toNat bank).slots[i.toNat] with
    | some x => x.phase == .open_ || x.phase == .opening
    | none => false)

/-- The rows of some slots are to close at their next boundary, and those that stand at one close now (R252, R253, R255). -/
def State.closeSlots (s : State) (site : BitVec 10) (bank : BitVec 3) (l : List (BitVec 3)) : State :=
  let e := s.executor site.toNat bank
  let keys := l.filterMap (fun i => (e.slots[i.toNat]).map (·.row))
  keys.foldl (fun s k => s.leave k) (s.setExecutor site.toNat bank (e.mapSlots l (fun x => { x with expired := true })))

/-- QUANTUM_EXPIRY (R252, R256): the row, with its gang, is to close where another could take the place of one of them, else the
quantum restarts. -/
def execQuantumExpiry (s : State) : Host.Outcome State Fault Refusal :=
  match s.selSlot with
  | none => .next s
  | some sl =>
    let site := s.sel.site
    let bank := s.sel.bank
    if sl.phase != .open_ || s.time < s.quantumStart site bank sl + s.quantum site bank sl.row then .next s
    else
      let l := s.closeSet site bank sl.row
      let rows := l.filterMap (fun i => ((s.executor site.toNat bank).slots[i.toNat]).map (·.row))
      if rows.any s.couldTake then .next (s.closeSlots site bank l)
      else .next (s.restartQuantum site bank l sl.row)

/-- The open rows of an executor with their slots. -/
def Exec.openSlots (e : Exec) : List (Fin 8 × Slot) :=
  (List.finRange 8).filterMap (fun i => match e.slots[i] with | some sl => if sl.phase == .open_ then some (i, sl) else none | none => none)

/-- The slot whose row a candidate or contender pre-empts (R253). -/
def Exec.victimOf (e : Exec) (c : Cand) : Option (Fin 8 × Slot) :=
  let l := e.openSlots
  match e.groupHolder c.group with
  | some _ => l.find? (fun x => x.2.group == c.group && x.2.level < c.level)
  | none =>
    if 0 < e.freeSlots then none
    else
      let low := l.foldl (fun (m : BitVec 2) x => if x.2.level < m then x.2.level else m) 3
      if c.level ≤ low then none
      else
        (l.filter (fun x => x.2.level == low)).foldl (fun acc x =>
          match acc with
          | none => some x
          | some y => if x.2.openedAt < y.2.openedAt then some x else some y) none

/-- PRE_EMPTION (R253): one close at a time on an executor. Of several rows that could each pre-empt one, the first in the order
of the row list goes first (log entry 83, DESIGN CHOICE). -/
def execPreEmption (s : State) : Host.Outcome State Fault Refusal :=
  let site := s.sel.site
  let bank := s.sel.bank
  let e := s.executor site.toNat bank
  if !e.preempting.isEmpty then .next s
  else
    match (s.eligible site bank).findSome? e.victimOf with
    | none => .next s
    | some (_, sl) =>
      let l := s.closeSet site bank sl.row
      .next ((s.setExecutor site.toNat bank { e with preempting := l }).closeSlots site bank l)

/-! ## Budgets (R96, R211) -/

/-- A refill of one open row (R211). -/
def refill (c : Column) (r : Row) : Row :=
  if r.bud.toNat < c.bcap.toNat
  then { r with bud := BitVec.ofNat 32 (min (r.bud.toNat + c.bref.toNat) c.bcap.toNat) } else r

/-- The state as the row of a slot would issue its next group. -/
def State.about (s : State) (site : Nat) (bank : BitVec 3) (i : Nat) : State :=
  { s.sit ⟨BitVec.ofNat 10 site, bank, BitVec.ofNat 3 i⟩ with run := [] }

/-! ## Choosing to issue (R21, R96, R210, R254) -/

/-- Slot `i` in the order in which an executor considers its slots: from the one after the slot that issued last (R254). -/
def Exec.order (e : Exec) (i : BitVec 3) : Nat := (i - e.lastSlot - 1).toNat

/-- The first cycle in which a row of an executor may issue again: four after its previous issue (R21, R254). -/
def State.issueTime (s : State) (e : Exec) (r : Row) : Nat := max s.time (max r.issueAt e.issueAt)

/-- Is something due at the issuing row's boundary, which is done before its next group, and has that group not begun (R265,
R267)? -/
def State.owesFirst (s : State) : Bool := (s.me).owing && !(s.me).inGroup && (s.me).run.isEmpty

/-- Is the row in the seat ready to issue, but for its cycle, its budget and the window (R210, R254, R265)? -/
def State.awake (s : State) : Bool :=
  s.seated && (s.me).await.isNone && !s.unanswered s.cur && s.departRoom s.myField && (s.owesFirst || s.pendAllows) &&
    (match (s.executor s.here s.seat.bank).slots[s.seat.slot.toNat] with | some sl => !sl.late | none => false)

/-- Is the row in the seat ready to issue, but for its cycle (R254)? -/
def State.ready (s : State) : Bool := s.awake && (s.owesFirst || (s.budgetCovers && s.windowAllows))

/-- Is the row in the seat passed over only because its BUD does not cover the charge (R96)? -/
def State.starved (s : State) : Bool := s.awake && !s.owesFirst && !s.budCovers && s.windowAllows

/-- Has the group of a row issued without its answer: it awaits a home, a walker or a unit, or what it must follow (R254)? -/
def Row.stalled (r : Row) : Bool := r.mid != .none && r.run.isEmpty

/-- Does the row in the seat stand before its next word: no close is to act first, and its group is not one that has issued
(R254, R255)? -/
def State.willing (s : State) : Bool := !(s.me).stalled && ((s.leaving s.cur).isNone || s.insideGroup s.cur)

/-- The seats of the slots that are open. -/
def State.openSeats (s : State) : List Seat :=
  s.cols.flatMap (fun (k, c) => (List.finRange 8).flatMap (fun j => (List.finRange 8).filterMap (fun i =>
    match (c.execs[j]).slots[i] with
    | some sl => if sl.phase == .open_ then some ⟨BitVec.ofNat 10 k, BitVec.ofNat 3 j.val, BitVec.ofNat 3 i.val⟩ else none
    | none => none)))

/-- The cycle in which the row of a seat is ready to issue, where it is (R254). -/
def State.readyTime (s : State) (x : Seat) : Option Nat :=
  let u := s.about x.site.toNat x.bank x.slot.toNat
  if u.ready && u.willing then some (s.issueTime (s.executor x.site.toNat x.bank) u.me) else none

/-- What the refill of cycle `now` decides of a slot whose row its BUD still does not cover: passed over for 256 cycles, it is
to close; covered, it is passed over no longer (R96). -/
def Slot.refilled (x : Slot) (now : Nat) (covered : Bool) : Slot :=
  if covered then { x with starvedAt := none }
  else { x with closeDue := x.closeDue || (match x.starvedAt with | some t => t + 256 ≤ now | none => false) }

/-- Has an executor a row that counts as open (R245)? -/
def Exec.anyOpen (e : Exec) : Bool :=
  e.slots.toList.any (fun x => match x with | some sl => sl.phase == .open_ || sl.phase == .opening | none => false)

/-- The cycle of an executor's next refill (R96), which may be the present one; those of the time in which it had no open row are
over. -/
def Exec.refillDue (e : Exec) (now : Nat) : Nat := if now ≤ e.refillAt then e.refillAt else nextCycle e.refillAt (now - 1)

/-- The refill of one period: every row of the executor that counts as open (R96, R211, R245). The executor's issue of that cycle
goes before it. -/
def State.refillOnce (s : State) (site : Nat) (bank : BitVec 3) : State :=
  let e := s.executor site bank
  let now := s.time
  let l := (List.finRange 8).filterMap (fun i => match e.slots[i] with
    | some sl => if sl.phase == .open_ || sl.phase == .opening then some (i, sl) else none
    | none => none)
  let s := s.setExecutor site bank { e with refillAt := now + 256, issueAt := max e.issueAt (now + 1) }
  let s := l.foldl (fun s (_, sl) => s.setRow sl.row (refill (s.col site) (s.row sl.row))) s
  l.foldl (fun s (i, _) =>
    s.setExecutor site bank ((s.executor site bank).mapSlots [BitVec.ofNat 3 i.val]
      (fun x => x.refilled now (s.about site bank i.val).budCovers))) s

/-- BUDGET_REFILL (R96, R211): the refill of every 256 cycles, behind the charges of its cycle: no open row of the executor is
ready to issue in it any more. -/
def execBudgetRefill (s : State) : Host.Outcome State Fault Refusal :=
  let site := s.sel.site
  let bank := s.sel.bank
  let busy := s.openSeats.any (fun x => x.site == site && x.bank == bank && s.readyTime x == some s.time)
  if (s.executor site.toNat bank).refillDue s.time != s.time || busy then .next s
  else .next (s.refillOnce site.toNat bank)

/-- BUDGET_CLOSURE (R96): the row closes with WAITON 8 at its next boundary. -/
def execBudgetClosure (s : State) : Host.Outcome State Fault Refusal :=
  match s.selSlot with
  | none => .next s
  | some sl => if sl.phase == .open_ && sl.closeDue then .next (s.leave sl.row) else .next s

/-- The window sum of a column cleared (R96). -/
def State.clearWindow (s : State) (site : Nat) : State :=
  let c := s.col site
  s.setCol site { c with winSum := 0, clearAt := nextCycle c.clearAt s.time }

/-- WINDOW_SUM_CLEAR (R96): every 256 cycles. -/
def execWindowSumClear (s : State) : Host.Outcome State Fault Refusal :=
  let site := s.sel.site.toNat
  if !(s.col site).clearDue s.time then .next s else .next (s.clearWindow site)

end Sys2Proof.Machine
end

