-- ==== Sys2Proof/Machine/Dispatch.lean ====
section
/-! DEFINITION. The dispatch: one arm per instruction and per event, each one direct call of its meaning. -/

namespace Sys2Proof.Machine

/-- What an instruction or an event does. -/
def exec (i : Instr) (s : State) : Host.Outcome State Fault Refusal :=
  match i with
  | .cachex e v w l => Sys2Proof.Machine.execCachex e v w l s
  | .scopex g => Sys2Proof.Machine.execScopex g s
  | .prefx o c g => Sys2Proof.Machine.execPrefx o c g s
  | .ignoredHint k x => Sys2Proof.Machine.execIgnoredHint k x s
  | .addD d a b p => Sys2Proof.Machine.execAddD d a b p s
  | .addW d a b p => Sys2Proof.Machine.execAddW d a b p s
  | .subD d a b p => Sys2Proof.Machine.execSubD d a b p s
  | .subW d a b p => Sys2Proof.Machine.execSubW d a b p s
  | .mulD d a b p => Sys2Proof.Machine.execMulD d a b p s
  | .mulW d a b p => Sys2Proof.Machine.execMulW d a b p s
  | .mulh d a b p => Sys2Proof.Machine.execMulh d a b p s
  | .mulhn d a b p => Sys2Proof.Machine.execMulhn d a b p s
  | .divD d a b p => Sys2Proof.Machine.execDivD d a b p s
  | .divW d a b p => Sys2Proof.Machine.execDivW d a b p s
  | .divnD d a b p => Sys2Proof.Machine.execDivnD d a b p s
  | .divnW d a b p => Sys2Proof.Machine.execDivnW d a b p s
  | .remD d a b p => Sys2Proof.Machine.execRemD d a b p s
  | .remW d a b p => Sys2Proof.Machine.execRemW d a b p s
  | .remnD d a b p => Sys2Proof.Machine.execRemnD d a b p s
  | .remnW d a b p => Sys2Proof.Machine.execRemnW d a b p s
  | .min d a b p => Sys2Proof.Machine.execMin d a b p s
  | .max d a b p => Sys2Proof.Machine.execMax d a b p s
  | .minn d a b p => Sys2Proof.Machine.execMinn d a b p s
  | .maxn d a b p => Sys2Proof.Machine.execMaxn d a b p s
  | .and d a b p => Sys2Proof.Machine.execAnd d a b p s
  | .or d a b p => Sys2Proof.Machine.execOr d a b p s
  | .xor d a b p => Sys2Proof.Machine.execXor d a b p s
  | .andn d a b p => Sys2Proof.Machine.execAndn d a b p s
  | .shl d a b p => Sys2Proof.Machine.execShl d a b p s
  | .shr d a b p => Sys2Proof.Machine.execShr d a b p s
  | .sra d a b p => Sys2Proof.Machine.execSra d a b p s
  | .rot d a b p => Sys2Proof.Machine.execRot d a b p s
  | .bext d a b p => Sys2Proof.Machine.execBext d a b p s
  | .bins d a b p => Sys2Proof.Machine.execBins d a b p s
  | .sel d a b p => Sys2Proof.Machine.execSel d a b p s
  | .absD d a p => Sys2Proof.Machine.execAbsD d a p s
  | .absW d a p => Sys2Proof.Machine.execAbsW d a p s
  | .clzD d a p => Sys2Proof.Machine.execClzD d a p s
  | .clzW d a p => Sys2Proof.Machine.execClzW d a p s
  | .popcD d a p => Sys2Proof.Machine.execPopcD d a p s
  | .popcW d a p => Sys2Proof.Machine.execPopcW d a p s
  | .addi d a im p => Sys2Proof.Machine.execAddi d a im p s
  | .andi d a im p => Sys2Proof.Machine.execAndi d a im p s
  | .ori d a im p => Sys2Proof.Machine.execOri d a im p s
  | .xori d a im p => Sys2Proof.Machine.execXori d a im p s
  | .shli d a w c p => Sys2Proof.Machine.execShli d a w c p s
  | .shri d a w c p => Sys2Proof.Machine.execShri d a w c p s
  | .srai d a w c p => Sys2Proof.Machine.execSrai d a w c p s
  | .roti d a w c p => Sys2Proof.Machine.execRoti d a w c p s
  | .cmp d c a b w p => Sys2Proof.Machine.execCmp d c a b w p s
  | .cmpi d c a im p => Sys2Proof.Machine.execCmpi d c a im p s
  | .pand d a b p => Sys2Proof.Machine.execPand d a b p s
  | .por d a b p => Sys2Proof.Machine.execPor d a b p s
  | .pxor d a b p => Sys2Proof.Machine.execPxor d a b p s
  | .pnot d a p => Sys2Proof.Machine.execPnot d a p s
  | .pmov d a p => Sys2Proof.Machine.execPmov d a p s
  | .movi d im p => Sys2Proof.Machine.execMovi d im p s
  | .br g d => Sys2Proof.Machine.execBr g d s
  | .brn g d => Sys2Proof.Machine.execBrn g d s
  | .call g d => Sys2Proof.Machine.execCall g d s
  | .calln g d => Sys2Proof.Machine.execCalln g d s
  | .jr d a p => Sys2Proof.Machine.execJr d a p s
  | .ret p => Sys2Proof.Machine.execRet p s
  | .loop c im p => Sys2Proof.Machine.execLoop c im p s
  | .ldb t a im p => Sys2Proof.Machine.execLdb t a im p s
  | .ldh t a im p => Sys2Proof.Machine.execLdh t a im p s
  | .ldw t a im p => Sys2Proof.Machine.execLdw t a im p s
  | .ldd t a im p => Sys2Proof.Machine.execLdd t a im p s
  | .stb t a im p => Sys2Proof.Machine.execStb t a im p s
  | .sth t a im p => Sys2Proof.Machine.execSth t a im p s
  | .stw t a im p => Sys2Proof.Machine.execStw t a im p s
  | .std t a im p => Sys2Proof.Machine.execStd t a im p s
  | .ldv t a im p => Sys2Proof.Machine.execLdv t a im p s
  | .stv t a im p => Sys2Proof.Machine.execStv t a im p s
  | .ldxH d a v p => Sys2Proof.Machine.execLdxH d a v p s
  | .ldxW d a v p => Sys2Proof.Machine.execLdxW d a v p s
  | .ldxD d a v p => Sys2Proof.Machine.execLdxD d a v p s
  | .stxH g a v p => Sys2Proof.Machine.execStxH g a v p s
  | .stxW g a v p => Sys2Proof.Machine.execStxW g a v p s
  | .stxD g a v p => Sys2Proof.Machine.execStxD g a v p s
  | .ldblk w a n p => Sys2Proof.Machine.execLdblk w a n p s
  | .stblk w a n p => Sys2Proof.Machine.execStblk w a n p s
  | .ldbs d a b p => Sys2Proof.Machine.execLdbs d a b p s
  | .ldhs d a b p => Sys2Proof.Machine.execLdhs d a b p s
  | .ldws d a b p => Sys2Proof.Machine.execLdws d a b p s
  | .lwd d o p => Sys2Proof.Machine.execLwd d o p s
  | .swd d o p => Sys2Proof.Machine.execSwd d o p s
  | .aadd d a o w p => Sys2Proof.Machine.execAadd d a o w p s
  | .amin d a o w p => Sys2Proof.Machine.execAmin d a o w p s
  | .amax d a o w p => Sys2Proof.Machine.execAmax d a o w p s
  | .aand d a o w p => Sys2Proof.Machine.execAand d a o w p s
  | .aor d a o w p => Sys2Proof.Machine.execAor d a o w p s
  | .axor d a o w p => Sys2Proof.Machine.execAxor d a o w p s
  | .aswap d a o w p => Sys2Proof.Machine.execAswap d a o w p s
  | .acas d a o w p => Sys2Proof.Machine.execAcas d a o w p s
  | .afadd d a o w p => Sys2Proof.Machine.execAfadd d a o w p s
  | .qadd r a g w p => Sys2Proof.Machine.execQadd r a g w p s
  | .qmin r a g w p => Sys2Proof.Machine.execQmin r a g w p s
  | .qmax r a g w p => Sys2Proof.Machine.execQmax r a g w p s
  | .qand r a g w p => Sys2Proof.Machine.execQand r a g w p s
  | .qior r a g w p => Sys2Proof.Machine.execQior r a g w p s
  | .qxor r a g w p => Sys2Proof.Machine.execQxor r a g w p s
  | .qfadd r a g w p => Sys2Proof.Machine.execQfadd r a g w p s
  | .qbf16add r a g p => Sys2Proof.Machine.execQbf16add r a g p s
  | .qaddx v r a im w p => Sys2Proof.Machine.execQaddx v r a im w p s
  | .qminx v r a im w p => Sys2Proof.Machine.execQminx v r a im w p s
  | .qmaxx v r a im w p => Sys2Proof.Machine.execQmaxx v r a im w p s
  | .qandx v r a im w p => Sys2Proof.Machine.execQandx v r a im w p s
  | .qiorx v r a im w p => Sys2Proof.Machine.execQiorx v r a im w p s
  | .qxorx v r a im w p => Sys2Proof.Machine.execQxorx v r a im w p s
  | .qfaddx v r a im w p => Sys2Proof.Machine.execQfaddx v r a im w p s
  | .qbf16addx v r a im p => Sys2Proof.Machine.execQbf16addx v r a im p s
  | .ldfe d a q p => Sys2Proof.Machine.execLdfe d a q p s
  | .ldf d a q p => Sys2Proof.Machine.execLdf d a q p s
  | .stfe d a q p => Sys2Proof.Machine.execStfe d a q p s
  | .sete a p => Sys2Proof.Machine.execSete a p s
  | .fence g p => Sys2Proof.Machine.execFence g p s
  | .ldaD d a p => Sys2Proof.Machine.execLdaD d a p s
  | .ldaW d a p => Sys2Proof.Machine.execLdaW d a p s
  | .stlD d a p => Sys2Proof.Machine.execStlD d a p s
  | .stlW d a p => Sys2Proof.Machine.execStlW d a p s
  | .yield p => Sys2Proof.Machine.execYield p s
  | .close p => Sys2Proof.Machine.execClose p s
  | .halt p => Sys2Proof.Machine.execHalt p s
  | .arm q a p => Sys2Proof.Machine.execArm q a p s
  | .disarm k p => Sys2Proof.Machine.execDisarm k p s
  | .waitm p => Sys2Proof.Machine.execWaitm p s
  | .spawn q c j p => Sys2Proof.Machine.execSpawn q c j p s
  | .migr a p => Sys2Proof.Machine.execMigr a p s
  | .stepx d r p => Sys2Proof.Machine.execStepx d r p s
  | .qpush g c q l p => Sys2Proof.Machine.execQpush g c q l p s
  | .qpushc g c q l p => Sys2Proof.Machine.execQpushc g c q l p s
  | .qpop d c q p => Sys2Proof.Machine.execQpop d c q p s
  | .qpeek d c q p => Sys2Proof.Machine.execQpeek d c q p s
  | .qcnt d c p => Sys2Proof.Machine.execQcnt d c p s
  | .tailret p => Sys2Proof.Machine.execTailret p s
  | .send q a p => Sys2Proof.Machine.execSend q a p s
  | .sendq q a p => Sys2Proof.Machine.execSendq q a p s
  | .halo q a p => Sys2Proof.Machine.execHalo q a p s
  | .wmk k v p => Sys2Proof.Machine.execWmk k v p s
  | .hclaim d a q p => Sys2Proof.Machine.execHclaim d a q p s
  | .hwait h p => Sys2Proof.Machine.execHwait h p s
  | .htest q h p => Sys2Proof.Machine.execHtest q h p s
  | .kwalk q a b p => Sys2Proof.Machine.execKwalk q a b p s
  | .kapnd q a b p => Sys2Proof.Machine.execKapnd q a b p s
  | .ksum q a b p => Sys2Proof.Machine.execKsum q a b p s
  | .mxq d a q p => Sys2Proof.Machine.execMxq d a q p s
  | .mxs d a q p => Sys2Proof.Machine.execMxs d a q p s
  | .mxw d j p => Sys2Proof.Machine.execMxw d j p s
  | .mxt d j q p => Sys2Proof.Machine.execMxt d j q p s
  | .mxcan j q p => Sys2Proof.Machine.execMxcan j q p s
  | .gnext q a p => Sys2Proof.Machine.execGnext q a p s
  | .gdone q a p => Sys2Proof.Machine.execGdone q a p s
  | .launch d a q p => Sys2Proof.Machine.execLaunch d a q p s
  | .lhint p => Sys2Proof.Machine.execLhint p s
  | .waitp g p => Sys2Proof.Machine.execWaitp g p s
  | .cancel d im l p => Sys2Proof.Machine.execCancel d im l p s
  | .joinw j t p => Sys2Proof.Machine.execJoinw j t p s
  | .vadd d a b t p => Sys2Proof.Machine.execVadd d a b t p s
  | .vsub d a b t p => Sys2Proof.Machine.execVsub d a b t p s
  | .vmul d a b t p => Sys2Proof.Machine.execVmul d a b t p s
  | .vfma d a b t p => Sys2Proof.Machine.execVfma d a b t p s
  | .vfms d a b t p => Sys2Proof.Machine.execVfms d a b t p s
  | .vmin d a b t p => Sys2Proof.Machine.execVmin d a b t p s
  | .vmax d a b t p => Sys2Proof.Machine.execVmax d a b t p s
  | .vabs d a t p => Sys2Proof.Machine.execVabs d a t p s
  | .vneg d a t p => Sys2Proof.Machine.execVneg d a t p s
  | .vdot2 d a b t p => Sys2Proof.Machine.execVdot2 d a b t p s
  | .vdot4 d a b p => Sys2Proof.Machine.execVdot4 d a b p s
  | .viadd d a b t p => Sys2Proof.Machine.execViadd d a b t p s
  | .visub d a b t p => Sys2Proof.Machine.execVisub d a b t p s
  | .vimul d a b t p => Sys2Proof.Machine.execVimul d a b t p s
  | .viadds d a b t p => Sys2Proof.Machine.execViadds d a b t p s
  | .visubs d a b t p => Sys2Proof.Machine.execVisubs d a b t p s
  | .vimuls d a b t p => Sys2Proof.Machine.execVimuls d a b t p s
  | .vshl d a b t p => Sys2Proof.Machine.execVshl d a b t p s
  | .vshr d a b t p => Sys2Proof.Machine.execVshr d a b t p s
  | .vand d a b t p => Sys2Proof.Machine.execVand d a b t p s
  | .vor d a b t p => Sys2Proof.Machine.execVor d a b t p s
  | .vxor d a b t p => Sys2Proof.Machine.execVxor d a b t p s
  | .vnadd d a b p => Sys2Proof.Machine.execVnadd d a b p s
  | .vnsub d a b p => Sys2Proof.Machine.execVnsub d a b p s
  | .vnmul d a b p => Sys2Proof.Machine.execVnmul d a b p s
  | .vnfma d a b p => Sys2Proof.Machine.execVnfma d a b p s
  | .vnmax d a b p => Sys2Proof.Machine.execVnmax d a b p s
  | .vndot d a b k p => Sys2Proof.Machine.execVndot d a b k p s
  | .vquant d a k p => Sys2Proof.Machine.execVquant d a k p s
  | .vbaq d a b k p => Sys2Proof.Machine.execVbaq d a b k p s
  | .vcvt d a r x y p => Sys2Proof.Machine.execVcvt d a r x y p s
  | .vshuf d a b w p => Sys2Proof.Machine.execVshuf d a b w p s
  | .vbcast d g w p => Sys2Proof.Machine.execVbcast d g w p s
  | .vext d im g w p => Sys2Proof.Machine.execVext d im g w p s
  | .vins d g im w p => Sys2Proof.Machine.execVins d g im w p s
  | .vselv d a b p => Sys2Proof.Machine.execVselv d a b p s
  | .vrsum d a m t p => Sys2Proof.Machine.execVrsum d a m t p s
  | .vrmax d a m t p => Sys2Proof.Machine.execVrmax d a m t p s
  | .vrmin d a m t p => Sys2Proof.Machine.execVrmin d a m t p s
  | .vexp2 d a t p => Sys2Proof.Machine.execVexp2 d a t p s
  | .vlog2 d a t p => Sys2Proof.Machine.execVlog2 d a t p s
  | .vrcp d a t p => Sys2Proof.Machine.execVrcp d a t p s
  | .vrsq d a t p => Sys2Proof.Machine.execVrsq d a t p s
  | .vsin d a t p => Sys2Proof.Machine.execVsin d a t p s
  | .vtanh d a t p => Sys2Proof.Machine.execVtanh d a t p s
  | .vsig d a t p => Sys2Proof.Machine.execVsig d a t p s
  | .vcmp d a b c t p => Sys2Proof.Machine.execVcmp d a b c t p s
  | .vany q a b c t p => Sys2Proof.Machine.execVany q a b c t p s
  | .vall q a b c t p => Sys2Proof.Machine.execVall q a b c t p s
  | .fadd d a b w p => Sys2Proof.Machine.execFadd d a b w p s
  | .fsub d a b w p => Sys2Proof.Machine.execFsub d a b w p s
  | .fmul d a b w p => Sys2Proof.Machine.execFmul d a b w p s
  | .ffma d a b w p => Sys2Proof.Machine.execFfma d a b w p s
  | .fdiv d a b w p => Sys2Proof.Machine.execFdiv d a b w p s
  | .fsqrt d a w p => Sys2Proof.Machine.execFsqrt d a w p s
  | .fmin d a b w p => Sys2Proof.Machine.execFmin d a b w p s
  | .fmax d a b w p => Sys2Proof.Machine.execFmax d a b w p s
  | .fcvt d a x y p => Sys2Proof.Machine.execFcvt d a x y p s
  | .fcmpeq q a b w p => Sys2Proof.Machine.execFcmpeq q a b w p s
  | .fcmplt q a b w p => Sys2Proof.Machine.execFcmplt q a b w p s
  | .fcmple q a b w p => Sys2Proof.Machine.execFcmple q a b w p s
  | .trap e p => Sys2Proof.Machine.execTrap e p s
  | .eret p => Sys2Proof.Machine.execEret p s
  | .bkpt p => Sys2Proof.Machine.execBkpt p s
  | .srr d r p => Sys2Proof.Machine.execSrr d r p s
  | .srw d r p => Sys2Proof.Machine.execSrw d r p s
  | .srs d r p => Sys2Proof.Machine.execSrs d r p s
  | .src d r p => Sys2Proof.Machine.execSrc d r p s
  | .cflush a l p => Sys2Proof.Machine.execCflush a l p s
  | .cinv a p => Sys2Proof.Machine.execCinv a p s
  | .czero a p => Sys2Proof.Machine.execCzero a p s
  | .tlbi a g p => Sys2Proof.Machine.execTlbi a g p s
  | .tlbiAll g p => Sys2Proof.Machine.execTlbiAll g p s
  | .xbset g p => Sys2Proof.Machine.execXbset g p s
  | .wayset q g p => Sys2Proof.Machine.execWayset q g p s
  | .wfx d t p => Sys2Proof.Machine.execWfx d t p s
  | .feat d w p => Sys2Proof.Machine.execFeat d w p s
  | .topo d g p => Sys2Proof.Machine.execTopo d g p s
  | .idr d g p => Sys2Proof.Machine.execIdr d g p s
  | .time d p => Sys2Proof.Machine.execTime d p s
  | .immx e => Sys2Proof.Machine.execImmx e s
  | .rndx m => Sys2Proof.Machine.execRndx m s
  | .hmove f q h r p => Sys2Proof.Machine.execHmove f q h r p s
  | .hend f h p => Sys2Proof.Machine.execHend f h p s
  | .hinfo d h p => Sys2Proof.Machine.execHinfo d h p s
  | .kstat f a p => Sys2Proof.Machine.execKstat f a p s
  | .start => Sys2Proof.Machine.execStart s
  | .stop => Sys2Proof.Machine.execStop s
  | .redirect => Sys2Proof.Machine.execRedirect s
  | .kill => Sys2Proof.Machine.execKill s
  | .step => Sys2Proof.Machine.execStep s
  | .outsideStore => Sys2Proof.Machine.execOutsideStore s
  | .controlWindowRefusal => Sys2Proof.Machine.execControlWindowRefusal s
  | .activation => Sys2Proof.Machine.execActivation s
  | .activationComplete => Sys2Proof.Machine.execActivationComplete s
  | .rowCloseComplete => Sys2Proof.Machine.execRowCloseComplete s
  | .quantumExpiry => Sys2Proof.Machine.execQuantumExpiry s
  | .preEmption => Sys2Proof.Machine.execPreEmption s
  | .budgetRefill => Sys2Proof.Machine.execBudgetRefill s
  | .budgetClosure => Sys2Proof.Machine.execBudgetClosure s
  | .windowSumClear => Sys2Proof.Machine.execWindowSumClear s
  | .deferredStoreFault => Sys2Proof.Machine.execDeferredStoreFault s
  | .faultQueueAppend => Sys2Proof.Machine.execFaultQueueAppend s
  | .faultRingHeadReread => Sys2Proof.Machine.execFaultRingHeadReread s
  | .pageWalkComplete => Sys2Proof.Machine.execPageWalkComplete s
  | .tlbiComplete => Sys2Proof.Machine.execTlbiComplete s
  | .reductionPerform => Sys2Proof.Machine.execReductionPerform s
  | .reductionAck => Sys2Proof.Machine.execReductionAck s
  | .homeOperation => Sys2Proof.Machine.execHomeOperation s
  | .performanceNotice => Sys2Proof.Machine.execPerformanceNotice s
  | .parkedReleaseApply => Sys2Proof.Machine.execParkedReleaseApply s
  | .writeBack => Sys2Proof.Machine.execWriteBack s
  | .ldfeAnswerWake => Sys2Proof.Machine.execLdfeAnswerWake s
  | .wake => Sys2Proof.Machine.execWake s
  | .monitorFire => Sys2Proof.Machine.execMonitorFire s
  | .joinwWake => Sys2Proof.Machine.execJoinwWake s
  | .wfxDeadline => Sys2Proof.Machine.execWfxDeadline s
  | .windowFillWake => Sys2Proof.Machine.execWindowFillWake s
  | .waitpWake => Sys2Proof.Machine.execWaitpWake s
  | .placeAbandonment => Sys2Proof.Machine.execPlaceAbandonment s
  | .spawnMessageArrival => Sys2Proof.Machine.execSpawnMessageArrival s
  | .spawnServe => Sys2Proof.Machine.execSpawnServe s
  | .migrationPlacement => Sys2Proof.Machine.execMigrationPlacement s
  | .launchPlacement => Sys2Proof.Machine.execLaunchPlacement s
  | .launchRowStart => Sys2Proof.Machine.execLaunchRowStart s
  | .successorIssue => Sys2Proof.Machine.execSuccessorIssue s
  | .retirementCount => Sys2Proof.Machine.execRetirementCount s
  | .columnReport => Sys2Proof.Machine.execColumnReport s
  | .fieldReport => Sys2Proof.Machine.execFieldReport s
  | .neighbourPushArrival => Sys2Proof.Machine.execNeighbourPushArrival s
  | .sectorArrival => Sys2Proof.Machine.execSectorArrival s
  | .haloArrival => Sys2Proof.Machine.execHaloArrival s
  | .metadataArrival => Sys2Proof.Machine.execMetadataArrival s
  | .targetAcknowledgement => Sys2Proof.Machine.execTargetAcknowledgement s
  | .jobStart => Sys2Proof.Machine.execJobStart s
  | .tileComplete => Sys2Proof.Machine.execTileComplete s
  | .jobCompletion => Sys2Proof.Machine.execJobCompletion s
  | .completionNotice => Sys2Proof.Machine.execCompletionNotice s
  | .operandFault => Sys2Proof.Machine.execOperandFault s
  | .mxcanAtColumn => Sys2Proof.Machine.execMxcanAtColumn s
  | .tlockGrant => Sys2Proof.Machine.execTlockGrant s
  | .walkerRequestComplete => Sys2Proof.Machine.execWalkerRequestComplete s
  | .walkerRequestStart => Sys2Proof.Machine.execWalkerRequestStart s
  | .gatewayBlockArrival => Sys2Proof.Machine.execGatewayBlockArrival s
  | .peerQueued => Sys2Proof.Machine.execPeerQueued s
  | .pairingComplete => Sys2Proof.Machine.execPairingComplete s
  | .linkFailure => Sys2Proof.Machine.execLinkFailure s
  | .wpartTransitionComplete => Sys2Proof.Machine.execWpartTransitionComplete s
  | .wayWakeComplete => Sys2Proof.Machine.execWayWakeComplete s
  | .correctedError => Sys2Proof.Machine.execCorrectedError s
  | .cecntExpiry => Sys2Proof.Machine.execCecntExpiry s
  | .columnRetirement => Sys2Proof.Machine.execColumnRetirement s
  | .testerWindow => Sys2Proof.Machine.execTesterWindow s
  | .fieldEventPost => Sys2Proof.Machine.execFieldEventPost s
  | .thermalSensor => Sys2Proof.Machine.execThermalSensor s
  | .mplim => Sys2Proof.Machine.execMplim s
  | .vctlReset => Sys2Proof.Machine.execVctlReset s
  | .vctlStop => Sys2Proof.Machine.execVctlStop s
  | .vctlStart => Sys2Proof.Machine.execVctlStart s
  | .tenantStopDrain => Sys2Proof.Machine.execTenantStopDrain s
  | .tenantResetDrain => Sys2Proof.Machine.execTenantResetDrain s
  | .functionLevelReset => Sys2Proof.Machine.execFunctionLevelReset s
  | .cqbell => Sys2Proof.Machine.execCqbell s
  | .hostLaunch => Sys2Proof.Machine.execHostLaunch s
  | .hostCancel => Sys2Proof.Machine.execHostCancel s
  | .counter => Sys2Proof.Machine.execCounter s
  | .seal => Sys2Proof.Machine.execSeal s
  | .load => Sys2Proof.Machine.execLoad s
  | .mqbell => Sys2Proof.Machine.execMqbell s
  | .create => Sys2Proof.Machine.execCreate s
  | .repart => Sys2Proof.Machine.execRepart s
  | .swapout => Sys2Proof.Machine.execSwapout s
  | .swapin => Sys2Proof.Machine.execSwapin s
  | .remove => Sys2Proof.Machine.execRemove s
  | .hostwin => Sys2Proof.Machine.execHostwin s
  | .pair => Sys2Proof.Machine.execPair s
  | .unpair => Sys2Proof.Machine.execUnpair s
  | .reinstate => Sys2Proof.Machine.execReinstate s
  | .hostHdmAccess => Sys2Proof.Machine.execHostHdmAccess s
  | .doeSpdmRequest => Sys2Proof.Machine.execDoeSpdmRequest s
  | .registerWrite => Sys2Proof.Machine.execRegisterWrite s
  | .powerUp => Sys2Proof.Machine.execPowerUp s
  | .illegalEncoding => Sys2Proof.Machine.execIllegalEncoding s
  | .kilnTranslationComplete => Sys2Proof.Machine.execKilnTranslationComplete s
  | .pairingEnd => Sys2Proof.Machine.execPairingEnd s
  | .hostLinkTraining => Sys2Proof.Machine.execHostLinkTraining s

end Sys2Proof.Machine
end

