-- ==== Sys2Proof/Machine/Issue.lean ====
section
/-! DEFINITION. The issue of one word of the row in a slot (R52-R57, R254), and what a turn of the schedule does. -/

namespace Sys2Proof.Machine

/-! ## Time (R21, R96, R254) -/

/-- A slot is passed over from a cycle on for want of budget (R96). -/
def Slot.starve (x : Slot) (t : Nat) : Slot := { x with starvedAt := some (x.starvedAt.getD t) }

/-- The slots of an executor that were passed over for want of budget in the cycles before `t`, and in `t` itself those before
the place `at_` in the order of consideration (R96, R254). -/
def State.passedOver (s : State) (site : Nat) (bank : BitVec 3) (t at_ : Nat) : State :=
  (List.range 8).foldl (fun s i =>
    let e := s.executor site bank
    let x := s.about site bank i
    let first := s.issueTime e x.me
    if (first < t || (first == t && e.order (BitVec.ofNat 3 i) < at_)) && x.starved then
      s.setExecutor site bank (e.mapSlots [BitVec.ofNat 3 i] (fun sl => sl.starve first))
    else s) s

/-- Cycles pass up to cycle `t` (R96). -/
def State.passTime (s : State) (t : Nat) : State :=
  if t ≤ s.time then s
  else
    let s' := s.cols.foldl (fun s (k, _) =>
      (List.range 8).foldl (fun s j => s.passedOver k (BitVec.ofNat 3 j) t 0) s) s
    { s' with time := t }

/-- The last cycle that may be reached, of `t`, before a refill of an executor with an open row, or a clear of a window sum, is
made (R96). -/
def State.horizon (s : State) (t : Nat) : Nat :=
  s.cols.foldl (fun t (_, c) =>
    (List.finRange 8).foldl (fun t j => if (c.execs[j]).anyOpen then min t ((c.execs[j]).refillDue s.time) else t)
      (if c.winSum == 0 then t else min t c.clearAt)) t

/-- Cycles pass up to cycle `t`, but no farther than the first in which a row issues, a refill is made or a window sum is cleared
(R96, R254). -/
def State.elapse (s : State) (t : Nat) : State :=
  s.passTime (s.openSeats.foldl (fun t x => match s.readyTime x with | some u => min t u | none => t) (s.horizon t))

/-- The clocks of an issue: time passes to the first cycle in which the slot and its executor may issue (R21, R254). -/
def State.clockIssue (s : State) : State :=
  let t := s.issueTime (s.executor s.here s.seat.bank) s.me
  let s := s.passTime t
  let e := s.executor s.here s.seat.bank
  let s := s.passedOver s.here s.seat.bank t (e.order s.seat.slot)
  let e := (s.executor s.here s.seat.bank).mapSlots [s.seat.slot] (fun sl => { sl with starvedAt := none, late := false })
  let s := s.setExecutor s.here s.seat.bank { e with lastSlot := s.seat.slot, issueAt := t + 1 }
  { s.setMe { s.me with issueAt := t + 4 } with redo := false }

/-- Does no other row issue before the row in the seat: none is ready in an earlier cycle, nor on its executor in the same one
before it in the order of consideration (R254)? -/
def State.myTurn (s : State) : Bool :=
  let e := s.executor s.here s.seat.bank
  let t := s.issueTime e s.me
  s.openSeats.all (fun x => x == s.seat ||
    (match s.readyTime x with
     | none => true
     | some u => t < u || (u == t && !(x.site == s.seat.site && x.bank == s.seat.bank && e.order x.slot < e.order s.seat.slot))))

/-! ## One word (R52, R57) -/

/-- The boundary of a group whose row's PROG stood at `prog` before its last word, and the close that has been decided (R53,
R255). -/
def State.endGroup (s : State) (prog : BitVec 32) : State := s.afterGroup.leaveAfter prog

/-- The hints of its group so far, and the results of the walks it has waited for, are taken up by the row that issues the next
word (R52, R272). -/
def State.takeUp (s : State) : State :=
  { s.setMe { s.me with run := [], mid := .none, walked := [], inGroup := false } with run := (s.me).run, walked := (s.me).walked }

/-- A hint has issued: the row stands inside its group (R52, R53). -/
def State.putDown (s : State) : State :=
  let m := match ({ s with run := [] } : State).groupAt 16 s.group with | some (_, i) => s.midFor i | none => .held
  { s.setMe { s.me with run := s.run, mid := m, walked := s.walked } with run := [] }

/-- A group that could not go on takes no issue of its row or its executor, which stand as in `s`: it awaits an answer of a home, a
walker or a unit, or what it must follow, and is tried again as it was fetched and checked, with the words `l` (R57, R254, R255, R392)
(log entry 1, DESIGN CHOICE). -/
def State.stallAs (t s : State) (m : Mid) (l : List Word) : State :=
  let e := s.executor s.here s.seat.bank
  let t := t.setExecutor s.here s.seat.bank { t.executor s.here s.seat.bank with lastSlot := e.lastSlot, issueAt := e.issueAt }
  t.setMe { t.me with issueAt := (s.me).issueAt, mid := m, walked := t.walked, again := l }

/-- A progressive group that has performed some of its units, and goes on without an interruption, stands as it was fetched and checked
(R255, R392). -/
def State.keepWords (s : State) (l : List Word) : State :=
  if s.redo && (s.me).st == .open_ && (s.me).inGroup then s.setMe { s.me with again := l } else s

/-- What an executed word is followed by, from the state `s` before its clocks: the next word of its group, another try of it, or
the boundary of the group (R52, R53). -/
def State.wordDone (s t : State) (m : Mid) (l : List Word) : State :=
  if !t.run.isEmpty then t.putDown
  else if t.redo && (t.me).prog == (s.me).prog then t.stallAs s m l
  else (t.endGroup (s.me).prog).keepWords l

/-- The same of an outcome. -/
def State.thenWord (s : State) (m : Mid) (l : List Word) (o : Host.Outcome State Fault Refusal) : Host.Outcome State Fault Refusal :=
  match o with
  | .next t => .next (s.wordDone t m l)
  | .fault f => .fault f
  | .refused r => .refused r

/-- The target of a group executed, with the words of its group. -/
def State.runWord (s : State) (w : Word) : Host.Outcome State Fault Refusal × Mid × List Word :=
  match decode w with
  | .ok i => (exec i (s.forWord i), s.midFor i, s.run ++ [w])
  | .error _ => (exec .illegalEncoding s, .held, [])

/-- One word of the row in the seat, as its fetch and the checks of its group let it (R57): a fault, or the instruction that is
executed. A hint of kind 0-4 is checked with its target. -/
def State.issueWord (s : State) : Host.Outcome State Fault Refusal × Mid × List Word :=
  match s.fetchFault with
  | some f => (.next (s.raise f), .held, [])
  | none =>
    let w := s.fetched
    if isRunHint w then
      match decode w with
      | .ok i => (exec i s, .held, [])
      | .error _ => (.next (s.pushHint w), .held, [])
    else
      match s.groupFault w with
      | some f => (.next (s.raise f), .held, [])
      | none => s.runWord w

/-- The word that the row in the seat issues, with its clocks and what follows it: its next, or the target of the group that is
tried again, which keeps its fetch and its checks (R57, R392). -/
def State.issueNow (s : State) : Host.Outcome State Fault Refusal :=
  let l := (s.me).again
  let u := s.clockIssue.takeUp
  let v := u.setMe { u.me with again := [] }
  let (o, m, l') := match l.getLast? with
    | none => v.issueWord
    | some w => ({ v with run := l.dropLast } : State).runWord w
  s.thenWord m l' o

/-- What is due at the boundary of the row in the seat, which has the turn (R265, R267). Where it only made a store on the row's
behalf, the group of a step is still to come (R90). -/
def State.settleNow (s : State) : State :=
  let t := s.clockIssue.takeUp.settle
  if (t.me).stepping && !t.redo && (t.me).st == .open_ && (t.me).pc == (s.me).pc then t else s.wordDone t .held (s.me).again

/-- A seat's turn to issue: nothing where no open row sits there or the row awaits an answer; a close that has been decided;
nothing where it is not ready, but that a group already issued is tried again; the cycles up to a refill or a clear that comes
before its issue (R96, R211); nothing where another row issues first (R254); what is due at the boundary first (R265, R267); else
one word. -/
def State.issueAt (s : State) (seat : Seat) : Host.Outcome State Fault Refusal :=
  let s := { s.sit seat with run := [] }
  let t := s.issueTime (s.executor s.here s.seat.bank) s.me
  if !s.seated || (s.me).await.isSome then .next s
  else if (s.leaving s.cur).isSome && s.atBoundary s.cur && !(s.me).inGroup then .next (s.leave s.cur)
  else if !s.ready then .next s
  else if s.horizon t < t then .next (s.elapse t)
  else if !s.myTurn then .next s
  else if s.owesFirst then .next s.settleNow
  else s.issueNow

/-! ## Turns (log entry 1, DESIGN CHOICE) -/

/-- What a turn of the schedule does. An instruction word falls only where a row issues it. A row awaits a result only of a word
that it has issued since it was opened (R254). -/
def State.turn (s : State) (t : Turn) : Host.Outcome State Fault Refusal :=
  match t with
  | .event i sel => if i.isWord then .next s else exec i { s with sel := sel }
  | .issue site bank slot => s.issueAt ⟨site, bank, slot⟩
  | .late site bank slot b =>
    let x := s.sit ⟨site, bank, slot⟩
    .next (if x.seated && (!b || (match s.slotOf x.cur with | some sl => sl.openedAt < (x.me).issueAt | none => false))
      then s.setExecutor site.toNat bank ((s.executor site.toNat bank).mapSlots [slot] (fun sl => { sl with late := b }))
      else s)
  | .ahead site bank slot va n => .next ((s.sit ⟨site, bank, slot⟩).loadAhead va n)
  | .wait n => .next (s.elapse (s.time + n))
  | .bias u e => .next { s with units := u, early := e }

end Sys2Proof.Machine
end

