-- ==== Sys2Proof/Machine/Auto.lean ====
section
/-! DEFINITION. The schedule the model makes itself when it is given none (log entry 1, DESIGN CHOICE): the first event in flight or due that
changes something; else the next row that may issue, in slot order from the last; else a result that is awaited comes; else time passes. -/

namespace Sys2Proof.Machine

/-- The event that a list's items wait for, one for each item. -/
def perItem (n : Nat) (i : Instr) (b : Sel) : List (Instr × Sel) := (List.range n).map (fun k => (i, { b with k := k }))

/-- The sel of a row. -/
def selOf (k : RowKey) : Sel := { Sel.reset with t := k.t, n := k.n }

/-- What is in flight to a row, a home or a unit. -/
def State.flights (s : State) : List (Instr × Sel) :=
  let b := Sel.reset
  perItem s.outside.length .outsideStore b ++ perItem s.refusedStores.length .controlWindowRefusal b ++
  perItem s.reds.length .reductionPerform b ++ perItem s.acks.length .reductionAck b ++
  perItem s.homeOps.length .homeOperation b ++ perItem s.parked.length .parkedReleaseApply b ++
  perItem s.holdWakes.length .wake b ++ perItem s.ldfeAns.length .ldfeAnswerWake b ++
  perItem s.fires.length .monitorFire b ++ perItem s.joinWakes.length .joinwWake b ++
  perItem s.abandons.length .placeAbandonment b ++ perItem s.spawns.length .spawnMessageArrival b ++
  perItem s.pushes.length .neighbourPushArrival b ++ perItem s.jobNotes.length .completionNotice b ++
  perItem s.mxcans.length .mxcanAtColumn b ++ perItem s.locks.length .tlockGrant b ++
  perItem s.retires.length .retirementCount b ++ perItem s.tlbis.length .tlbiComplete b

/-- What is due at a span. -/
def Span.due (x : Span) (i : Nat) : List (Instr × Sel) :=
  let b : Sel := { Sel.reset with span := BitVec.ofNat 7 i }
  perItem x.walks.length .pageWalkComplete b ++
  (if x.wcur.isSome then [(.walkerRequestComplete, b)] else if x.wq.isEmpty then [] else [(.walkerRequestStart, b)]) ++
  (if x.trans.isSome then [(.wpartTransitionComplete, b)] else []) ++
  ((List.range 16).filter (fun w => bit x.waking w)).map (fun w => (.wayWakeComplete, { b with way := BitVec.ofNat 4 w }))

/-- What is due at an executor. -/
def Exec.due (e : Exec) (b : Sel) : List (Instr × Sel) :=
  if e.binds.isEmpty && e.slots.toList.all Option.isNone then []
  else
    (List.finRange 8).flatMap (fun i =>
      let c : Sel := { b with slot := BitVec.ofNat 3 i.val }
      match e.slots[i] with
      | none => []
      | some sl =>
        match sl.phase with
        | .opening => [(.activationComplete, c)]
        | .closing => [(.rowCloseComplete, c)]
        | .open_ => [(.quantumExpiry, c), (.budgetClosure, c)]
        | .reserved => []) ++
    [(.budgetRefill, b), (.preEmption, b), (.activation, b)]

/-- What is due at a column. -/
def Column.due (c : Column) (i : Nat) : List (Instr × Sel) :=
  let b : Sel := { Sel.reset with site := BitVec.ofNat 10 i }
  (List.range c.sends.length).flatMap (fun k =>
    match c.sends[k]? with
    | none => []
    | some x =>
      (List.range x.sectors.length).map (fun j => (.sectorArrival, { b with k := k, j := j })) ++
      (List.range x.parts.length).map (fun j => (.haloArrival, { b with k := k, j := j })) ++
      [(.targetAcknowledgement, { b with k := k })]) ++
  ((List.range 4).filter (fun q => !(c.mqHeld.toList.getD q []).isEmpty)).map (fun q => (.metadataArrival, { b with q := BitVec.ofNat 2 q })) ++
  (if c.jobs.isEmpty then [] else [(.jobStart, b), (.jobStart, { b with arr := true })]) ++
  perItem c.jobs.length .jobCompletion b ++ perItem c.jobs.length .tileComplete b ++ perItem c.jobs.length .operandFault b ++
  (if c.spawnq.isEmpty then [] else [(.spawnServe, b)]) ++
  perItem c.gateOut.length .peerQueued b ++
  (c.comp.filter (fun x => x.count == 0)).map (fun x => (.columnReport, { b with t := x.t, lnch := x.lnch })) ++
  (if c.suspect then [(.columnRetirement, b)] else []) ++ (if c.ceTimes.isEmpty then [] else [(.cecntExpiry, b)]) ++
  (if c.winSum == 0 then [] else [(.windowSumClear, b)]) ++
  (List.finRange 8).flatMap (fun j => (c.execs[j]).due { b with bank := BitVec.ofNat 3 j.val })

/-- What is due at a field. -/
def Field.due (x : Field) (i : Nat) : List (Instr × Sel) :=
  let b : Sel := { Sel.reset with field := BitVec.ofNat 4 i }
  (if x.dep == 0 then [] else perItem 12 .performanceNotice b) ++
  (if x.evWait.isEmpty then [] else [(.fieldEventPost, b)]) ++
  (x.comp.filter (fun c => c.count == 0)).map (fun c => (.fieldReport, { b with t := c.t, lnch := c.lnch }))

/-- What is due for a row by itself. -/
def Row.due (r : Row) (k : RowKey) : List (Instr × Sel) :=
  let b := selOf k
  match r.st with
  | .moving => [(.migrationPlacement, b)]
  | .waiting => [(.waitpWake, b), (.wfxDeadline, b), (.windowFillWake, b)]
  | .open_ => if r.await.isSome then [(.deferredStoreFault, b)] else []
  | _ => []

/-- What is due for a tenant. -/
def Tenant.due (x : Tenant) (t : Nat) : List (Instr × Sel) :=
  let b : Sel := { Sel.reset with t := BitVec.ofNat 4 t }
  (if x.fqWait.isEmpty then [] else [(.faultQueueAppend, b), (.faultRingHeadReread, b)]) ++
  (match x.cmds with
   | [] => []
   | e :: _ =>
     match e.headD 0 with
     | 1 => [(.hostLaunch, b)]
     | 2 => [(.hostCancel, b)]
     | 3 => [(.counter, b)]
     | 4 => [(.seal, b)]
     | _ => [(.load, b)]) ++
  (if x.loading.isSome then [(.kilnTranslationComplete, b)] else []) ++
  (if x.stopping then [(.tenantStopDrain, b)] else []) ++
  (if x.st == .resetting then [(.tenantResetDrain, b)] else []) ++
  x.launches.flatMap (fun l =>
    (l.todo.map (·.site)).eraseDups.map (fun c => (.launchRowStart, { b with lnch := l.id, site := c })) ++
    [(.successorIssue, { b with lnch := l.id })]) ++
  (if x.launches.any (fun l => l.phase == .waiting) then [(.launchPlacement, b)] else [])

/-- The management command whose turn it is. -/
def State.mgmtDue (s : State) : List (Instr × Sel) :=
  match s.mcmds with
  | [] => []
  | e :: _ =>
    let i : Instr := match (e.headD 0).toNat with
      | 0x41 => .create
      | 0x42 => .repart
      | 0x43 => .swapout
      | 0x44 => .swapin
      | 0x45 => .remove
      | 0x46 => .hostwin
      | 0x47 => .pair
      | 0x48 => .unpair
      | _ => .reinstate
    [(i, Sel.reset)]

/-- Everything that may happen by itself, in the order in which it is tried. -/
def State.dueEvents (s : State) : List (Instr × Sel) :=
  s.flights ++ s.rows.flatMap (fun (k, r) => r.due (RowKey.ofKey k)) ++ s.spans.flatMap (fun (i, x) => x.due i) ++
  s.cols.flatMap (fun (i, c) => c.due i) ++ s.fields.flatMap (fun (i, x) => x.due i) ++
  s.tens.flatMap (fun (t, x) => x.due t) ++ s.mgmtDue

/-- Does an event change anything? -/
def State.moves (s : State) (x : Instr × Sel) : Bool :=
  let s' : State := { s with sel := x.2 }
  match exec x.1 s' with
  | .next t => t != s'
  | _ => false

/-- The seats of an executor whose rows may issue now, from the one after the slot that issued last (R254). -/
def State.readySeats (s : State) (site bank : Nat) (e : Exec) : List Seat :=
  ((List.range 8).map (fun i => e.lastSlot + 1 + BitVec.ofNat 3 i)).filterMap (fun i =>
    match e.slots[i.toNat] with
    | some sl =>
      if sl.phase == .open_ && !sl.late && (s.row sl.row).issueAt ≤ s.time && e.issueAt ≤ s.time && (s.row sl.row).st == .open_ &&
        (s.row sl.row).await.isNone
      then some ⟨BitVec.ofNat 10 site, BitVec.ofNat 3 bank, i⟩ else none
    | none => none)

/-- Every seat whose row may issue now. -/
def State.issuers (s : State) : List Seat :=
  s.cols.flatMap (fun (i, c) => (List.finRange 8).flatMap (fun j => s.readySeats i j.val (c.execs[j])))

/-- Does the turn of a seat change anything but the seat? -/
def State.seatMoves (s : State) (x : Seat) : Bool :=
  match s.issueAt x with
  | .next t => t != s.sit x
  | _ => true

/-- The slots whose rows await a result (R254). -/
def State.lateSeats (s : State) : List Seat :=
  s.cols.flatMap (fun (k, c) => (List.finRange 8).flatMap (fun j => (List.finRange 8).filterMap (fun i =>
    match (c.execs[j]).slots[i] with
    | some sl => if sl.late && sl.phase == .open_ then some ⟨BitVec.ofNat 10 k, BitVec.ofNat 3 j.val, BitVec.ofNat 3 i.val⟩ else none
    | none => none)))

/-- The turn taken when the schedule is empty. -/
def State.auto (s : State) : Turn :=
  match s.dueEvents.find? s.moves with
  | some (i, x) => .event i x
  | none =>
    match s.issuers.find? s.seatMoves with
    | some x => .issue x.site x.bank x.slot
    | none =>
      match s.lateSeats with
      | x :: _ => .late x.site x.bank x.slot false
      | [] => .wait 1

end Sys2Proof.Machine
end

