-- ==== Sys2Proof/Machine/Start.lean ====
section
/-! DEFINITION. How a program comes to run (log entry 16, DESIGN CHOICE): a row of tenant 0 opened on column 0 with one word of code at its
PC, as a launch leaves it (R249). -/

namespace Sys2Proof.Machine

/-- The row that `withFetchWord` starts: row 0 of tenant 0. -/
def firstRow : RowKey := ⟨0, 0⟩

/-- The first address of tenant code (R62). -/
def firstPc : BitVec 32 := 0x1000

/-- Row 0 of tenant 0 is open in slot 0 of executor 0 of column 0, its code word at 0x1000, and has the next turn. It is a
supervisor row with BUD at the column's CAP. -/
def State.place (s : State) (w : Word) : State :=
  let c := s.col 0
  let e := c.execs[0]
  let slot : Slot := ⟨firstRow, .open_, 0, 0, s.time, s.time, false, none, false, false⟩
  let bind : Bind := ⟨0, 0, 0, false, 16, 0, 0, 1, none⟩
  let e : Exec := { e with
    slots := e.slots.set 0 (some slot), binds := [bind], lastSlot := 7, issueAt := s.time,
    refillAt := (s.time / 256 + 1) * 256 }
  let c : Column := { c with
    owner := some 0, code := c.code.writeBytes firstPc.toNat (toBytes 4 w), execs := c.execs.set 0 e,
    clearAt := (s.time / 256 + 1) * 256 }
  let t := s.ten 0
  let t : Tenant := { t with st := .active, dirbase := 0, dirsize := 1, cols := [0] }
  let s := ((s.setCol 0 c).setTen 0 t).setDir firstRow ⟨0, 0, 0, 0, true, false⟩
  let r := s.row firstRow
  let r : Row := { r with st := .open_, pc := firstPc, priv := true, bud := c.bcap.setWidth 32, issueAt := s.time }
  let s := s.setRow firstRow r
  { s with cur := firstRow, seat := ⟨0, 0, 0⟩, run := [], schedule := [.issue 0 0 0] }

end Sys2Proof.Machine
end

