-- ==== Sys2Proof/Machine/Step.lean ====
section
/-! DEFINITION. One step of the device: the next turn of the schedule. -/

namespace Sys2Proof.Machine

/-- One step (log entry 1, DESIGN CHOICE): the first turn of the schedule; with no schedule, the turn that the model chooses. -/
def step (s : State) : Host.Outcome State Fault Refusal :=
  match s.schedule with
  | t :: l => State.turn { s with schedule := l } t
  | [] => s.turn s.auto

/-- The state in which the next step fetches and runs the word `w` (log entry 16, DESIGN CHOICE). -/
def State.withFetchWord (s : State) (nbits w : Nat) : State := s.place (BitVec.ofNat 32 (w % 2 ^ nbits))

end Sys2Proof.Machine
end

