-- ==== Sys2Proof/Safety.lean ====
section
/-! DEFINITION. The terms that statements use: when a word executes, what an instruction leaves unchanged, the canonical form
of the memories, and what counts as a safe run. -/

namespace Sys2Proof.Machine

/-! ## When a word executes (R47) -/

/-- An open row in its seat executes a word whose guard is p, with its effect: the predicate is 1 (R47). -/
def Executes (s : State) (p : BitVec 3) : Prop := s.seated = true ∧ (s.me).rp p = true

/-- An open row in its seat meets a word whose guard is p, and the predicate is 0: the group ends with no effect (R47). -/
def Skips (s : State) (p : BitVec 3) : Prop := s.seated = true ∧ (s.me).rp p = false

/-- The guard of an instruction word that has one (R47). Branches, calls and hints have none, nor have events. -/
def guardOf : Instr → Option (BitVec 3)
  | .addD _ _ _ p => some p
  | .addW _ _ _ p => some p
  | .subD _ _ _ p => some p
  | .subW _ _ _ p => some p
  | .mulD _ _ _ p => some p
  | .mulW _ _ _ p => some p
  | .mulh _ _ _ p => some p
  | .mulhn _ _ _ p => some p
  | .divD _ _ _ p => some p
  | .divW _ _ _ p => some p
  | .divnD _ _ _ p => some p
  | .divnW _ _ _ p => some p
  | .remD _ _ _ p => some p
  | .remW _ _ _ p => some p
  | .remnD _ _ _ p => some p
  | .remnW _ _ _ p => some p
  | .min _ _ _ p => some p
  | .max _ _ _ p => some p
  | .minn _ _ _ p => some p
  | .maxn _ _ _ p => some p
  | .and _ _ _ p => some p
  | .or _ _ _ p => some p
  | .xor _ _ _ p => some p
  | .andn _ _ _ p => some p
  | .shl _ _ _ p => some p
  | .shr _ _ _ p => some p
  | .sra _ _ _ p => some p
  | .rot _ _ _ p => some p
  | .bext _ _ _ p => some p
  | .bins _ _ _ p => some p
  | .sel _ _ _ p => some p
  | .absD _ _ p => some p
  | .absW _ _ p => some p
  | .clzD _ _ p => some p
  | .clzW _ _ p => some p
  | .popcD _ _ p => some p
  | .popcW _ _ p => some p
  | .addi _ _ _ p => some p
  | .andi _ _ _ p => some p
  | .ori _ _ _ p => some p
  | .xori _ _ _ p => some p
  | .shli _ _ _ _ p => some p
  | .shri _ _ _ _ p => some p
  | .srai _ _ _ _ p => some p
  | .roti _ _ _ _ p => some p
  | .cmp _ _ _ _ _ p => some p
  | .cmpi _ _ _ _ p => some p
  | .pand _ _ _ p => some p
  | .por _ _ _ p => some p
  | .pxor _ _ _ p => some p
  | .pnot _ _ p => some p
  | .pmov _ _ p => some p
  | .movi _ _ p => some p
  | .jr _ _ p => some p
  | .ret p => some p
  | .loop _ _ p => some p
  | .ldb _ _ _ p => some p
  | .ldh _ _ _ p => some p
  | .ldw _ _ _ p => some p
  | .ldd _ _ _ p => some p
  | .stb _ _ _ p => some p
  | .sth _ _ _ p => some p
  | .stw _ _ _ p => some p
  | .std _ _ _ p => some p
  | .ldv _ _ _ p => some p
  | .stv _ _ _ p => some p
  | .ldxH _ _ _ p => some p
  | .ldxW _ _ _ p => some p
  | .ldxD _ _ _ p => some p
  | .stxH _ _ _ p => some p
  | .stxW _ _ _ p => some p
  | .stxD _ _ _ p => some p
  | .ldblk _ _ _ p => some p
  | .stblk _ _ _ p => some p
  | .ldbs _ _ _ p => some p
  | .ldhs _ _ _ p => some p
  | .ldws _ _ _ p => some p
  | .lwd _ _ p => some p
  | .swd _ _ p => some p
  | .aadd _ _ _ _ p => some p
  | .amin _ _ _ _ p => some p
  | .amax _ _ _ _ p => some p
  | .aand _ _ _ _ p => some p
  | .aor _ _ _ _ p => some p
  | .axor _ _ _ _ p => some p
  | .aswap _ _ _ _ p => some p
  | .acas _ _ _ _ p => some p
  | .afadd _ _ _ _ p => some p
  | .qadd _ _ _ _ p => some p
  | .qmin _ _ _ _ p => some p
  | .qmax _ _ _ _ p => some p
  | .qand _ _ _ _ p => some p
  | .qior _ _ _ _ p => some p
  | .qxor _ _ _ _ p => some p
  | .qfadd _ _ _ _ p => some p
  | .qbf16add _ _ _ p => some p
  | .qaddx _ _ _ _ _ p => some p
  | .qminx _ _ _ _ _ p => some p
  | .qmaxx _ _ _ _ _ p => some p
  | .qandx _ _ _ _ _ p => some p
  | .qiorx _ _ _ _ _ p => some p
  | .qxorx _ _ _ _ _ p => some p
  | .qfaddx _ _ _ _ _ p => some p
  | .qbf16addx _ _ _ _ p => some p
  | .ldfe _ _ _ p => some p
  | .ldf _ _ _ p => some p
  | .stfe _ _ _ p => some p
  | .sete _ p => some p
  | .fence _ p => some p
  | .ldaD _ _ p => some p
  | .ldaW _ _ p => some p
  | .stlD _ _ p => some p
  | .stlW _ _ p => some p
  | .yield p => some p
  | .close p => some p
  | .halt p => some p
  | .arm _ _ p => some p
  | .disarm _ p => some p
  | .waitm p => some p
  | .spawn _ _ _ p => some p
  | .migr _ p => some p
  | .stepx _ _ p => some p
  | .qpush _ _ _ _ p => some p
  | .qpushc _ _ _ _ p => some p
  | .qpop _ _ _ p => some p
  | .qpeek _ _ _ p => some p
  | .qcnt _ _ p => some p
  | .tailret p => some p
  | .send _ _ p => some p
  | .sendq _ _ p => some p
  | .halo _ _ p => some p
  | .wmk _ _ p => some p
  | .hclaim _ _ _ p => some p
  | .hwait _ p => some p
  | .htest _ _ p => some p
  | .kwalk _ _ _ p => some p
  | .kapnd _ _ _ p => some p
  | .ksum _ _ _ p => some p
  | .mxq _ _ _ p => some p
  | .mxs _ _ _ p => some p
  | .mxw _ _ p => some p
  | .mxt _ _ _ p => some p
  | .mxcan _ _ p => some p
  | .gnext _ _ p => some p
  | .gdone _ _ p => some p
  | .launch _ _ _ p => some p
  | .lhint p => some p
  | .waitp _ p => some p
  | .cancel _ _ _ p => some p
  | .joinw _ _ p => some p
  | .vadd _ _ _ _ p => some p
  | .vsub _ _ _ _ p => some p
  | .vmul _ _ _ _ p => some p
  | .vfma _ _ _ _ p => some p
  | .vfms _ _ _ _ p => some p
  | .vmin _ _ _ _ p => some p
  | .vmax _ _ _ _ p => some p
  | .vabs _ _ _ p => some p
  | .vneg _ _ _ p => some p
  | .vdot2 _ _ _ _ p => some p
  | .vdot4 _ _ _ p => some p
  | .viadd _ _ _ _ p => some p
  | .visub _ _ _ _ p => some p
  | .vimul _ _ _ _ p => some p
  | .viadds _ _ _ _ p => some p
  | .visubs _ _ _ _ p => some p
  | .vimuls _ _ _ _ p => some p
  | .vshl _ _ _ _ p => some p
  | .vshr _ _ _ _ p => some p
  | .vand _ _ _ _ p => some p
  | .vor _ _ _ _ p => some p
  | .vxor _ _ _ _ p => some p
  | .vnadd _ _ _ p => some p
  | .vnsub _ _ _ p => some p
  | .vnmul _ _ _ p => some p
  | .vnfma _ _ _ p => some p
  | .vnmax _ _ _ p => some p
  | .vndot _ _ _ _ p => some p
  | .vquant _ _ _ p => some p
  | .vbaq _ _ _ _ p => some p
  | .vcvt _ _ _ _ _ p => some p
  | .vshuf _ _ _ _ p => some p
  | .vbcast _ _ _ p => some p
  | .vext _ _ _ _ p => some p
  | .vins _ _ _ _ p => some p
  | .vselv _ _ _ p => some p
  | .vrsum _ _ _ _ p => some p
  | .vrmax _ _ _ _ p => some p
  | .vrmin _ _ _ _ p => some p
  | .vexp2 _ _ _ p => some p
  | .vlog2 _ _ _ p => some p
  | .vrcp _ _ _ p => some p
  | .vrsq _ _ _ p => some p
  | .vsin _ _ _ p => some p
  | .vtanh _ _ _ p => some p
  | .vsig _ _ _ p => some p
  | .vcmp _ _ _ _ _ p => some p
  | .vany _ _ _ _ _ p => some p
  | .vall _ _ _ _ _ p => some p
  | .fadd _ _ _ _ p => some p
  | .fsub _ _ _ _ p => some p
  | .fmul _ _ _ _ p => some p
  | .ffma _ _ _ _ p => some p
  | .fdiv _ _ _ _ p => some p
  | .fsqrt _ _ _ p => some p
  | .fmin _ _ _ _ p => some p
  | .fmax _ _ _ _ p => some p
  | .fcvt _ _ _ _ p => some p
  | .fcmpeq _ _ _ _ p => some p
  | .fcmplt _ _ _ _ p => some p
  | .fcmple _ _ _ _ p => some p
  | .trap _ p => some p
  | .eret p => some p
  | .bkpt p => some p
  | .srr _ _ p => some p
  | .srw _ _ p => some p
  | .srs _ _ p => some p
  | .src _ _ p => some p
  | .cflush _ _ p => some p
  | .cinv _ p => some p
  | .czero _ p => some p
  | .tlbi _ _ p => some p
  | .tlbiAll _ p => some p
  | .xbset _ p => some p
  | .wayset _ _ p => some p
  | .wfx _ _ p => some p
  | .feat _ _ p => some p
  | .topo _ _ p => some p
  | .idr _ _ p => some p
  | .time _ p => some p
  | .hmove _ _ _ _ p => some p
  | .hend _ _ p => some p
  | .hinfo _ _ p => some p
  | .kstat _ _ p => some p
  | _ => none

/-! ## What an instruction leaves unchanged -/

/-- From s to t the issuing row's record became r but for its PC, which stands behind the group; the hints of the run are
consumed; and nothing else changed: no other row, no column, span, field, tenant, no byte of DRAM or of host memory, nothing
in flight. -/
def OnlyRow (s t : State) (r : Row) : Prop :=
  t.me = { r with pc := s.after &&& ~~~3#32, inGroup := false } ∧ (∀ k, k ≠ s.cur → t.row k = s.row k) ∧ t.run = [] ∧
    (∀ a, t.mem.read a = s.mem.read a) ∧ { t with rows := s.rows, run := s.run } = s

/-- Instruction i completes in s, and its whole effect is that the issuing row's record becomes r, with PC behind the group. -/
def Sets (s : State) (i : Instr) (r : Row) : Prop := ∃ t, exec i s = .next t ∧ OnlyRow s t r

/-- The same for an instruction whose access has left the state s1 (a TLB or cache filled, a line fetched). -/
def SetsAfter (s s1 : State) (i : Instr) (r : Row) : Prop := ∃ t, exec i s = .next t ∧ OnlyRow s1 t r

/-- Instruction i completes in s with nothing but PC moved behind the group. -/
def Passes (s : State) (i : Instr) : Prop := Sets s i s.me

/-- Instruction i completes in s, and its whole effect is that control goes to `pc`, the row's record being r otherwise. -/
def Transfers (s : State) (i : Instr) (r : Row) (pc : BitVec 32) : Prop :=
  ∃ t, exec i s = .next t ∧ t.me = { r with pc := pc &&& ~~~3#32, inGroup := false } ∧ (∀ k, k ≠ s.cur → t.row k = s.row k) ∧ t.run = [] ∧
    (∀ a, t.mem.read a = s.mem.read a) ∧ { t with rows := s.rows, run := s.run } = s

/-! ## Accesses that an instruction makes -/

/-- Units i, i + 1, ... of a progressive instruction (`k` of them) performed one after the other, each recorded in PROG as it
is done (R255). -/
def UnitsDone (f : Nat → State → Res Unit) : (k i : Nat) → State → State → Prop
  | 0, _, s, t => t = s
  | k + 1, i, s, t => ∃ u, f i s = .ok () u ∧ UnitsDone f k (i + 1) (u.setMe { u.me with prog := BitVec.ofNat 32 (i + 1) }) t

/-- What a release of the issuing row at a scope has written back when it leaves its column (R223). -/
def released (s : State) (rel : Bool) (scope : Nat) : State := if rel && 1 ≤ scope then s.releaseFar s.here else s

/-- A returning atomic on DRAM may be performed at once: translated and checked, nothing of the row in flight that it must
follow, the location free of errors, a release not kept waiting (R219, R220, R225, R228). -/
def AtomFree (s s1 : State) (va : DWord) (size : Nat) (o : BitVec 2) (pa : Nat) (attr : Attr) : Prop :=
  s.access s.who .atom va size = .ok (.dram pa, attr) s1 ∧
  s1.earlyMeets s1.cur va size = false ∧ s1.busyAt s1.cur (.dram pa) size = false ∧
  (bit o 0 = true → s1.releasing s1.cur = false) ∧
  (s1.atHome s1.here pa).homeBad pa size = false ∧ s1.owesAt s1.cur (homeSpan pa) = false ∧
  (bit o 1 = true → let s2 := released s1 true (s.scope 3); s2.mayRelease (homeSpan pa / 8) (s2.scopeVec (s.scope 3)) = true)

/-- The atomic performed (R312): the state behind it, the row's destination written and its write numbered (R224). -/
def atomDone (s s1 : State) (op : AOp) (size : Nat) (f32 : Bool) (d : BitVec 6) (o : BitVec 2) (new : DWord) (pa : Nat) (attr : Attr) :
    State :=
  let rel := bit o 1
  let s2 := released s1 rel (s.scope 3)
  let s3 := s2.atomDo s2.cur s2.here op size false pa ((s.me).rg d) new d f32 (bit o 0) (s.scope 3)
    (if rel then s2.scopeVec (s.scope 3) else none) (keepOf attr s1.cache)
  (s3.depart s3.myField (homeSpan pa / 8) true).1.advance

/-- The elements of a reduction (addresses and operands) translated and checked one after the other, none of them where the
row has an earlier store that it must follow (R219, R314): the places, and the state behind the last check. -/
def ElemsAt (size : Nat) : List (DWord × DWord) → List (Loc × Attr × DWord) → State → State → Prop
  | [], ls, s, t => ls = [] ∧ t = s
  | (va, v) :: es, ls, s, t => ∃ l attr u rest, s.access s.who .atom va size = .ok (l, attr) u ∧
      u.earlyMeets u.cur va size = false ∧ u.parkedAt u.cur l size = false ∧
      ls = (l, attr, v) :: rest ∧ ElemsAt size es rest u t

/-- The eight sectors of a line checked for zeros one after the other (R383), none of them where the row has an earlier store that
it must follow or a receive window that is not filled: the places, and the state behind the last check. -/
def ZerosAt (base : DWord) : List Nat → List (Loc × Attr) → State → State → Prop
  | [], ls, s, t => ls = [] ∧ t = s
  | j :: js, ls, s, t => ∃ l attr u rest, s.access s.who .store (base + BitVec.ofNat 64 (32 * j)) 32 = .ok (l, attr) u ∧
      u.earlyMeets u.cur (base + BitVec.ofNat 64 (32 * j)) 32 = false ∧ u.busyStore u.cur l 32 (u.ops + 1) = false ∧
      u.fillWait l 32 = .ok () u ∧ ls = (l, attr) :: rest ∧ ZerosAt base js rest u t

/-- The runs of a halo's tile read for one neighbour after the other (R344): the sectors that go to them, and the state behind the last
read. -/
def RunsRead (base : DWord) (h : HaloDesc) : List (Nat × BitVec 10) → List Sector → State → State → Prop
  | [], l, s, t => l = [] ∧ t = s
  | x :: xs, l, s, t => ∃ data u rest, s.runBytes base (h.runs x.1) = .ok data u ∧
      l = sectorsOf x.2 ((arrivalFrom x.1).toNat * 0x1000) data ++ rest ∧ RunsRead base h xs rest u t

/-- From place `n` of a span on, the abandoned places of the list stand before place `m` in list order (R155). -/
def Abandoned (s : State) (span : Nat) : List Nat → (n m : Nat) → Prop
  | [], n, m => n = m
  | i :: l, n, m => n = i ∧ i ≠ 0xFFFF ∧ (s.place_ span i).st = 3 ∧ Abandoned s span l (s.place_ span i).next.toNat m

/-- The elements sent to their homes, with the vector of a release; PEND counts them (R210, R225, R314). -/
def redsSent (s1 : State) (op : AOp) (size : Nat) (rel : Bool) (scope : Nat) (ls : List (Loc × Attr × DWord)) : State :=
  let s2 := released s1 rel scope
  let vec := if rel then s2.scopeVec scope else none
  let seq := s2.ops + 1
  let s3 := ls.foldl (fun s (l, attr, v) =>
    s.sendRed s.cur s.here op size l v rel vec seq ls.length (keepOf attr s1.cache)) s2
  s3.finish { s3.me with pend := s3.me.pend + BitVec.ofNat 7 ls.length }

/-- The state behind an acquire that read the value of a word (R223, R224). -/
def acquired (s : State) (scope pa : Nat) : State := (s.acquire scope).acquireVec s.cur pa 8

/-! ## The canonical form of the memories -/

/-- DRAM and host memory are in their canonical form: addresses strictly rising, no byte listed that reads as an unlisted
one does. -/
def MemoryForm (s : State) : Prop := s.mem.wf = true ∧ s.host.wf = true

/-! ## What an event changes -/

/-- Row k's record became r, and nothing else changed. -/
def OnlyRowAt (s t : State) (k : RowKey) (r : Row) : Prop :=
  t.row k = r ∧ (∀ j, j ≠ k → t.row j = s.row j) ∧ { t with rows := s.rows } = s

/-- Column i became c, and nothing else changed. -/
def OnlyCol (s t : State) (i : Nat) (c : Column) : Prop :=
  t.col i = c ∧ (∀ j, j ≠ i → t.col j = s.col j) ∧ { t with cols := s.cols } = s

/-- Span i became x, and nothing else changed. -/
def OnlySpan (s t : State) (i : Nat) (x : Span) : Prop :=
  t.span i = x ∧ (∀ j, j ≠ i → t.span j = s.span j) ∧ { t with spans := s.spans } = s

/-- Field i became x, and nothing else changed. -/
def OnlyField (s t : State) (i : Nat) (x : Field) : Prop :=
  t.field i = x ∧ (∀ j, j ≠ i → t.field j = s.field j) ∧ { t with fields := s.fields } = s

/-- Tenant k became x, and nothing else changed. -/
def OnlyTen (s t : State) (k : BitVec 4) (x : Tenant) : Prop :=
  t.ten k = x ∧ (∀ j, j ≠ k → t.ten j = s.ten j) ∧ { t with tens := s.tens } = s

/-- Event i happens in s and leads to a state of which P holds. -/
def Makes (s : State) (i : Instr) (P : State → Prop) : Prop := ∃ t, exec i s = .next t ∧ P t

/-- Event i comes to nothing in s. -/
def Idles (s : State) (i : Instr) : Prop := exec i s = .next s

/-- Open row k awaits an answer, behind which it goes on at pc, and nothing else of its boundary is due. -/
def Awaits (s : State) (k : RowKey) (pc : BitVec 32) : Prop :=
  (s.row k).await = some pc ∧ (s.row k).st = .open_ ∧ (s.row k).held = [] ∧ (s.row k).stepping = false ∧ (s.row k).stepper = none

/-- What becomes of a row that awaits an answer when it comes: its record r goes on at pc. -/
def answered (r : Row) (pc : BitVec 32) : Row := { r with pc := pc &&& ~~~3#32, await := none }

/-- Row k is open in a seat and stands at its boundary behind a whole group, and no fault is due there. -/
def StandsIn (s : State) (k : RowKey) (seat : Seat) : Prop :=
  s.seatOf k = some seat ∧ (s.row k).st = .open_ ∧ (s.row k).await = none ∧ (s.row k).inGroup = false ∧ (s.row k).deferred = [] ∧
    (s.row k).faultedStore = none ∧ (s.row k).mid = .none ∧ (s.row k).run = []

/-! ## Runs -/

/-- One step leads from a state to another. -/
def Leads (s t : State) : Prop := step s = .next t

/-- A run of any length leads from a state to another. -/
inductive Reaches : State → State → Prop where
  | here (s : State) : Reaches s s
  | more {s t u : State} (h : Leads s t) (r : Reaches t u) : Reaches s u

/-- The machine goes on from a state. -/
def GoesOn (s : State) : Prop := ∃ t, Leads s t

/-- A run that never stops, however long. -/
def Safe (s : State) : Prop := ∀ t, Reaches s t → GoesOn t

end Sys2Proof.Machine
end

