-- ==== Sys2Proof/Certificates/Slice0/Obligations.lean ====
section
/-! DEFINITION. The statements for the provers. Where a statement speaks of what an instruction does, `Sets s i r` says at once
that the instruction completes, that the issuing row's record becomes r with PC behind the group, and that nothing else of the
machine changes; `Makes s i P` says that an event happens and leads to a state of which P holds. -/

open Sys2Proof Sys2Proof.Machine

/-! ## The machine -/

/-- R88, R95, R97, R99, R100, R131, R151, R182, R250, R390: what power-up leaves in rows, columns, executors, channels, place records,
fields and tenants; no tenant is there, no row is open and nothing is in flight.
The model's own choices in it: the g registers of a row, DRAM and the host's memory read 0 at power-up (log entry 2), and MPLIM is
960, that of a grade A device (log entry 5): the spec gives no such values. -/
def Obligations.ResetValues : Prop :=
  ∀ (k : RowKey) (i : Nat) (b : BitVec 3) (j : Fin 12) (t : BitVec 4),
    let s := State.reset
    let r := s.row k
    let c := s.col i
    let x := s.ten t
    r.st = .free ∧ r.waiton = 0 ∧ r.pred = 1 ∧ r.exc = 0 ∧ r.pend = 0 ∧ r.prog = 0 ∧ r.tailpc = 0 ∧ r.launch = 0 ∧ (∀ n, r.rg n = 0) ∧
    c.xb = 0x10000 ∧ c.chg = 0x08020401 ∧ c.bref = 512 ∧ c.bcap = 1024 ∧ c.pcap = 16384 ∧ c.cethr = 8 ∧ c.cecnt = 0 ∧ c.testpre = 0 ∧
    c.winSum = 0 ∧ c.suspect = false ∧ c.owner = none ∧ (∀ n : Fin 8, c.wmk[n] = 0) ∧ (∀ n : Fin 4, c.mb[n] = 0) ∧
    (∀ n : BitVec 4, s.chan i n = ⟨0, 0, 0, false, 0, 0⟩) ∧ (s.executor i b).last = 15 ∧ (s.executor i b).binds = [] ∧
    (∀ n : Fin 8, (s.executor i b).slots[n] = none) ∧ (s.span i).wpart = 0 ∧ (s.field i).fav[j] = 0 ∧ (s.field i).dep = 0 ∧
    (∀ n, let p := s.place_ i n;
      p.prev = 0xFFFF ∧ p.next = 0xFFFF ∧ p.owner = 0 ∧ p.gen = 1 ∧ p.st = 0 ∧ p.tenant = 0 ∧ p.obj = 0) ∧
    x.st = .absent ∧ x.fpol = 0xFF ∧ x.tvec = 0 ∧ x.ovec = 0 ∧ x.tailvec = 0 ∧ x.cwbase = 0 ∧ x.ota = 0 ∧ x.otf = 0x7F800000 ∧
    x.otcfg = 0 ∧ x.nextLnch = 1 ∧ x.verr = 0 ∧ x.cqbase = 0 ∧ x.fqbase = 0 ∧ s.retired = List.replicate 30 0 ∧ s.mplim = 960 ∧
    s.mem = [] ∧ s.host = [] ∧ s.outside = [] ∧ s.refusedStores = [] ∧ s.reds = [] ∧ s.acks = [] ∧ s.homeOps = [] ∧ s.parked = [] ∧
    s.holdWakes = [] ∧ s.ldfeAns = [] ∧ s.fires = [] ∧ s.joinWakes = [] ∧ s.abandons = [] ∧ s.spawns = [] ∧ s.pushes = [] ∧
    s.jobNotes = [] ∧ s.mxcans = [] ∧ s.locks = [] ∧ s.retires = [] ∧ s.tlbis = [] ∧ s.wcomp = [] ∧ s.mcmds = [] ∧ s.run = [] ∧
    c.jobs = [] ∧ c.spawnq = [] ∧ c.sends = [] ∧ c.gateOut = [] ∧ (s.span i).walks = [] ∧ (s.span i).walkq = [] ∧ (s.span i).wq = [] ∧
    (s.span i).wcur = none ∧ (s.span i).defers = [] ∧ (s.span i).trans = none ∧ (s.field i).evq = [] ∧ (s.field i).evWait = []

/-- The state after reset has its memories in canonical form.
The model's own choices in it: log entry 2. -/
def Obligations.ResetForm : Prop :=
 MemoryForm State.reset ∧ ∀ w, MemoryForm (State.reset.withFetchWord 32 w)

/-- Every step of the machine keeps DRAM and host memory in canonical form: addresses strictly rising, and no byte listed that an
unlisted address reads as, so that equal memories are equal data.
The model's own choices in it: log entry 2. -/
def Obligations.StepKeepsForm : Prop :=
 ∀ s t : State, MemoryForm s → step s = .next t → MemoryForm t

/-- R218, R227: a write at its home: every byte of it that no live place or tree lock protects reads as written afterwards, and
every other byte of DRAM as before.
The model's own choices in it: log entries 14 and 86. -/
def Obligations.HomeWrites : Prop :=
  ∀ (s : State) (pa : Nat) (data : List Byte) (plain : Bool) (a : Nat), s.mem.wf = true →
    (s.homeWrite pa data plain).mem.read a =
      if pa ≤ a ∧ a < pa + data.length ∧ s.homeKeeps a = false then data.getD (a - pa) 0 else s.mem.read a

/-- R47, R53: a word whose guard's predicate is 0 completes with no effect but PC moved behind its group. No word executes for a
row that is not in an open slot. -/
def Obligations.GuardedWords : Prop :=
  (∀ (i : Instr) (p : BitVec 3) (s : State), guardOf i = some p → Skips s p → Passes s i) ∧
  (∀ (i : Instr) (s : State), i.isWord = true → s.seated = false → exec i s = .fault .noOpenRow)

/-- R52, R53, R57: when the word at the place where the issuing row goes on decodes to an instruction that passes the checks of
R57, a step is exec of that instruction, and then the boundary behind its group; behind a hint of a run the row stands inside its
group, at the next word. A group that could not go on with no unit of it done is left to be tried again, and is then executed from the
words it was issued with, with no fetch and no check of them (R392). So for a row whose turn
the schedule gives it: it is ready and awaits nothing, no close of it is due, no refill or clear comes before its issue (R96), no
other row issues first (R254), and nothing is due at its boundary (R265, R267). The issue takes the clocks of R21, and behind a word
past which a load of the row has acted ahead the value holds only where R220 lets it. An event of the schedule is exec of the event.
The model's own choices in it: log entries 1 and 90. -/
def Obligations.StepRunsDecoded : Prop :=
  (∀ (s t : State) (i : Instr) (site : BitVec 10) (bank slot : BitVec 3) (l : List Turn), s.schedule = .issue site bank slot :: l →
    let u : State := { State.sit { s with schedule := l } ⟨site, bank, slot⟩ with run := [] }
    let at_ := u.issueTime (u.executor u.here u.seat.bank) u.me
    let took := u.clockIssue.takeUp
    let v := took.setMe { took.me with again := [] }
    let ends := fun (x : State) (words : List Word) =>
      (t.redo = false ∨ t.me.prog ≠ u.me.prog → step s = .next ((t.endGroup u.me.prog).keepWords words)) ∧
      (t.redo = true → t.me.prog = u.me.prog → step s = .next (t.stallAs u (x.midFor i) words))
    u.seated = true → (u.me).await = none → (u.leaving u.cur = none ∨ u.atBoundary u.cur = false ∨ (u.me).inGroup = true) →
    u.ready = true → at_ ≤ u.horizon at_ → u.myTurn = true → u.owesFirst = false →
    ((u.me).again = [] → v.fetchFault = none → decode v.fetched = .ok i →
      (isRunHint v.fetched = true → exec i v = .next t → t.run ≠ [] → step s = .next t.putDown) ∧
      (isRunHint v.fetched = false → v.groupFault v.fetched = none → exec i (v.forWord i) = .next t → t.run = [] →
        ends v (v.run ++ [v.fetched]))) ∧
    (∀ hints w, (u.me).again = hints ++ [w] → decode w = .ok i →
      let x : State := { v with run := hints }
      exec i (x.forWord i) = .next t → t.run = [] → ends x (hints ++ [w]))) ∧
  (∀ (s : State) (i : Instr) (sel : Sel) (l : List Turn), s.schedule = .event i sel :: l → i.isWord = false →
    step s = exec i { s with schedule := l, sel := sel }) ∧
  (∀ (s : State) (n : Nat) (l : List Turn), s.schedule = .wait n :: l →
    step s = .next (State.elapse { s with schedule := l } (s.time + n)))

/-- Every instruction word is read back from its encoding, every operand at every value that the encoding admits. -/
def Obligations.RoundTrip : Prop :=
 ∀ i : Instr, i.wellFormed = true → i.isWord = true → decode (encode i) = .ok i

/-- A word that decodes is the encoding of a well-formed instruction and of no other: no bit of it is ignored. -/
def Obligations.DecodingIsStrict : Prop :=
  ∀ (w : Word) (i : Instr), decode w = .ok i → encode i = w ∧ i.wellFormed = true ∧ i.isWord = true

/-- Encodings that the spec works out decode to the instructions that they stand for: hints, integer, immediate, compare, branch, LOOP,
load, store, gather, atomic, reduction, full/empty, ordering, row, channel, send, hold, walker, matrix, gateway, launch, vector, narrow,
conversion, permutation, lane reduction, scalar floating-point, system, maintenance and query words. -/
def Obligations.WorkedWords : Prop :=
  decode 0x04001FC0 = .ok (.immx 0x1FC0) ∧ decode 0x04800002 = .ok (.cachex 0 0 0 2) ∧ decode 0x04400000 = .ok (.rndx 0) ∧
  decode 0x08D28C20 = .ok (.mulD 13 10 12 0) ∧ decode 0x08F0CE50 = .ok (.divnD 15 3 14 0) ∧ decode 0x096340A8 = .ok (.or 22 13 0 0) ∧
  decode 0x0D24800A = .ok (.addi 18 18 1 2) ∧ decode 0x1CB2C818 = .ok (.shri 11 11 0 3 0) ∧ decode 0x2CF1FC00 = .ok (.movi 15 0x3F80 0) ∧
  decode 0x20B34E00 = .ok (.cmp 1 3 13 14 0 0) ∧ decode 0x24828020 = .ok (.cmpi 1 0 10 4 0) ∧
  decode 0x313FFFFB = .ok (.br 2 0x3FFFFB) ∧ decode 0x30FFFFFF = .ok (.brn 1 0x3FFFFF) ∧ decode 0x34800002 = .ok (.call 1 2) ∧
  decode 0x394FC000 = .ok (.jr 20 63 0) ∧ decode 0x38000008 = .ok (.ret 0) ∧ decode 0x3D2FFFC8 = .ok (.loop 18 0x1FFF9 0) ∧
  decode 0x4C928000 = .ok (.ldd 9 10 0 0) ∧ decode 0x5A654000 = .ok (.stw 38 21 0 0) ∧ decode 0x6A026208 = .ok (.ldxW 16 9 17 0) ∧
  decode 0x68D08E38 = .ok (.stblk 13 2 14 0) ∧ decode 0x748246E8 = .ok (.qfaddx 4 0 9 3 1 0) ∧
  decode 0xA8864500 = .ok (.vndot 4 6 8 0 0) ∧ decode 0xA94C7720 = .ok (.vbaq 10 12 14 1 0) ∧ decode 0xACA61180 = .ok (.vcvt 5 6 2 3 0 0) ∧
  decode 0xB2478028 = .ok (.vbcast 18 15 1 0) ∧ decode 0xB6720008 = .ok (.vrsum 19 18 0 1 0) ∧ decode 0xC1010C80 = .ok (.fcvt 16 4 1 4 0) ∧
  decode 0x8D051520 = .ok (.hmove 1 2 20 21 0) ∧ decode 0x8D550038 = .ok (.hinfo 21 20 0) ∧
  decode 0xE8B00920 = .ok (.idr 11 9 0) ∧ decode 0xE8E00318 = .ok (.topo 14 3 0) ∧ decode 0xE9900028 = .ok (.time 25 0) ∧
  decode 0x48F14000 = .ok (.ldw 15 5 0 0) ∧ decode 0x62058000 = .ok (.ldv 16 22 0 0) ∧ decode 0x6D304200 = .ok (.swd 19 64 0) ∧
  decode 0x70C27000 = .ok (.aadd 12 9 3 0 0) ∧ decode 0x74124500 = .ok (.qadd 1 9 5 0 0) ∧ decode 0x78C24800 = .ok (.ldfe 12 9 1 0) ∧
  decode 0x7C000300 = .ok (.fence 3 0) ∧ decode 0x80824018 = .ok (.arm 1 9 0) ∧ decode 0x84930800 = .ok (.qpush 9 3 1 0 0) ∧
  decode 0x89024010 = .ok (.halo 2 9 0) ∧ decode 0x8CA25000 = .ok (.hclaim 10 9 2 0) ∧ decode 0x90824A00 = .ok (.kwalk 1 9 10 0) ∧
  decode 0x94C24800 = .ok (.mxq 12 9 1 0) ∧ decode 0x98824000 = .ok (.gnext 1 9 0) ∧ decode 0x9CC24800 = .ok (.launch 12 9 1 0) ∧
  decode 0xA2B08850 = .ok (.vmul 21 16 17 2 0) ∧ decode 0xA6529140 = .ok (.vxor 18 18 18 0 0) ∧ decode 0xC1299048 = .ok (.fdiv 18 38 16 1 0) ∧
  decode 0xE0002100 = .ok (.trap 0x21 0) ∧ decode 0xE0900918 = .ok (.srr 9 9 0) ∧ decode 0xE4024318 = .ok (.tlbi 9 3 0)

/-! ## Integer and control instructions -/

/-- R52, R53, R56: a HINT word of kind 0 to 4 joins the run of its group and changes nothing else; a HINT word of kind 8 to 15 has
no effect. R49, R291, R292, R294: branches, calls and LOOP transfer to the word's own address plus four times the
displacement, or go on behind the group; a call writes the address after the group to g63. R293, R61: JR and RET go to bits
[31:0] of the register; JR links. A target whose bits [1:0] are not 0 raises ALIGN at the group with the target as its
address, and no link is written. -/
def Obligations.ControlResults : Prop :=
  (∀ (s : State), s.seated = true →
    (∀ e v w l, exec (.cachex e v w l) s = .next { s with run := s.run ++ [encode (.cachex e v w l)] }) ∧
    (∀ c, exec (.scopex c) s = .next { s with run := s.run ++ [encode (.scopex c)] }) ∧
    (∀ o c d, exec (.prefx o c d) s = .next { s with run := s.run ++ [encode (.prefx o c d)] }) ∧
    (∀ e, exec (.immx e) s = .next { s with run := s.run ++ [encode (.immx e)] }) ∧
    (∀ m, exec (.rndx m) s = .next { s with run := s.run ++ [encode (.rndx m)] }) ∧
    (∀ k x, Passes s (.ignoredHint k x))) ∧
  (∀ (q : BitVec 3) (d : BitVec 22) (c : BitVec 6) (i : BitVec 17) (p : BitVec 3) (s : State),
    let goal := s.target + d.signExtend 32 * 4
    let linked := (s.me).wg 63 (s.after.setWidth 64)
    let n := (s.me).rg c - 1
    (s.seated = true →
      (if (s.me).rp q then Transfers s (.br q d) s.me goal else Passes s (.br q d)) ∧
      (if (s.me).rp q then Passes s (.brn q d) else Transfers s (.brn q d) s.me goal) ∧
      (if (s.me).rp q then Transfers s (.call q d) linked goal else Passes s (.call q d)) ∧
      (if (s.me).rp q then Passes s (.calln q d) else Transfers s (.calln q d) linked goal)) ∧
    (Executes s p →
      if n = 0 then Sets s (.loop c i p) ((s.me).wg c n)
      else Transfers s (.loop c i p) ((s.me).wg c n) (s.target + i.signExtend 32 * 4))) ∧
  (∀ (d a : BitVec 6) (p : BitVec 3) (s : State), Executes s p →
    let t : BitVec 32 := ((s.me).rg a).setWidth 32
    let u : BitVec 32 := ((s.me).rg 63).setWidth 32
    (if t.toNat % 4 = 0 then Transfers s (.jr d a p) ((s.me).wg d (s.after.setWidth 64)) t
      else exec (.jr d a p) s = .next (s.raise ⟨0x04, 0, t.setWidth 64, false, 0⟩)) ∧
    (if u.toNat % 4 = 0 then Transfers s (.ret p) s.me u
      else exec (.ret p) s = .next (s.raise ⟨0x04, 0, u.setWidth 64, false, 0⟩)))

/-- R281: the 64-bit results and, for .W, the 32-bit results sign-extended; sources are read before the destination is written.
R282: division truncates towards zero and the remainder has the sign of the dividend; a divisor of 0 gives all ones and the
dividend; no division faults. -/
def Obligations.IntegerResults : Prop :=
  (∀ (d a b : BitVec 6) (p : BitVec 3) (s : State), Executes s p →
    let x := (s.me).rg a
    let y := (s.me).rg b
    let x32 : BitVec 32 := x.setWidth 32
    let y32 : BitVec 32 := y.setWidth 32
    let put := fun v => (s.me).wg d v
    Sets s (.addD d a b p) (put (x + y)) ∧ Sets s (.addW d a b p) (put ((x32 + y32).signExtend 64)) ∧
    Sets s (.subD d a b p) (put (x - y)) ∧ Sets s (.subW d a b p) (put ((x32 - y32).signExtend 64)) ∧
    Sets s (.mulD d a b p) (put (x * y)) ∧ Sets s (.mulW d a b p) (put ((x32 * y32).signExtend 64)) ∧
    Sets s (.mulh d a b p) (put (BitVec.ofInt 64 (x.toInt * y.toInt / 2 ^ 64))) ∧
    Sets s (.mulhn d a b p) (put (BitVec.ofNat 64 (x.toNat * y.toNat / 2 ^ 64))) ∧
    Sets s (.min d a b p) (put (if x.toInt < y.toInt then x else y)) ∧
    Sets s (.max d a b p) (put (if x.toInt < y.toInt then y else x)) ∧
    Sets s (.minn d a b p) (put (if x.toNat < y.toNat then x else y)) ∧
    Sets s (.maxn d a b p) (put (if x.toNat < y.toNat then y else x)) ∧
    Sets s (.and d a b p) (put (x &&& y)) ∧ Sets s (.or d a b p) (put (x ||| y)) ∧ Sets s (.xor d a b p) (put (x ^^^ y)) ∧
    Sets s (.andn d a b p) (put (x &&& ~~~y))) ∧
  (∀ (d a b : BitVec 6) (p : BitVec 3) (s : State), Executes s p →
    let x := (s.me).rg a
    let y := (s.me).rg b
    let x32 : BitVec 32 := x.setWidth 32
    let y32 : BitVec 32 := y.setWidth 32
    let put := fun v => (s.me).wg d v
    Sets s (.divD d a b p) (put (if y = 0 then BitVec.allOnes 64 else BitVec.ofInt 64 (x.toInt.tdiv y.toInt))) ∧
    Sets s (.remD d a b p) (put (if y = 0 then x else BitVec.ofInt 64 (x.toInt.tmod y.toInt))) ∧
    Sets s (.divnD d a b p) (put (if y = 0 then BitVec.allOnes 64 else BitVec.ofNat 64 (x.toNat / y.toNat))) ∧
    Sets s (.remnD d a b p) (put (if y = 0 then x else BitVec.ofNat 64 (x.toNat % y.toNat))) ∧
    Sets s (.divW d a b p)
      (put ((if y32 = 0 then BitVec.allOnes 32 else BitVec.ofInt 32 (x32.toInt.tdiv y32.toInt)).signExtend 64)) ∧
    Sets s (.remW d a b p) (put ((if y32 = 0 then x32 else BitVec.ofInt 32 (x32.toInt.tmod y32.toInt)).signExtend 64)) ∧
    Sets s (.divnW d a b p)
      (put ((if y32 = 0 then BitVec.allOnes 32 else BitVec.ofNat 32 (x32.toNat / y32.toNat)).signExtend 64)) ∧
    Sets s (.remnW d a b p) (put ((if y32 = 0 then x32 else BitVec.ofNat 32 (x32.toNat % y32.toNat)).signExtend 64)))

/-- R283, R284, R285: shifts by bits [5:0] of the count, bit-field extract and insert, the bit select, absolute value, leading
zeros and the number of set bits. The bit-field and bit-count results are stated bit by bit. -/
def Obligations.BitResults : Prop :=
  ∀ (d a b : BitVec 6) (p : BitVec 3) (s : State), Executes s p →
    let x := (s.me).rg a
    let y := (s.me).rg b
    let old := (s.me).rg d
    let x32 : BitVec 32 := x.setWidth 32
    let n := y.toNat % 64
    let w := min (y.toNat / 256 % 128) 64
    let put := fun v => (s.me).wg d v
    Sets s (.shl d a b p) (put (x <<< n)) ∧ Sets s (.shr d a b p) (put (x >>> n)) ∧
    Sets s (.sra d a b p) (put (x.sshiftRight n)) ∧ Sets s (.rot d a b p) (put (x.rotateLeft n)) ∧
    Sets s (.sel d a b p) (put ((x &&& old) ||| (y &&& ~~~old))) ∧
    (∃ v, Sets s (.bext d a b p) (put v) ∧ ∀ i, v.getLsbD i = (decide (i < w) && x.getLsbD (n + i))) ∧
    (∃ v, Sets s (.bins d a b p) (put v) ∧ ∀ i, i < 64 →
      v.getLsbD i = if n ≤ i ∧ i < n + w then x.getLsbD (i - n) else old.getLsbD i) ∧
    Sets s (.absD d a p) (put (if x.toInt < 0 then -x else x)) ∧
    Sets s (.absW d a p) (put ((if x32.toInt < 0 then -x32 else x32).signExtend 64)) ∧
    (∃ c, c ≤ 64 ∧ Sets s (.clzD d a p) (put (BitVec.ofNat 64 c)) ∧
      (∀ i, 64 - c ≤ i → x.getLsbD i = false) ∧ (c < 64 → x.getLsbD (63 - c) = true)) ∧
    (∃ c, c ≤ 32 ∧ Sets s (.clzW d a p) (put (BitVec.ofNat 64 c)) ∧
      (∀ i, 32 - c ≤ i → x32.getLsbD i = false) ∧ (c < 32 → x32.getLsbD (31 - c) = true)) ∧
    Sets s (.popcD d a p) (put (BitVec.ofNat 64 ((List.range 64).filter (fun i => x.getLsbD i)).length)) ∧
    Sets s (.popcW d a p) (put (BitVec.ofNat 64 ((List.range 32).filter (fun i => x.getLsbD i)).length))

/-- R48, R286, R287, R290: the immediate forms; the immediate is extended by the IMMX words of the run, else sign-extended. R288,
R289: comparisons and predicate arithmetic write one predicate; p0 takes no write. The conditions 0 to 5 are EQ, NE, LT, LTN,
LE, LEN. -/
def Obligations.ImmediateResults : Prop :=
  (∀ (d a : BitVec 6) (i : BitVec 11) (m : BitVec 17) (c : BitVec 6) (p : BitVec 3) (s : State), Executes s p →
    let x := (s.me).rg a
    let x32 : BitVec 32 := x.setWidth 32
    let n := c.toNat
    let put := fun v => (s.me).wg d v
    (s.run = [] → s.imm i = i.signExtend 64 ∧ s.imm m = m.signExtend 64) ∧
    Sets s (.addi d a i p) (put (x + s.imm i)) ∧ Sets s (.andi d a i p) (put (x &&& s.imm i)) ∧
    Sets s (.ori d a i p) (put (x ||| s.imm i)) ∧ Sets s (.xori d a i p) (put (x ^^^ s.imm i)) ∧
    Sets s (.movi d m p) (put (s.imm m)) ∧
    Sets s (.shli d a 0 c p) (put (x <<< n)) ∧ Sets s (.shli d a 1 c p) (put ((x32 <<< n).signExtend 64)) ∧
    Sets s (.shri d a 0 c p) (put (x >>> n)) ∧ Sets s (.shri d a 1 c p) (put ((x32 >>> n).signExtend 64)) ∧
    Sets s (.srai d a 0 c p) (put (x.sshiftRight n)) ∧ Sets s (.srai d a 1 c p) (put ((x32.sshiftRight n).signExtend 64)) ∧
    Sets s (.roti d a 0 c p) (put (x.rotateLeft n)) ∧ Sets s (.roti d a 1 c p) (put ((x32.rotateLeft n).signExtend 64))) ∧
  (∀ (d e f : BitVec 3) (a b : BitVec 6) (i : BitVec 11) (p : BitVec 3) (s : State), Executes s p →
    let x := (s.me).rg a
    let y := (s.me).rg b
    let x32 : BitVec 32 := x.setWidth 32
    let y32 : BitVec 32 := y.setWidth 32
    let z := s.imm i
    let put := fun v => (s.me).wp d v
    Sets s (.cmp d 0 a b 0 p) (put (decide (x = y))) ∧ Sets s (.cmp d 1 a b 0 p) (put (decide (x ≠ y))) ∧
    Sets s (.cmp d 2 a b 0 p) (put (decide (x.toInt < y.toInt))) ∧ Sets s (.cmp d 3 a b 0 p) (put (decide (x.toNat < y.toNat))) ∧
    Sets s (.cmp d 4 a b 0 p) (put (decide (x.toInt ≤ y.toInt))) ∧ Sets s (.cmp d 5 a b 0 p) (put (decide (x.toNat ≤ y.toNat))) ∧
    Sets s (.cmp d 0 a b 1 p) (put (decide (x32 = y32))) ∧ Sets s (.cmp d 1 a b 1 p) (put (decide (x32 ≠ y32))) ∧
    Sets s (.cmp d 2 a b 1 p) (put (decide (x32.toInt < y32.toInt))) ∧
    Sets s (.cmp d 3 a b 1 p) (put (decide (x32.toNat < y32.toNat))) ∧
    Sets s (.cmp d 4 a b 1 p) (put (decide (x32.toInt ≤ y32.toInt))) ∧
    Sets s (.cmp d 5 a b 1 p) (put (decide (x32.toNat ≤ y32.toNat))) ∧
    Sets s (.cmpi d 0 a i p) (put (decide (x = z))) ∧ Sets s (.cmpi d 1 a i p) (put (decide (x ≠ z))) ∧
    Sets s (.cmpi d 2 a i p) (put (decide (x.toInt < z.toInt))) ∧ Sets s (.cmpi d 3 a i p) (put (decide (x.toNat < z.toNat))) ∧
    Sets s (.cmpi d 4 a i p) (put (decide (x.toInt ≤ z.toInt))) ∧ Sets s (.cmpi d 5 a i p) (put (decide (x.toNat ≤ z.toNat))) ∧
    Sets s (.pand d e f p) (put ((s.me).rp e && (s.me).rp f)) ∧ Sets s (.por d e f p) (put ((s.me).rp e || (s.me).rp f)) ∧
    Sets s (.pxor d e f p) (put (Bool.xor ((s.me).rp e) ((s.me).rp f))) ∧
    Sets s (.pnot d e p) (put (!(s.me).rp e)) ∧ Sets s (.pmov d e p) (put ((s.me).rp e)))

/-! ## Loads, stores and atomics -/

/-- R301, R304, R305, R307: a load that passes its checks writes the bytes it read, the lowest address in the lowest bits, zero- or
sign-extended. The address is row.g[ra] plus the immediate times the access size, or row.g[ra] + row.g[rb]; `s1` is the state
that the access leaves; no prefetch that the word carries waits for a walk first (R60, R178). R301: a scalar or 16-byte access whose address is no multiple of its size raises ALIGN with the
address, WRITE set for a store, and does nothing else. -/
def Obligations.LoadResults : Prop :=
  (∀ (t a b : BitVec 6) (v : BitVec 5) (i : BitVec 11) (p : BitVec 3) (s s1 : State) (bs : List Byte), Executes s p →
    let reads := fun (va : DWord) n => s.prefxWaits va = .ok () s ∧ (s.prefx va).rowLoad s.cache va n = .ok bs s1
    let at_ := fun n => (s.me).rg a + s.imm i * BitVec.ofNat 64 n
    let x := (s.me).rg a + (s.me).rg b
    let u := bytesToNat bs
    (reads (at_ 1) 1 → SetsAfter s s1 (.ldb t a i p) ((s1.me).wg t (BitVec.ofNat 64 u))) ∧
    (reads (at_ 2) 2 → SetsAfter s s1 (.ldh t a i p) ((s1.me).wg t (BitVec.ofNat 64 u))) ∧
    (reads (at_ 4) 4 → SetsAfter s s1 (.ldw t a i p) ((s1.me).wg t (BitVec.ofNat 64 u))) ∧
    (reads (at_ 8) 8 → SetsAfter s s1 (.ldd t a i p) ((s1.me).wg t (BitVec.ofNat 64 u))) ∧
    (reads (at_ 16) 16 → SetsAfter s s1 (.ldv v a i p) ((s1.me).wv v (BitVec.ofNat 128 u))) ∧
    (reads x 1 → SetsAfter s s1 (.ldbs t a b p) ((s1.me).wg t ((BitVec.ofNat 8 u).signExtend 64))) ∧
    (reads x 2 → SetsAfter s s1 (.ldhs t a b p) ((s1.me).wg t ((BitVec.ofNat 16 u).signExtend 64))) ∧
    (reads x 4 → SetsAfter s s1 (.ldws t a b p) ((s1.me).wg t ((BitVec.ofNat 32 u).signExtend 64)))) ∧
  (∀ (t a b : BitVec 6) (v : BitVec 5) (i : BitVec 11) (p : BitVec 3) (s : State), Executes s p →
    let at_ := fun n => (s.me).rg a + s.imm i * BitVec.ofNat 64 n
    let x := (s.me).rg a + (s.me).rg b
    let traps := fun j (va : DWord) w => exec j s = .next (s.raise ⟨0x04, 0, va, w, 0⟩)
    ((at_ 2).toNat % 2 ≠ 0 → traps (.ldh t a i p) (at_ 2) false ∧ traps (.sth t a i p) (at_ 2) true) ∧
    ((at_ 4).toNat % 4 ≠ 0 → traps (.ldw t a i p) (at_ 4) false ∧ traps (.stw t a i p) (at_ 4) true) ∧
    ((at_ 8).toNat % 8 ≠ 0 → traps (.ldd t a i p) (at_ 8) false ∧ traps (.std t a i p) (at_ 8) true) ∧
    ((at_ 16).toNat % 16 ≠ 0 → traps (.ldv v a i p) (at_ 16) false ∧ traps (.stv v a i p) (at_ 16) true) ∧
    (x.toNat % 2 ≠ 0 → traps (.ldhs t a b p) x false) ∧ (x.toNat % 4 ≠ 0 → traps (.ldws t a b p) x false))

/-- R301, R304, R305: a store that passes its checks sends the low bytes of its register, lowest first, and no register changes;
`s1` is the state behind the access. R310: LWD and SWD move 8 bytes of the row itself at eight times the field. -/
def Obligations.StoreResults : Prop :=
  (∀ (t a : BitVec 6) (v : BitVec 5) (i : BitVec 11) (p : BitVec 3) (s s1 : State), Executes s p →
    let writes := fun (n : Nat) (x : Nat) => s.rowStore s.cache ((s.me).rg a + s.imm i * BitVec.ofNat 64 n) (natToBytes n x) = .ok () s1
    let g := ((s.me).rg t).toNat
    (writes 1 g → SetsAfter s s1 (.stb t a i p) s1.me) ∧ (writes 2 g → SetsAfter s s1 (.sth t a i p) s1.me) ∧
    (writes 4 g → SetsAfter s s1 (.stw t a i p) s1.me) ∧ (writes 8 g → SetsAfter s s1 (.std t a i p) s1.me) ∧
    (writes 16 ((s.me).rv v).toNat → SetsAfter s s1 (.stv v a i p) s1.me)) ∧
  (∀ (d : BitVec 6) (o : BitVec 11) (p : BitVec 3) (s : State), Executes s p →
    Sets s (.lwd d o p) ((s.me).wg d (BitVec.ofNat 64 (bytesToNat ((s.me).bytes (8 * o.toNat) 8)))) ∧
    Sets s (.swd d o p) ((s.me).setBytes (8 * o.toNat) (natToBytes 8 ((s.me).rg d).toNat)))

/-- What a store at its home does (R218, R221, R270): where no column caches the line, the bytes of DRAM at the address become the
bytes stored, but for protected bytes (R150, R198); every other byte of DRAM and of host memory reads as before, and no row,
no scratchpad of a column or span and no code changes. What a row stored into a write-back line it reads back (R218): a load of
the bytes stored, through the same column cache, returns them, whatever the home holds, where they lie in no row directory. Where no
other column caches the line, and the set of the column's cache has the line or room for it, that store writes nothing but the
column's cache: the bytes of DRAM and of host memory, the rows, the spans and every other column stay as they were (R113).
The model's own choices in it: log entries 14, 61 and 86. -/
def Obligations.StoreEffects : Prop :=
  (∀ (s : State) (w : Who) (a : Agent) (pa q : Nat) (attr : Attr) (h : CacheHint) (data : List Byte),
    MemoryForm s → (∀ c ∈ s.cols, c.2.line (pa / 256) = none) → levelOf attr h ≠ 0 →
    let t := s.storeAt w a (.dram pa) attr h data q
    (∀ x, t.mem.read x = if pa ≤ x ∧ x < pa + data.length ∧ s.homeKeeps x = false then data.getD (x - pa) 0 else s.mem.read x) ∧
    t.host = s.host ∧ t.rows = s.rows ∧ (∀ i, (t.span i).scratch = (s.span i).scratch) ∧
    (∀ i, (t.col i).scratch = (s.col i).scratch ∧ (t.col i).code = (s.col i).code)) ∧
  (∀ (s : State) (site prio pa n : Nat) (data : List Byte),
    data.length = n → pa % 256 + n ≤ 256 → pa % 32 + n ≤ 32 → 0 < n →
    (∀ x, pa ≤ x → x < pa + n → s.dirKeeps x = false) →
    (∀ l, (s.col site).line (pa / 256) = some l → l.data.wf = true ∧ l.bad = []) →
    ∃ u, (s.storeCached site prio pa data).loadCached site prio pa n = .ok data u) ∧
  (∀ (s : State) (site prio pa : Nat) (data : List Byte),
    (∀ c ∈ s.cols, c.1 ≠ site → c.2.line (pa / 256) = none) →
    ((s.col site).line (pa / 256) ≠ none ∨
      ((s.col site).cache.filter (fun l => l.line % 256 == pa / 256 % 256)).length < 12) →
    let t := s.storeCached site prio pa data
    t.mem = s.mem ∧ t.host = s.host ∧ t.rows = s.rows ∧ t.spans = s.spans ∧ (∀ i, i ≠ site → t.col i = s.col i) ∧
    (∃ cache, t.col site = { s.col site with cache := cache }))

/-- R255, R308, R309: a gather, a scatter or a block copy performs its elements or sectors in order from unit PROG on; when all
are done PROG is 0 and the row goes on behind the group. The base of a gather that is gone on with is the one it was issued with. No
prefetch that a loading word carries waits for a walk first (R60, R178). Unit `j` of a gather loads the bytes at the base plus the
sign-extended index lane `j` times the element size, and writes them to lane `j` of the destination alone; that of a scatter stores
lane `j` of its source at such an address; sector `j` of a block copy moves 32 bytes between the memory at the base plus 32 `j` and the
row's own bytes at the working-data offset plus 32 `j`. -/
def Obligations.ProgressiveResults : Prop :=
  (∀ (size j w k : Nat) (d : BitVec 5) (base : DWord) (idx src : VWord) (x y : State) (bs : List Byte),
    let va := base + (idx.extractLsb' (8 * size * j) (8 * size)).signExtend 64 * BitVec.ofNat 64 size
    let sector := base + BitVec.ofNat 64 (32 * j)
    (x.rowLoad x.cache va size = .ok bs y → 8 * size * (j + 1) ≤ 128 → ∃ v : VWord,
      State.gatherUnit size d base idx j x = .ok () (y.setMe ((y.me).wv d v)) ∧
      (k < 128 → v.getLsbD k = if 8 * size * j ≤ k ∧ k < 8 * size * (j + 1)
        then (BitVec.ofNat (8 * size) (bytesToNat bs)).getLsbD (k - 8 * size * j) else ((y.me).rv d).getLsbD k)) ∧
    State.scatterUnit size src base idx j x =
      x.rowStore x.cache va (natToBytes size (src.extractLsb' (8 * size * j) (8 * size)).toNat) ∧
    (x.rowLoad x.cache sector 32 = .ok bs y →
      State.ldblkUnit base w j x = .ok () (y.setMe ((y.me).setBytes (w + 32 * j) bs))) ∧
    State.stblkUnit base w j x = x.rowStore x.cache sector ((x.me).bytes (w + 32 * j) 32)) ∧
  ∀ (d i : BitVec 5) (w a n : BitVec 6) (p : BitVec 3) (s t : State), Executes s p →
    let base := (s.me).rg a
    let from_ := match (s.me).gbase with | some b => b | none => base
    let len := ((s.me).rg n).toNat
    let wd := ((s.me).rg w).toNat
    let done := fun (x : State) f m => x.units = none ∧ x.me.prog.toNat ≤ m ∧
      UnitsDone f (m - x.me.prog.toNat) x.me.prog.toNat { x with units := none } t
    let ends := fun j => SetsAfter s t j { t.me with prog := 0 }
    let gathered := fun j => SetsAfter s t j { t.me with prog := 0, gbase := none }
    let first := fun size => from_ + ((((s.me).rv i).setWidth (8 * size)).signExtend 64) * BitVec.ofNat 64 size
    let clear := fun va => s.prefxWaits va = .ok () s
    (from_.toNat % 2 = 0 → clear (first 2) → done (s.prefx (first 2)) (State.gatherUnit 2 d from_ ((s.me).rv i)) 8 →
      gathered (.ldxH d a i p)) ∧
    (from_.toNat % 4 = 0 → clear (first 4) → done (s.prefx (first 4)) (State.gatherUnit 4 d from_ ((s.me).rv i)) 4 →
      gathered (.ldxW d a i p)) ∧
    (from_.toNat % 8 = 0 → clear (first 8) → done (s.prefx (first 8)) (State.gatherUnit 8 d from_ ((s.me).rv i)) 2 →
      gathered (.ldxD d a i p)) ∧
    (base.toNat % 2 = 0 → done s (State.scatterUnit 2 ((s.me).rv d) base ((s.me).rv i)) 8 → ends (.stxH d a i p)) ∧
    (base.toNat % 4 = 0 → done s (State.scatterUnit 4 ((s.me).rv d) base ((s.me).rv i)) 4 → ends (.stxW d a i p)) ∧
    (base.toNat % 8 = 0 → done s (State.scatterUnit 8 ((s.me).rv d) base ((s.me).rv i)) 2 → ends (.stxD d a i p)) ∧
    (base.toNat % 32 = 0 → wd % 32 = 0 → len % 32 = 0 → 0x200 ≤ wd → wd + len ≤ 0x800 →
      (clear base → done (s.prefx base) (State.ldblkUnit base wd) (len / 32) → ends (.ldblk w a n p)) ∧
      (done s (State.stblkUnit base wd) (len / 32) → ends (.stblk w a n p)))

/-- R311, R312: each returning atomic that may be performed at once is performed at its home and completes: ADD, MIN, MAX, AND,
OR, XOR, SWAP, CAS with g(rd + 1) as the new value, and the floating sum; the width field names 8 or 4 bytes. R210, R313,
R314: a queued reduction whose elements pass their checks sends every element to its home and goes on; PEND rises by the number
of elements; where it would pass 64 the group is issued again. R302: a scalar one may leave before its walk ends; it does where
its translation misses and the field `early` of the model is set. Scatter forms take lane j of the source to the base plus the
sign-extended index lane j times the element size.
The model's own choices in it: log entry 7. -/
def Obligations.AtomicResults : Prop :=
  (∀ (d a : BitVec 6) (o : BitVec 2) (w : BitVec 1) (p : BitVec 3) (s s1 : State) (pa : Nat) (attr : Attr), Executes s p →
    let size := if w = 1 then 4 else 8
    AtomFree s s1 ((s.me).rg a) size o pa attr →
    let does := fun i op f32 new => exec i s = .next (atomDone s s1 op size f32 d o new pa attr)
    does (.aadd d a o w p) .add false 0 ∧ does (.amin d a o w p) .min false 0 ∧ does (.amax d a o w p) .max false 0 ∧
    does (.aand d a o w p) .and false 0 ∧ does (.aor d a o w p) .or false 0 ∧ does (.axor d a o w p) .xor false 0 ∧
    does (.aswap d a o w p) .swap false 0 ∧ does (.acas d a o w p) .cas false ((s.me).rg (d + 1)) ∧
    does (.afadd d a o w p) .fadd (decide (w = 1)) 0) ∧
  (∀ (a g : BitVec 6) (v i : BitVec 5) (r w : BitVec 1) (p : BitVec 3) (s t : State) (ls : List (Loc × Attr × DWord)),
    Executes s p →
    let rel := decide (r = 1)
    let scope := s.scope 3
    let size := if w = 1 then 4 else 8
    let one := [((s.me).rg a, (s.me).rg g)]
    let many := fun n => (List.range (16 / n)).map (fun j =>
      ((s.me).rg a + (bits ((s.me).rv i) (8 * n * j) (8 * n)).signExtend 64 * BitVec.ofNat 64 n,
       (bits ((s.me).rv v) (8 * n * j) (8 * n)).setWidth 64))
    let sends := fun j op n es => ((s.me).pend.toNat + es.length ≤ 64 → ElemsAt n es ls s t →
        exec j s = .next (redsSent t op n rel scope ls)) ∧
      (64 < (s.me).pend.toNat + es.length → exec j s = .next s.abandonGroup)
    let sends1 := fun j op n => (s.leavesEarly ((s.me).rg a) = false → sends j op n one) ∧
      ((s.me).pend.toNat + 1 ≤ 64 → aligned ((s.me).rg a).toNat n = true → s.leavesEarly ((s.me).rg a) = true →
        s.earlyMeets s.cur ((s.me).rg a) n = false →
        let u := s.storeEarly (.reduce op rel scope) s.cache ((s.me).rg a) (toBytes n ((s.me).rg g));
        exec j s = .next (u.finish { u.me with pend := u.me.pend + 1 }))
    sends1 (.qadd r a g w p) .add size ∧ sends1 (.qmin r a g w p) .min size ∧ sends1 (.qmax r a g w p) .max size ∧
    sends1 (.qand r a g w p) .and size ∧ sends1 (.qior r a g w p) .or size ∧ sends1 (.qxor r a g w p) .xor size ∧
    sends1 (.qfadd r a g w p) .fadd size ∧ sends1 (.qbf16add r a g p) .bf16add 2 ∧
    sends (.qaddx v r a i w p) .add size (many size) ∧ sends (.qminx v r a i w p) .min size (many size) ∧
    sends (.qmaxx v r a i w p) .max size (many size) ∧ sends (.qandx v r a i w p) .and size (many size) ∧
    sends (.qiorx v r a i w p) .or size (many size) ∧ sends (.qxorx v r a i w p) .xor size (many size) ∧
    sends (.qfaddx v r a i w p) .fadd size (many size) ∧ sends (.qbf16addx v r a i p) .bf16add 2 (many 2))

/-- R228, R312: what a relaxed atomic does at its home, where no column caches the line: the row's register receives the old
value, sign-extended from 4 bytes; the location receives the operation's value, unless an ACAS fails; every other byte of DRAM
reads as before. -/
def Obligations.AtomicEffect : Prop :=
  ∀ (s : State) (k : RowKey) (site pa size : Nat) (op : AOp) (v new : DWord) (d : BitVec 6) (keep : Keep), MemoryForm s →
    (∀ c ∈ s.cols, c.2.line (pa / 256) = none) → (size = 4 ∨ size = 8) → (∀ x, pa ≤ x → x < pa + size → s.homeKeeps x = false) →
    let old := BitVec.ofNat (8 * size) (bytesToNat (s.mem.readBytes pa size))
    let t := s.atomDo k site op size false pa v new d false false 3 none keep
    (t.row k).rg d = (if d = 0 then 0 else if size = 8 then old.setWidth 64 else old.signExtend 64) ∧
    (∀ x, t.mem.read x = if pa ≤ x ∧ x < pa + size then
        match op.apply old (v.setWidth (8 * size)) (new.setWidth (8 * size)) with
        | some y => BitVec.ofNat 8 (y.toNat / 256 ^ (x - pa))
        | none => s.mem.read x
      else s.mem.read x) ∧
    (∀ x y : BitVec (8 * size), AOp.apply .add x y 0 = some (x + y) ∧ AOp.apply .swap x y 0 = some y ∧
      AOp.apply .min x y 0 = some (if x.toInt < y.toInt then x else y) ∧
      AOp.apply .max x y 0 = some (if x.toInt < y.toInt then y else x) ∧
      AOp.apply .and x y 0 = some (x &&& y) ∧ AOp.apply .or x y 0 = some (x ||| y) ∧ AOp.apply .xor x y 0 = some (x ^^^ y))

/-- R315: LDFE reads a full word and leaves it empty; on an empty word the row waits with WAITON 4 while the span has one of its
512 deferral entries free, else the predicate is 0. LDF reads the word and its bit and changes nothing. STFE is refused on a
full word and accepted on an empty one: its eight bytes are written, but for protected ones (R150), and the word is full; where a row
waits for it, the first deferral entry of the word becomes an answer with the word's value, and the word is empty again. SETE
empties the bit and keeps the value. R224: what changes the bit of a word of another field takes that field's departure number. -/
def Obligations.FullEmptyResults : Prop :=
  ∀ (d a : BitVec 6) (q p : BitVec 3) (s s1 : State) (pa : Nat) (keep : Keep), Executes s p →
    s.feAccess ((s.me).rg a) = .ok (pa, keep) s1 →
    let w := ((s1.setFull pa false).depart s1.myField (homeField pa) true).1
    let s2 := acquired w (s1.scope 3) pa
    (s.releasing s.cur = false →
      (s1.full pa = true → SetsAfter s s2 (.ldfe d a q p) ((s2.me.wg d (s1.mem64 pa)).wp q true)) ∧
      (s1.full pa = false → 512 ≤ (s1.span (homeSpan pa)).defers.length → SetsAfter s s1 (.ldfe d a q p) (s1.me.wp q false)) ∧
      (s1.full pa = false → (s1.span (homeSpan pa)).defers.length < 512 → ∃ t, exec (.ldfe d a q p) s = .next t ∧
        t.me.st = .waiting ∧ t.me.waiton = 4 ∧ t.me.pc = s1.me.pc ∧
        (t.span (homeSpan pa)).defers.length = (s1.span (homeSpan pa)).defers.length + 1)) ∧
    SetsAfter s s1 (.ldf d a q p) ((s1.me.wg d (s1.mem64 pa)).wp q (s1.full pa)) ∧
    (let u := released s1 true (s.scope 3)
      let vec := u.scopeVec (s.scope 3)
      let h := u.stfeHome u.here pa ((s.me).rg d) vec keep
      let v := if h.1 then (h.2.depart h.2.myField (homeField pa) true).1 else h.2
      (u.mayRelease (homeField pa) vec = true → exec (.stfe d a q p) s = .next (v.finish (v.me.wp q h.1))) ∧
      (u.full pa = true → h = (false, u)) ∧
      (u.full pa = false →
        let x := u.atHome u.here pa
        let l := (u.span (homeSpan pa)).defers
        h.1 = true ∧
        (x.mem.wf = true → ∀ b, h.2.mem.read b = if pa ≤ b ∧ b < pa + 8 ∧ x.homeKeeps b = false
          then (natToBytes 8 ((s.me).rg d).toNat).getD (b - pa) 0 else x.mem.read b) ∧
        (l.find? (fun e => e.pa == pa) = none → h.2.full pa = true ∧ h.2.ldfeAns = u.ldfeAns ∧ (h.2.span (homeSpan pa)).defers = l) ∧
        (∀ e, l.find? (fun e => e.pa == pa) = some e → h.2.full pa = false ∧ (h.2.span (homeSpan pa)).defers = l.erase e ∧
          h.2.ldfeAns = u.ldfeAns ++ [⟨e.row, pa, h.2.mem64 pa, e.rd, e.pd, e.scope, e.next, vec⟩]))) ∧
    SetsAfter s w (.sete a p) w.me

/-- R217, R222, R223, R316: FENCE.ROW orders nothing; a wider FENCE completes once every earlier store of the row has performed,
with what the column holds dirty of other fields' lines written back, at WAFER and SYSTEM scope with those lines dropped; an acquire load writes what it read; a
release store that may leave completes.
The model's own choices in it: log entry 59. -/
def Obligations.OrderingResults : Prop :=
  ∀ (d a : BitVec 6) (c p : BitVec 3) (s s1 : State) (bs : List Byte), Executes s p →
    let u := s.releaseFar s.here
    let reads := fun n => s.rowAcquire s.cache (s.scope 3) ((s.me).rg a) n = .ok bs s1
    let writes := fun n => s.rowRelease s.cache (s.scope 3) ((s.me).rg a) (natToBytes n ((s.me).rg d).toNat) = .ok () s1
    Passes s (.fence 0 p) ∧ (s.sending = false → SetsAfter s u (.fence 1 p) u.me ∧ SetsAfter s u (.fence 2 p) u.me) ∧
    (s.sending = false → 3 ≤ c.toNat → (∀ g < 12, covers (u.field g).fav (u.releaseVec u.cur u.myField) = true) →
      exec (.fence c p) s = .next (u.acquireFar u.here).advance) ∧
    (reads 8 → SetsAfter s s1 (.ldaD d a p) (s1.me.wg d (BitVec.ofNat 64 (bytesToNat bs)))) ∧
    (reads 4 → SetsAfter s s1 (.ldaW d a p) (s1.me.wg d (BitVec.ofNat 64 (bytesToNat bs)))) ∧
    (writes 8 → SetsAfter s s1 (.stlD d a p) s1.me) ∧ (writes 4 → SetsAfter s s1 (.stlW d a p) s1.me)

/-! ## Rows, channels, sends and launches -/

/-- R245, R320: CLOSE closes the row, which is READY from now on with WAITON 0 and PC behind the group; YIELD does the same with
WAITON 7 where another row could take its place, and else only goes on. R322: a HALT of a row that owns a place raises
HOLD_HANDLE; one that finds an accepted job incomplete waits with WAITON 3; one that finds PEND above 0 is issued again; else
the row retires: its monitors are withdrawn, its state is RETIRED, or FREE where its launch has completed or never existed,
its registers keep their values, and its decrements are on their way. -/
def Obligations.ClosingResults : Prop :=
  (∀ (p : BitVec 3) (s : State), Executes s p →
    let closes := fun i (on : BitVec 32) => ∃ t, exec i s = .next t ∧ t.me.st = .ready ∧ t.me.waiton = on ∧
      t.me.pc = s.after &&& ~~~3#32 ∧ t.me.readyAt = s.time ∧ (t.me).g = (s.me).g ∧ t.run = [] ∧ t.mem = s.mem ∧
      (∀ k, k ≠ s.cur → t.row k = s.row k) ∧ t.tens = s.tens ∧ t.spans = s.spans ∧ t.fields = s.fields
    closes (.close p) 0 ∧ (if s.couldTake s.cur then closes (.yield p) 7 else Passes s (.yield p))) ∧
  (∀ (p : BitVec 3) (s : State), Executes s p →
    (s.placeSpans s.cur ≠ [] → exec (.halt p) s = .next (s.raise ⟨0x09, 0, 0, false, 0⟩)) ∧
    (s.placeSpans s.cur = [] → (s.me).jobRunning = true → ∃ t, exec (.halt p) s = .next t ∧ t.me.st = .waiting ∧
      t.me.waiton = 3 ∧ t.me.pc = (s.me).pc ∧ t.run = []) ∧
    (s.placeSpans s.cur = [] → (s.me).jobRunning = false → (s.me).pendingFault = none →
      ((s.me).pend ≠ 0 → exec (.halt p) s = .next s.abandonGroup) ∧
      ((s.me).pend = 0 → (s.me).early = [] → (s.me).replay = [] → ∃ t, exec (.halt p) s = .next t ∧
        t.me.st = (if s.liveLaunch s.cur.t (s.me).launch then .retired else .free) ∧ t.me.g = (s.me).g ∧ t.me.pc = (s.me).pc ∧
        (∀ i : Fin 4, t.me.mon[i] = ⟨0, false⟩) ∧
        t.retires = s.retires ++ [⟨s.cur, (s.me).countCol, (s.me).launch, (s.me).join, (s.me).priv⟩] ∧
        t.mem = s.mem ∧ (∀ k, k ≠ s.cur → t.row k = s.row k))))

/-- R324, R326, R328: ARM takes the monitor that holds the line, else the lowest without one, and clears its predicate where all
four are in use; DISARM clears one monitor or, with 4, all; a firing of such a monitor that is still on its way is withdrawn; WAITM goes on where no monitor has a line or one has fired, and
else waits with WAITON 1. -/
def Obligations.MonitorResults : Prop :=
  ∀ (q p : BitVec 3) (a k : BitVec 6) (s s1 : State) (pa : Nat) (attr : Attr), Executes s p →
    let va := (s.me).rg a
    let line : BitVec 40 := bits va 8 40
    (s.check s.who .load va 1 = .ok (.dram pa, attr) s1 →
      match s1.me.monFor line with
      | none => SetsAfter s s1 (.arm q a p) (s1.me.wp q false)
      | some i => SetsAfter s (s1.withdraw s1.cur (· == i.val)) (.arm q a p)
          ({ s1.me with mon := s1.me.mon.set i ⟨line, true⟩, monPa := s1.me.monPa.set i (pa / 256) }.wp q true)) ∧
    (∀ (x : State) (k : RowKey) (b : Nat → Bool),
      x.withdraw k b = { x with fires := x.fires.filter (fun f => !(f.row == k && b f.k.toNat)) }) ∧
    (∃ r, SetsAfter s (s.withdraw s.cur (fun j => k.toNat == 4 || k.toNat == j)) (.disarm k p) r ∧ (∀ i : Fin 4, r.mon[i] =
        if k.toNat = 4 ∨ k.toNat = i.val then ⟨0, false⟩ else (s.me).mon[i]) ∧
      { r with mon := (s.me).mon, monPa := (s.me).monPa } = s.me) ∧
    (if (s.me).monNone ∨ (s.me).monFired ∨ s.firing then Passes s (.waitm p)
      else ∃ t, exec (.waitm p) s = .next t ∧ t.me.st = .waiting ∧ t.me.waiton = 1 ∧ t.me.pc = (s.me).pc ∧ t.run = [])

/-- R330: SPAWN to the issuing row's own column, or to a column index of the grid, sends one message with the child's PC (bits
[1:0] cleared), g1 to g8 as they are, the launch and the counting column, and the row awaits the answer; an index at or above
NCOLS is bounced: the predicate is 0 and nothing is sent. R210, R332, R258: MIGR to the row's own column moves nothing, and goes on
once PEND is 0; to another
column the row becomes MOVING with PC behind the group and its slot is released, once PEND is 0 and its stores and jobs are
done, but for what is to be made for it at the target; until then the group is issued again. R334: STEPX of an id that the row directory does not hold raises PAGE, subcode 3, with the id as the address. Of a row
that is neither STOPPED nor MOVING it answers STEPPED 0 with the row's PC and state. A STOPPED row is made READY for one
group, and the issuing row awaits the answer.
The model's own choices in it: log entries 41 and 91. -/
def Obligations.SpawnResults : Prop :=
  (∀ (q p : BitVec 3) (c : BitVec 6) (s : State), Executes s p →
    let v := (s.me).rg c
    let idx := (bits v 32 16).toNat
    let grid := s.gridOf s.cur
    let sends := fun (target : BitVec 10) => ∃ t m, exec (.spawn q c 0 p) s = .next t ∧ t.spawns = s.spawns ++ [m] ∧
      m.pc = bits v 0 32 &&& ~~~3#32 ∧ m.target = target ∧ m.tenant = s.cur.t ∧ m.lnch = (s.me).launch ∧
      m.ccol = (s.me).countCol ∧ m.join = 0 ∧ m.args = [1, 2, 3, 4, 5, 6, 7, 8].map (s.me).rg ∧
      t.me.await = some s.after ∧ t.me.g = (s.me).g
    (bit v 48 = true → sends s.seat.site) ∧
    (bit v 48 = false → idx < grid.length → sends (grid.getD idx 0)) ∧
    (bit v 48 = false → grid.length ≤ idx → Sets s (.spawn q c 0 p) ((s.me).wp q false))) ∧
  (∀ (a : BitVec 6) (p : BitVec 3) (s s1 : State) (pa : Nat) (attr : Attr), Executes s p →
    s.check s.who .load ((s.me).rg a) 1 = .ok (.dram pa, attr) s1 →
    (paSlot pa = s1.here → (s1.me.pend = 0 → SetsAfter s s1 (.migr a p) s1.me) ∧
      (s1.me.pend ≠ 0 → exec (.migr a p) s = .next s1.abandonGroup)) ∧
    (s1.me.pend = 0 → s1.me.early = [] → s1.me.jobRunning = false → s1.inFlight s1.cur = [] → s1.moveWaits = false) ∧
    (paSlot pa ≠ s1.here → s1.moveWaits = true → exec (.migr a p) s = .next s1.abandonGroup) ∧
    (paSlot pa ≠ s1.here → s1.moveWaits = false → ∃ t, exec (.migr a p) s = .next t ∧ t.me.st = .moving ∧ t.me.pc = s1.after &&& ~~~3#32 ∧
        t.me.move = some (BitVec.ofNat 10 (paSlot pa)) ∧ (∀ i : Fin 4, t.me.mon[i].armed = false))) ∧
  (∀ (d g : BitVec 6) (p : BitVec 3) (s : State), Executes s p →
    let id : BitVec 32 := bits ((s.me).rg g) 0 32
    let k : RowKey := ⟨s.cur.t, id⟩
    let r := s.row k
    (s.held k = false → exec (.stepx d g p) s = .next (s.raise ⟨0x05, 3, id.setWidth 64, false, 0⟩)) ∧
    (s.held k = true → s.sending = false →
      s.inTransit k = false → r.stepper = none →
      (r.st ≠ .stopped → r.st ≠ .moving → Sets s (.stepx d g p)
        ((s.me).wg d (BitVec.ofNat 64 (r.pc.toNat + 2 ^ 32 * r.st.code)))) ∧
      (r.st = .stopped → k ≠ s.cur → ∃ t, exec (.stepx d g p) s = .next t ∧ (t.row k).st = .ready ∧ (t.row k).stepping = true ∧
        (t.row k).stepper = some (s.cur, d) ∧ t.me.await = some s.after)))

/-- R131, R133, R322: a push to the row's own channel writes the value at TAIL of the channel's ring, with its control bit, and
raises COUNT, once the row's earlier writes have performed and no push of it is on its way; a full ring clears the predicate and
nothing else. R132, R133, R135, R322: QPOP takes the entry at HEAD, and of
a control entry enters the tail handler with TAILPC the continuation; an empty channel clears the predicate. QPEEK reads the
head and changes no channel; QCNT gives the state word. R338: TAILRET returns to TAILPC and clears its ACTIVE bit; with ACTIVE
0 it raises CHANNEL_BIND.
The model's own choices in it: log entry 45. -/
def Obligations.ChannelResults : Prop :=
  (∀ (g : BitVec 6) (c : BitVec 4) (q p : BitVec 3) (s : State), Executes s p → s.chanRef c 0 = some s.here →
    s.releaseWaits = false → (∀ m ∈ s.pushes, m.row ≠ s.cur) →
    let x := s.chan s.here c
    let pushes := fun i (ctl : Bool) => ∃ t, exec i s = .next t ∧ t.me = { (s.me).wp q true with pc := s.after &&& ~~~3#32, inGroup := false } ∧
      (t.chan s.here c).tail = x.tail + 1 ∧ (t.chan s.here c).head = x.head ∧ (t.chan s.here c).count = x.count + 1 ∧
      bit (t.chan s.here c).ctl x.tail.toNat = ctl ∧
      (t.col s.here).scratch = (s.col s.here).scratch.writeBytes (0x20000 + 0x1000 * c.toNat + 8 * x.tail.toNat)
        (natToBytes 8 ((s.me).rg g).toNat) ∧ t.mem = s.mem ∧ (∀ k, k ≠ s.cur → t.row k = s.row k)
    (x.count.toNat < 512 → pushes (.qpush g c q 0 p) false ∧ pushes (.qpushc g c q 0 p) true) ∧
    (512 ≤ x.count.toNat → Sets s (.qpush g c q 0 p) ((s.me).wp q false) ∧ Sets s (.qpushc g c q 0 p) ((s.me).wp q false))) ∧
  (∀ (d : BitVec 6) (c : BitVec 4) (q p : BitVec 3) (s : State), Executes s p → s.chanRef c 0 = some s.here →
    let x := s.chan s.here c
    let v : DWord := BitVec.ofNat 64
      (bytesToNat ((s.col s.here).scratch.readBytes (0x20000 + 0x1000 * c.toNat + 8 * x.head.toNat) 8))
    let clean := (s.me).early = [] ∧ poisoned (s.col s.here).badScratch (0x20000 + 0x1000 * c.toNat + 8 * x.head.toNat) 8 = false
    Sets s (.qcnt d c p) ((s.me).wg d (x.word.setWidth 64)) ∧
    (x.count = 0 → Sets s (.qpop d c q p) ((s.me).wp q false) ∧ Sets s (.qpeek d c q p) ((s.me).wp q false)) ∧
    (x.count ≠ 0 → clean → Sets s (.qpeek d c q p) (((s.me).wg d v).wp q true)) ∧
    (x.count ≠ 0 → clean → s.releasing s.cur = false →
      (bit x.ctl x.head.toNat = false → ∃ t, exec (.qpop d c q p) s = .next t ∧ (t.chan s.here c).head = x.head + 1 ∧
        (t.chan s.here c).count = x.count - 1 ∧ t.me.pc = s.after &&& ~~~3#32 ∧ t.me.g = (((s.me).wg d v)).g ∧
        t.me.pred = (((s.me).wp q true)).pred) ∧
      (bit x.ctl x.head.toNat = true → bit (s.me).tailpc 0 = false → ∃ t, exec (.qpop d c q p) s = .next t ∧
        t.me.pc = (s.ten s.cur.t).tailvec &&& ~~~3#32 ∧ t.me.tailpc = s.after ||| 1 ∧ t.me.g = (((s.me).wg d v)).g) ∧
      (bit x.ctl x.head.toNat = true → bit (s.me).tailpc 0 = true → Sets s (.qpop d c q p) ((s.me).wp q false)))) ∧
  (∀ (p : BitVec 3) (s : State), Executes s p →
    let x := (s.me).tailpc
    (bit x 0 = true → Transfers s (.tailret p) { s.me with tailpc := x &&& ~~~1#32 } x) ∧
    (bit x 0 = false → exec (.tailret p) s = .next (s.raise ⟨0x0B, 0, 0, false, 0⟩)))

/-- R142, R346: WMK sets FILL of a receive window and the bits of its arrival map below it; a value that is no multiple of 32 or
above 16,384 raises ALIGN with the value as its address. R141, R326, R342, R344: a SEND, SENDQ or HALO whose descriptor can be
read and is in order is accepted into the copy unit's queue of 32 transfers, a HALO with the runs of its tile that go towards each
neighbour there is, cut into sectors for the place of the neighbour's window where they arrive; with the queue full the predicate is 0 and
nothing is sent. R383, R385: GNEXT and GDONE of a row on no gateway column raise CHANNEL_BIND. GNEXT stores the oldest
descriptor and pops it, with the predicate 1; with none queued the predicate is 0. GDONE of a descriptor in order, for the
tenant that is paired, sends the block's bytes; with 32 transfers in the copy unit's queue the predicate is 0.
The model's own choices in it: log entries 42, 43, 44 and 57. -/
def Obligations.SendResults : Prop :=
  (∀ (k : BitVec 3) (v : BitVec 6) (p : BitVec 3) (s : State), Executes s p →
    let x := (s.me).rg v
    (x.toNat % 32 = 0 → x.toNat ≤ 16384 → ∃ t, exec (.wmk k v p) s = .next t ∧
      (t.col s.here).wmk[k.toNat].toNat = x.toNat ∧ (∀ i, i < 512 → bit (t.col s.here).arr[k.toNat] i = decide (32 * i < x.toNat)) ∧
      t.me = { s.me with pc := s.after &&& ~~~3#32, inGroup := false } ∧ t.mem = s.mem ∧ (t.col s.here).scratch = (s.col s.here).scratch) ∧
    (x.toNat % 32 ≠ 0 ∨ 16384 < x.toNat → exec (.wmk k v p) s = .next (s.raise ⟨0x04, 0, x, false, 0⟩))) ∧
  (∀ (q p : BitVec 3) (a : BitVec 6) (s s1 s2 s3 : State) (bs data : List Byte) (done : Option (Nat × Keep)), Executes s p →
    let va := (s.me).rg a
    let d := SendDesc.ofBits (ofBytes 256 bs)
    let src := addr48 d.src
    let grid := s2.gridOf s2.cur
    let h := HaloDesc.ofBits (ofBytes 256 bs)
    va.toNat % 32 = 0 → s.readAs va 32 = .ok bs s1 →
    ((s1.checkPages (pagesOf src d.len)).bind (fun _ s => s.doneWord d.done) = .ok done s2 → d.tcol < grid.length →
      (∀ queue, d.ok queue = true → 32 ≤ (s2.col s2.here).sends.length →
        SetsAfter s s2 (if queue then .sendq q a p else .send q a p) (s2.me.wp q false)) ∧
      ((s2.col s2.here).sends.length < 32 → s2.sourceBytes src d.len = .ok data s3 →
        (d.ok false = true → exec (.send q a p) s = .next (s3.acceptSend (.window d.win) d.len
          (sectorsOf (grid.getD d.tcol 0) d.doff data) [] done q)) ∧
        (d.ok true = true → exec (.sendq q a p) s = .next (s3.acceptSend (.metadata (bits d.win 0 2)) d.len
          (sectorsOf (grid.getD d.tcol 0) d.doff data) [] done q)))) ∧
    (s1.checkPages (s1.neighbours.flatMap (fun x => (h.runs x.1).flatMap (fun (o, n) =>
        pagesOf (addr48 h.base + BitVec.ofNat 64 o) n))) = .ok () s2 → h.ok = true →
      (32 ≤ (s2.col s2.here).sends.length → SetsAfter s s2 (.halo q a p) (s2.me.wp q false)) ∧
      (∀ sectors, RunsRead (addr48 h.base) h s1.neighbours sectors s2 s3 → (s2.col s2.here).sends.length < 32 →
        exec (.halo q a p) s = .next (s3.acceptSend (.halo h.win) 1 sectors
          (s1.neighbours.map (fun x => ⟨x.2, arrivalFrom x.1⟩)) none q))) ∧
    (∀ (x : State) kind len sectors parts, 3 ≤ x.scope 3 → len ≠ 0 →
      ∃ e, ((x.acceptSend kind len sectors parts done q).col x.here).sends = (x.col x.here).sends ++ [e] ∧
        e.sectors = sectors ∧ e.parts = parts ∧ e.done = done)) ∧
  (∀ (a : BitVec 6) (q p : BitVec 3) (s s1 s2 : State), Executes s p →
    let va := (s.me).rg a
    (s.linkOf s.here = none → exec (.gnext q a p) s = .next (s.raise ⟨0x0B, 0, 0, false, 0⟩) ∧
      exec (.gdone q a p) s = .next (s.raise ⟨0x0B, 0, 0, false, 0⟩)) ∧
    (s.linkOf s.here ≠ none → va.toNat % 32 ≠ 0 → exec (.gnext q a p) s = .next (s.raise ⟨0x04, 0, va, true, 0⟩) ∧
      exec (.gdone q a p) s = .next (s.raise ⟨0x04, 0, va, false, 0⟩)) ∧
    (s.linkOf s.here ≠ none → va.toNat % 32 = 0 → ∀ x, s.check s.who .store va 32 = .ok x s1 →
      ((s1.col s1.here).gateq = [] → SetsAfter s s1 (.gnext q a p) ((s1.me).wp q false)) ∧
      (∀ e rest, (s1.col s1.here).gateq = e :: rest → s1.rowStore CacheHint.none va e.desc = .ok () s2 → ∃ t,
        exec (.gnext q a p) s = .next t ∧ (t.col s2.here).gateq = rest ∧ t.me = { (s2.me).wp q true with pc := s2.after &&& ~~~3#32, inGroup := false } ∧
        t.mem = s2.mem)) ∧
    (∀ i link bs done, s.linkOf s.here = some (i, link) → va.toNat % 32 = 0 → s.readAs va 32 = .ok bs s1 →
      let x := ForwardDesc.ofBits (ofBytes 256 bs)
      let off := 0x4000 * x.swin.toNat + x.soff
      s1.doneWord x.done = .ok done s2 →
      (x.ok = false → exec (.gdone q a p) s = .next (s2.raise (badDescriptor va))) ∧
      (x.ok = true → link.paired ≠ some s2.cur.t → exec (.gdone q a p) s = .next (s2.raise ⟨0x0B, 0, 0, false, 0⟩)) ∧
      (x.ok = true → link.paired = some s2.cur.t → 32 ≤ (s2.col s2.here).sends.length →
        SetsAfter s s2 (.gdone q a p) ((s2.me).wp q false)) ∧
      (x.ok = true → link.paired = some s2.cur.t → (s2.col s2.here).sends.length < 32 → (s2.me).early = [] →
        poisoned (s2.col s2.here).badScratch off x.len = false → ∃ t e, exec (.gdone q a p) s = .next t ∧
        (t.col s2.here).gateOut = ((s2.releaseFar s2.here).col s2.here).gateOut ++ [e] ∧ e.tag = x.tag ∧ e.win = x.dwin ∧
        e.off = x.doff ∧ e.done = done ∧ e.data = ((s2.releaseFar s2.here).col s2.here).scratch.readBytes off x.len ∧
        t.me.pred = ((s2.me).wp q true).pred ∧ t.me.pc = s2.after &&& ~~~3#32)))

/-- R349, R351, R353, R355, R357: LAUNCH of a record that is accepted returns its id, and the launch waits in the tenant's order;
a refused one gives 0 and the predicate 0. LHINT marks a launch that has a successor. WAITP goes on unless the row's
predecessor is live. CANCEL says whether its target was live. JOINW goes on where the word holds the target.
The model's own choices in it: log entry 46. -/
def Obligations.LaunchResults : Prop :=
  ∀ (d a j k : BitVec 6) (l : BitVec 2) (sc q p : BitVec 3) (s s1 : State), Executes s p →
    let va := (s.me).rg a
    (va.toNat % 64 ≠ 0 → exec (.launch d a q p) s = .next (s.raise ⟨0x04, 0, va, false, 0⟩)) ∧
    (va.toNat % 64 = 0 → s.releaseWaits = false → s.earlyMeets s.cur va 192 = false → ∀ record, s.recordAt s.who va = .ok record s1 →
      let u := s1.releaseFar s1.here
      let submitted := u.submit u.cur.t record (u.me).priv 0 (u.releaseVec u.cur u.myField)
      (∀ n, submitted = .error n → SetsAfter s u (.launch d a q p) (((u.me).wg d 0).wp q false)) ∧
      (∀ id v, submitted = .ok (id, v) → SetsAfter s v (.launch d a q p) (((v.me).wg d (id.setWidth 64)).wp q true) ∧
        ∃ x, (v.ten u.cur.t).launches = (u.ten u.cur.t).launches ++ [x] ∧ x.id = id ∧ x.record = record ∧ x.phase = .waiting ∧
          x.sup = (u.me).priv)) ∧
    (∃ t, exec (.lhint p) s = .next t ∧ t.me = { s.me with pc := s.after &&& ~~~3#32, inGroup := false } ∧ t.mem = s.mem ∧
      (t.ten s.cur.t).launches = (s.ten s.cur.t).launches.map (fun x =>
        if x.id = (s.me).launch ∧ x.succ ≠ 0 then { x with hinted := true } else x)) ∧
    ((s.me).predid ≠ 0 → s.liveLaunch s.cur.t (s.me).predid = true → ∃ t, exec (.waitp sc p) s = .next t ∧ t.me.st = .waiting ∧
      t.me.waiton = 6 ∧ t.me.pc = (s.me).pc ∧ t.run = []) ∧
    ((s.me).predid = 0 ∨ s.liveLaunch s.cur.t (s.me).predid = false → s.releasing s.cur = false →
      (sc.toNat < 3 → Passes s (.waitp sc p)) ∧
      (3 ≤ sc.toNat → let u := (s.joinDv s.cur (s.field s.myField).fav).acquireFar s.here
        SetsAfter s u (.waitp sc p) u.me)) ∧
    (let id : BitVec 32 := bits ((s.me).rg j) 0 32
      let c := s.cancel s.cur.t l id
      SetsAfter s c.2 (.cancel d j l p) ((c.2.me).wg d (if c.1 then 1 else 0)) ∧ (l = 0 → c.1 = s.liveLaunch s.cur.t id) ∧
      (c.1 = false → c.2 = s)) ∧
    (∀ pa attr bs s2, s.access s.who .load ((s.me).rg j) 8 = .ok (.dram pa, attr) s1 → s1.earlyMeets s1.cur ((s.me).rg j) 8 = false →
      s1.busyAt s1.cur (.dram pa) 8 = false → s1.releasing s1.cur = false →
      s1.loadHome s1.here pa 8 (keepOf attr s1.cache) = .ok bs s2 →
      (ofBytes 64 bs = (s2.me).rg k → let u := (s2.acquireFar s2.here).acquireVec s2.cur pa 8
        SetsAfter s u (.joinw j k p) u.me) ∧
      (ofBytes 64 bs ≠ (s2.me).rg k → ∃ t, exec (.joinw j k p) s = .next t ∧ t.me.st = .waiting ∧ t.me.waiton = 1 ∧
        t.me.joinw = some pa ∧ t.me.pc = (s2.me).pc ∧ t.run = []))

/-! ## Holds, walkers and matrix jobs -/

/-- R164, R152-R154: a claim that finds its word ready takes the lowest free record of the span, queues it behind the last claim,
or makes it the holder of a free word, and returns its handle with the predicate 1; LIVE and CLAIMS rise. With the pool full
the handle is 0 and the predicate 0. A word whose TAIL names no current place of it raises HOLD_HANDLE. R166, R168, R430,
R433: HWAIT of the holder acquires and goes on; of a waiting place the row waits with WAITON 2 and the handle; a handle that
is not current, a place of another row or an abandoned one raises HOLD_HANDLE with the handle. HTEST gives 1 for a holder
place and 0 else, HINFO the information word, and 0 for a handle that is not current; neither faults. R426, R427, R428, R429:
HGIVE makes the named row the owner of the place, and of a holder place is a release with a wake-up of its new owner; for a row that
is FREE, RETIRED or FAULTED it clears the predicate. HSWAP of a
waiting place with a place that is not abandoned behind it in the list exchanges the two; else the predicate is 0; a current handle of
another object raises HOLD_HANDLE. HABAN of a waiting place
abandons it and lowers LIVE; HREL and HABAN of the holder release it to the next place. A handle that is not current, a place of
another row, HGIVE and HABAN of an abandoned place, HGIVE to an id that the directory does not hold, and HREL of a place that is
not the holder raise HOLD_HANDLE with the handle.
The model's own choices in it: log entries 14, 49 and 69. -/
def Obligations.HoldResults : Prop :=
  (∀ (d a : BitVec 6) (q p : BitVec 3) (s s1 : State) (pa : Nat) (attr : Attr), Executes s p →
    let va := (s.me).rg a
    let span := homeSpan pa
    let s2 := s1.holdReady s1.here pa
    let w := s2.holdWord pa
    let i := lowestFree (s2.span span).pool 0
    let x := s2.place_ span i
    let h := handleOf span i x
    let mine : Place := { x with owner := (s2.me).rowid, tenant := s2.cur.t, obj := BitVec.ofNat 38 (pa / 64), next := 0xFFFF }
    MemoryForm s2 → s.access s.who .fe va 64 = .ok (.dram pa, attr) s1 → s1.holdWaits span = false →
    s1.earlyMeets s1.cur va 16 = false → s1.busyAt s1.cur (.dram pa) 16 = false → s2.homeBad pa 16 = false →
    (s2.foreign pa = true → exec (.hclaim d a q p) s = .next (s2.raise ⟨0x09, 0, va, true, 0⟩)) ∧
    (s2.foreign pa = false → 0xFFFF ≤ i →
      SetsAfter s ((s2.touchSpan pa false).keepLine pa (keepOf attr s2.cache)) (.hclaim d a q p) ((s2.me.wg d 0).wp q false)) ∧
    (s2.foreign pa = false → i < 0xFFFF → x.gen ≠ 0 → w.head = 0 → ∃ t, exec (.hclaim d a q p) s = .next t ∧
      t.place_ span i = { mine with st := 2, prev := 0xFFFF } ∧ t.holdWord pa = ⟨h, h, w.live + 1, false, w.claims + 1⟩ ∧
      t.me = { ((s2.me).wg d (h.setWidth 64)).wp q true with pc := s2.after &&& ~~~3#32, inGroup := false }) ∧
    (s2.foreign pa = false → i < 0xFFFF → x.gen ≠ 0 → w.head ≠ 0 → handleIndex w.tail ≠ i → ∃ t,
      exec (.hclaim d a q p) s = .next t ∧
      t.place_ span i = { mine with st := 1, prev := bits w.tail 9 16 } ∧
      (t.place_ span (handleIndex w.tail)).next = BitVec.ofNat 16 i ∧
      t.holdWord pa = ⟨w.head, h, w.live + 1, w.forfeit, w.claims + 1⟩ ∧
      t.me = { ((s2.me).wg d (h.setWidth 64)).wp q true with pc := s2.after &&& ~~~3#32, inGroup := false })) ∧
  (∀ (d g : BitVec 6) (q p : BitVec 3) (s : State), Executes s p →
    let h : BitVec 32 := bits ((s.me).rg g) 0 32
    s.holdWaits (handleSpan h) = false →
    (s.resolve s.cur.t h = none →
      exec (.hwait g p) s = .next (s.raise ⟨0x09, 0, h.setWidth 64, false, 0⟩) ∧
      Sets s (.htest q g p) ((s.me).wp q false) ∧ Sets s (.hinfo d g p) ((s.me).wg d 0)) ∧
    (∀ x, s.resolve s.cur.t h = some x →
      let s1 := s.holdReady s.here x.word
      let quiet := s1.releasing s1.cur = false
      let u := s1.holdAcquire x
      ((x.owner ≠ (s1.me).rowid ∨ x.st = 3) → exec (.hwait g p) s = .next (s1.raise ⟨0x09, 0, h.setWidth 64, false, 0⟩)) ∧
      (x.owner = (s1.me).rowid → x.st = 2 → quiet → SetsAfter s u (.hwait g p) u.me) ∧
      (x.owner = (s1.me).rowid → x.st = 1 → quiet → ∃ t, exec (.hwait g p) s = .next t ∧ t.me.st = .waiting ∧ t.me.waiton = 2 ∧
        t.me.hold = h ∧ t.me.pc = (s1.me).pc ∧ t.run = []) ∧
      (x.st ≠ 2 → SetsAfter s s1 (.htest q g p) ((s1.me).wp q false)) ∧
      (x.st = 2 → x.owner ≠ (s1.me).rowid → SetsAfter s s1 (.htest q g p) ((s1.me).wp q true)) ∧
      (x.st = 2 → x.owner = (s1.me).rowid → quiet → SetsAfter s u (.htest q g p) ((u.me).wp q true)) ∧
      SetsAfter s s1 (.hinfo d g p) ((s1.me).wg d (s1.placeInfo h x)))) ∧
  (∀ (g r : BitVec 6) (f : BitVec 1) (q p : BitVec 3) (s : State) (x : Place), Executes s p →
    let h : BitVec 32 := bits ((s.me).rg g) 0 32
    let goal : BitVec 32 := bits ((s.me).rg r) 0 32
    let span := handleSpan h
    let s1 := s.holdReady s.here x.word
    let w := s1.holdWord x.word
    let u := s1.releaseFar s1.here
    let vec := u.releaseVec u.cur u.myField
    let other := s1.resolve s1.cur.t goal
    let behind := (s1.listFrom span (1 + (s1.span span).pool.length) x.next.toNat).contains (handleIndex goal)
    let raises := fun i (u : State) => exec i s = .next (u.raise ⟨0x09, 0, h.setWidth 64, false, 0⟩)
    let same := fun (o : Place) => handleSpan goal = span ∧ o.obj = x.obj
    let gift := u.giveHome u.cur.t h goal (some vec)
    MemoryForm s1 → s.holdWaits span = false →
    (s.resolve s.cur.t h = none → raises (.hmove f q g r p) s ∧ raises (.hend f g p) s) ∧
    (s.resolve s.cur.t h = some x → x.owner ≠ (s1.me).rowid → raises (.hmove f q g r p) s1 ∧ raises (.hend f g p) s1) ∧
    (s.resolve s.cur.t h = some x → x.owner = (s1.me).rowid →
    (x.st = 3 ∨ s1.held ⟨s1.cur.t, goal⟩ = false → raises (.hmove 0 q g r p) s1) ∧
    (x.st = 3 → raises (.hend f g p) s1) ∧
    (x.st = 2 → s1.held ⟨s1.cur.t, goal⟩ = true → u.mayRelease (span / 8) (some vec) = true →
      exec (.hmove 0 q g r p) s = .next (gift.2.finish ((gift.2.me).wp q gift.1)) ∧
      ((u.row ⟨u.cur.t, goal⟩).st.takes = false → gift = (false, u)) ∧
      ((u.row ⟨u.cur.t, goal⟩).st.takes = true → gift.1 = true ∧
        gift.2.place_ span (handleIndex h) = { u.place_ span (handleIndex h) with owner := goal } ∧
        gift.2.holdWakes = u.holdWakes ++ [⟨⟨(u.place_ span (handleIndex h)).tenant, goal⟩, h⟩] ∧ gift.2.mem = u.mem ∧
        gift.2.rows = u.rows)) ∧
    (x.st = 1 → s1.held ⟨s1.cur.t, goal⟩ = true → (s1.row ⟨s1.cur.t, goal⟩).st.takes = true → ∃ t,
      exec (.hmove 0 q g r p) s = .next t ∧ t.place_ span (handleIndex h) = { s1.place_ span (handleIndex h) with owner := goal } ∧
      t.me = { (s1.me).wp q true with pc := s1.after &&& ~~~3#32, inGroup := false } ∧ t.mem = s1.mem) ∧
    (x.st = 1 → s1.held ⟨s1.cur.t, goal⟩ = true → (s1.row ⟨s1.cur.t, goal⟩).st.takes = false →
      SetsAfter s s1 (.hmove 0 q g r p) ((s1.me).wp q false)) ∧
    (∀ o, other = some o → ¬same o → raises (.hmove 1 q g r p) s1) ∧
    (∀ o, other = some o → same o → x.st ≠ 1 ∨ o.st = 3 ∨ behind = false → SetsAfter s s1 (.hmove 1 q g r p) ((s1.me).wp q false)) ∧
    (x.st = 1 → (∃ o, other = some o ∧ same o ∧ o.st ≠ 3) → behind = true →
      let v := s1.swapPlaces span x.word (handleIndex h) (handleIndex goal)
      exec (.hmove 1 q g r p) s = .next (v.finish ((v.me).wp q true))) ∧
    (other = none → SetsAfter s s1 (.hmove 1 q g r p) ((s1.me).wp q false)) ∧
    (x.st = 1 → ∃ t, exec (.hend 0 g p) s = .next t ∧ (t.place_ span (handleIndex h)).st = 3 ∧
      t.holdWord x.word = { w with live := w.live - 1 } ∧ t.me = { s1.me with pc := s1.after &&& ~~~3#32, inGroup := false }) ∧
    (x.st ≠ 2 → exec (.hend 1 g p) s = .next (s1.raise ⟨0x09, 0, h.setWidth 64, false, 0⟩)) ∧
    (x.st = 2 → u.mayRelease (span / 8) (some vec) = true →
      exec (.hend f g p) s = .next (u.releaseHold h vec).advance)))

/-- R155, R156: the succession of a word. The holder's record is freed with its next generation, and so are the abandoned places
that stand next behind it; with no other place behind them the word is free: HEAD, TAIL and LIVE are 0; else the first place that is
not abandoned becomes the holder, HEAD is its handle, LIVE falls by 1, FORFEIT is as the succession says, and its owner is sent a
wake-up. -/
def Obligations.Succession : Prop :=
  ∀ (s : State) (span i m : Nat) (skipped : List Nat) (forfeit : Bool), MemoryForm s →
    let p := s.place_ span i
    let q := s.place_ span m
    let w := s.holdWord p.word
    let t := s.succeed span i forfeit
    let freed (x : Place) : Place := { x with gen := if x.gen = 511 then 1 else x.gen + 1, st := 0, prev := 0xFFFF, next := 0xFFFF }
    skipped.Nodup → i ∉ skipped → Abandoned s span skipped p.next.toNat m →
    (m = 0xFFFF → t.place_ span i = freed p ∧ (∀ j ∈ skipped, t.place_ span j = freed (s.place_ span j)) ∧
      t.holdWord p.word = { w with head := 0, tail := 0, live := 0, forfeit := false } ∧ t.holdWakes = s.holdWakes) ∧
    (m ≠ 0xFFFF → m ≠ i → q.st ≠ 3 →
      let h := handleOf span m q
      t.place_ span i = freed p ∧ (∀ j ∈ skipped, t.place_ span j = freed (s.place_ span j)) ∧
      t.place_ span m = { q with prev := 0xFFFF, st := 2 } ∧
      t.holdWord p.word = { w with head := h, live := w.live - 1, forfeit := forfeit } ∧
      t.holdWakes = s.holdWakes ++ [⟨⟨q.tenant, q.owner⟩, h⟩])

/-- R139, R202: once the row's earlier writes have performed, a request whose record and descriptor are in order joins the queue of
the row's span with the predicate 1, or finds 32 requests there and leaves the predicate 0; one that faults at acceptance raises
its fault with the record's address in OPREC; till then the group is issued again. The tenant's ACCEPT and REFUSE counts rise.
R431: KCFG sets OTA, OTF and OTCFG from a 16-byte record, and a record not in order raises ILLEGAL_FIELD. R432: KTEST stores 32
bytes of statistics.
The model's own choices in it: log entry 55. -/
def Obligations.WalkerResults : Prop :=
  ∀ (a b : BitVec 6) (q p : BitVec 3) (s s1 : State), Executes s p →
    let ga := (s.me).rg a
    let i := spanOfSite s.here
    let asks := fun op => (s.releaseFar s.here).request op ga ((s.me).rg b)
    let accepts := fun op j => (s.releaseWaits = true → exec j s = .next s.abandonGroup) ∧
      (s.releaseWaits = false →
        (∀ f, asks op = .fault f → exec j s = .next (s.raise { f with opRec := ga })) ∧
        (∀ site, asks op = .move site → exec j s = .next (s.startMove site s.group)) ∧
        (asks op = .stall → exec j s = .next s.abandonGroup) ∧
        (∀ r, asks op = .ok r s1 →
          (32 ≤ (s1.span (spanOfSite s1.here)).requests → ∃ t, exec j s = .next t ∧
            t.me = { (s1.me).wp q false with pc := s1.after &&& ~~~3#32, inGroup := false } ∧ t.spans = s1.spans ∧
            (t.wstat t.cur.t (spanOfSite s1.here)).refuse = (s1.wstat s1.cur.t (spanOfSite s1.here)).refuse + 1) ∧
          ((s1.span (spanOfSite s1.here)).requests < 32 → ∃ t, exec j s = .next t ∧
            t.me = { (s1.me).wp q true with pc := s1.after &&& ~~~3#32, inGroup := false } ∧
            (t.span (spanOfSite s1.here)).wq = (s1.span (spanOfSite s1.here)).wq ++ [r] ∧
            (t.span (spanOfSite s1.here)).wcur = (s1.span (spanOfSite s1.here)).wcur ∧ r.op = op ∧ r.reqVa = ga ∧
            (t.wstat t.cur.t (spanOfSite s1.here)).accept = (s1.wstat s1.cur.t (spanOfSite s1.here)).accept + 1)))
    accepts .kwalk (.kwalk q a b p) ∧ accepts .kapnd (.kapnd q a b p) ∧ accepts .ksum (.ksum q a b p) ∧
    (∀ f, s.rowLoad CacheHint.none ga 16 = .fault f → exec (.kstat 0 a p) s = .next (s.raise f)) ∧
    (∀ bs, s.rowLoad CacheHint.none ga 16 = .ok bs s1 →
      let c := BitVec.ofNat 32 (natAt bs 8 4)
      (natAt bs 12 4 ≠ 0 ∨ c &&& ~~~0xF03#32 ≠ 0 ∨ bits c 0 2 = 3 → exec (.kstat 0 a p) s = .next (s.raise ⟨0x02, 0, ga, false, 0⟩)) ∧
      (natAt bs 12 4 = 0 → c &&& ~~~0xF03#32 = 0 → bits c 0 2 ≠ 3 → ∃ t, exec (.kstat 0 a p) s = .next t ∧
        t.ten s1.cur.t = { s1.ten s1.cur.t with ota := BitVec.ofNat 32 (natAt bs 0 4), otf := BitVec.ofNat 32 (natAt bs 4 4), otcfg := c } ∧
        t.me = { s1.me with pc := s1.after &&& ~~~3#32, inGroup := false } ∧ t.mem = s1.mem)) ∧
    (∀ f, s.rowStore CacheHint.none ga (s.statBytes s.cur.t i) = .fault f → exec (.kstat 1 a p) s = .next (s.raise f)) ∧
    (s.rowStore CacheHint.none ga (s.statBytes s.cur.t i) = .ok () s1 → SetsAfter s s1 (.kstat 1 a p) s1.me)

/-- R198, R199: a span's walker takes its next request when it serves none and its field knows what the request's vector names, and
asks for the lock of its descriptor. The lock is granted to the walks at the front of its queue together, or to an exclusive
request alone, when the lock word is free for them. A request that holds it is served; once its releases may become visible, and no word
of a record is still on its way to a row (R197), the lock is released, and the walker serves none; both wait while its field's
window of outstanding writes has no room (R212). Whatever a walker's stage, no row's record and no other request changes.
The model's own choices in it: log entries 55, 75, 78 and 79. -/
def Obligations.WalkerStages : Prop :=
  ∀ s : State,
    let i := s.sel.span.toNat
    let x := s.span i
    (∀ q l, x.wcur = none → x.wq = q :: l → covers (s.field (i / 8)).fav q.vec = true →
      Makes s .walkerRequestStart (fun t => (t.span i).wq = l ∧ (t.span i).wcur = some { q with asked := s.time } ∧
        t.rows = s.rows ∧ t.locks = s.locks ++ [⟨s.sel.span, q.pa, q.op != .kwalk⟩])) ∧
    ((x.wcur ≠ none ∨ x.wq = [] ∨ ∃ q l, x.wq = q :: l ∧ covers (s.field (i / 8)).fav q.vec = false) → Idles s .walkerRequestStart) ∧
    (∀ r, s.locks[s.sel.k]? = some r →
      let mine := s.locks.filter (fun y => y.pa == r.pa)
      let front := mine.takeWhile (fun y => !y.exclusive)
      let run := if front = [] then mine.take 1 else front
      (lockFree (s.tlock r.pa) (decide (front = [])) = false → Idles s .tlockGrant) ∧
      (lockFree (s.tlock r.pa) (decide (front = [])) = true → Makes s .tlockGrant (fun t =>
        t.rows = s.rows ∧ t.locks = s.locks.filter (fun y => !run.contains y) ∧
        ∀ y ∈ run, ∀ q, (s.span y.span.toNat).wcur = some q →
          ∃ z, (t.span y.span.toNat).wcur = some z ∧ z.granted = true ∧ z.op = q.op ∧ z.row = q.row ∧ z.pa = q.pa ∧ z.fin = q.fin))) ∧
    (s.locks[s.sel.k]? = none → Idles s .tlockGrant) ∧
    (x.wcur = none → Idles s .walkerRequestComplete) ∧
    (∀ q, x.wcur = some q →
      (q.granted = false ∨ s.departRoom (i / 8) = false → Idles s .walkerRequestComplete) ∧
      (q.granted = true → s.departRoom (i / 8) = true → q.fin = none → Makes s .walkerRequestComplete (fun t => t.rows = s.rows ∧ (t.span i).wq = x.wq ∧
        ∃ f, (t.span i).wcur = some { q with fin := some f } ∧ f.word = (s.serve q).1.word)) ∧
      (∀ f, q.granted = true → s.departRoom (i / 8) = true → q.fin = some f →
        let far := f.pa.toList.flatMap (fun y => s.recordField y.1)
        let known := (homeField q.pa :: far).all (fun g => covers (s.field g).fav (s.unitVec (i / 8) q.vec))
        (known = true → s.recordSent q.row.t = false → Makes s .walkerRequestComplete (fun t => (t.span i).wcur = none ∧ (t.span i).wq = x.wq ∧ t.rows = s.rows ∧
          t.tens = s.tens)) ∧
        (known = false ∨ s.recordSent q.row.t = true → Idles s .walkerRequestComplete)))

/-- R371: MXQ and MXS of a record in order are refused with 0 and the predicate 0 while 16 jobs are in the column's queue or the
row holds 16 FAULT entries; else the job joins the queue, its RUNNING entry the row's list, and the ticket is the column's
index above the job id; MXQ writes it, and MXS waits for it with WAITON 3 and PROG 0x1_0000 | id. A fault of the checks is
raised with the record's address in OPREC. R255, R373, R375: MXW of a ticket that the row's list does not hold gives 0, of a RUNNING
one waits with WAITON 3, of a DONE one writes its status and takes it off the list, once no release of the row is on its way (R220); MXS
issued again with PROG[16] 1 does the same with the ticket of the job that it has had accepted, wherever the row stands; MXT never waits, and its predicate says
whether the job is complete. MXCAN of a ticket that is not RUNNING gives the predicate 0; of a RUNNING one the cancel leaves
for its column and the row awaits the answer.
The model's own choices in it: log entries 56 and 85. -/
def Obligations.JobResults : Prop :=
  (∀ (d a : BitVec 6) (q p : BitVec 3) (s s1 : State) (o : Operands) (x : Extents) (snap : BitVec 128), Executes s p →
    let va := (s.me).rg a
    let full := 16 ≤ (s1.col s1.here).jobs.length ∨ 16 ≤ ((s1.me).tickets.filter (fun e => e.st == .faulted)).length
    let joins := fun (t : State) => ∃ j : Job, (t.col s1.here).jobs = (s1.col s1.here).jobs ++ [j] ∧ j.row = s1.cur ∧
      j.st = .queued ∧ j.opRec = va ∧ j.opsnap = snap ∧ j.mode = x.mode ∧ j.progw = o.tile0 ∧ j.fmtcap = (s1.me).fmt ∧
      j.ticket = BitVec.ofNat 16 (indexIn (s1.gridOf s1.cur) s1.here) ++ j.id ∧ j.sup = (s1.me).priv ∧
      (∃ e, e ∈ t.me.tickets ∧ e.ticket = j.ticket ∧ e.st = .running) ∧ t.mem = s1.mem
    s.releaseWaits = false → bit (s.me).prog 16 = false →
    (∀ f, s.jobRecord va = .fault f → exec (.mxq d a q p) s = .next (s.raise { f with opRec := va }) ∧
      exec (.mxs d a q p) s = .next (s.raise { f with opRec := va })) ∧
    (s.jobRecord va = .ok (o, x, snap) s1 →
      (full → SetsAfter s s1 (.mxq d a q p) (((s1.me).wg d 0).wp q false) ∧
        SetsAfter s s1 (.mxs d a q p) (((s1.me).wg d 0).wp q false)) ∧
      (¬full → (∃ t, exec (.mxq d a q p) s = .next t ∧ joins t ∧ t.me.pc = s1.after &&& ~~~3#32 ∧
          t.me.pred = (((s1.me).wp q true)).pred ∧
          ∀ j ∈ (t.col s1.here).jobs.getLast?, t.me.g = (((s1.me).wg d (j.ticket.setWidth 64))).g) ∧
        (∃ t, exec (.mxs d a q p) s = .next t ∧ joins t ∧ t.me.st = .waiting ∧ t.me.waiton = 3 ∧ t.me.pc = (s1.me).pc ∧
          ∀ j ∈ (t.col s1.here).jobs.getLast?, t.me.prog = 0x10000 ||| j.id.setWidth 32 ∧ t.me.jobWait = some j.ticket ∧
            t.me.mxs = some j.ticket)))) ∧
  (∀ (d a : BitVec 6) (q p : BitVec 3) (s : State), Executes s p →
    let v : BitVec 32 := bits ((s.me).rg a) 0 32
    let awaits := fun i v =>
      ((s.me).ticketOf v = none → Sets s i { ((s.me).forgetJob v).wg d 0 with prog := 0 }) ∧
      (∀ e, (s.me).ticketOf v = some e →
        (e.st = .running → ∃ t, exec i s = .next t ∧ t.me.st = .waiting ∧ t.me.waiton = 3 ∧ t.me.jobWait = some v ∧
          t.me.pc = (s.me).pc ∧ t.me.prog = (s.me).prog ∧ t.run = []) ∧
        (e.st ≠ .running → e.fault = none → s.releasing s.cur = false → ∃ t, exec i s = .next t ∧
          t.me.g = (((s.me).wg d e.status)).g ∧ t.me.pc = s.after &&& ~~~3#32 ∧ t.me.prog = 0 ∧ t.me.pred = (s.me).pred ∧
          t.me.tickets = (s.me).tickets.filter (fun y => y.ticket != e.ticket) ∧ t.run = []))
    awaits (.mxw d a p) v ∧
    (∀ x, bit (s.me).prog 16 = true → (s.me).mxs = some x → bits x 0 16 = bits (s.me).prog 0 16 → awaits (.mxs d a q p) x) ∧
    ((s.me).ticketOf v = none →
      Sets s (.mxt d a q p) (((s.me).wg d 0).wp q true) ∧ Sets s (.mxcan a q p) ((s.me).wp q false)) ∧
    (∀ e, (s.me).ticketOf v = some e →
      (e.st = .running →
        Sets s (.mxt d a q p) (((s.me).wg d 0).wp q false) ∧
        (∃ t, exec (.mxcan a q p) s = .next t ∧ t.mxcans = s.mxcans ++ [⟨e.site, s.cur, bits e.ticket 0 16, q⟩] ∧
          t.me = { s.me with await := some s.after } ∧ t.run = [] ∧ t.mem = s.mem)) ∧
      (e.st ≠ .running → Sets s (.mxcan a q p) ((s.me).wp q false)) ∧
      (e.st ≠ .running → e.fault = none → s.releasing s.cur = false →
        let done := fun (t : State) => t.me.g = (((s.me).wg d e.status)).g ∧ t.me.pc = s.after &&& ~~~3#32 ∧ t.me.prog = 0 ∧
          t.me.tickets = (s.me).tickets.filter (fun y => y.ticket != e.ticket) ∧ t.run = []
        (∃ t, exec (.mxt d a q p) s = .next t ∧ done t ∧ t.me.pred = ((s.me).wp q true).pred))))

/-! ## Vector and floating-point instructions -/

/-- R72, R77: the lanes of a packed result. Lane i holds the low bits of its own result, bits outside every lane are 0, and the
flags are those of any lane. -/
def Obligations.LaneResults : Prop :=
  ∀ (w n : Nat) (f : Nat → Nat × Flags), w * n ≤ 128 →
    let x := lanewise w n f
    (∀ i, i < n → vlane x.1 w i = (f i).1 % 2 ^ w) ∧ (∀ j, w * n ≤ j → x.1.getLsbD j = false) ∧
    (∀ b, x.2.toBits.getLsbD b = (List.range n).any (fun i => (f i).2.toBits.getLsbD b))

/-- R332, R335, R337, R338 of the vector chapter: the lane-wise floating words and the dot products. Each charges CHG.FPV to BUD
and to the column's window, writes its destination and ORs its flags into EXC. -/
def Obligations.VectorFloatResults : Prop :=
  ∀ (d a b : BitVec 5) (ty : BitVec 2) (p : BitVec 3) (s : State), Executes s p →
    let r := s.me
    let fm := fltOf (r.fpType ty)
    let w := fm.width
    let c := s.ctl
    let A := fun i => vlane (r.rv a) w i
    let B := fun i => vlane (r.rv b) w i
    let va := fun i => fm.readFtz c.ftz (A i)
    let vb := fun i => fm.readFtz c.ftz (B i)
    let vd := fun i => fm.readFtz c.ftz (vlane (r.rv d) w i)
    let cost := (s.col s.here).chgFpv
    let u := s.charge cost
    let ends := fun i (x : VWord × Flags) => SetsAfter s u i ((u.me.wv d x.1).raise x.2.toBits)
    let lanes := fun i f => ends i (lanewise w (128 / w) f)
    u.me = { r with bud := r.bud - BitVec.ofNat 32 cost } ∧
    (u.col s.here) = { s.col s.here with winSum := (s.col s.here).winSum + BitVec.ofNat 32 cost } ∧
    lanes (.vadd d a b ty p) (fun i => fAdd fm c (va i) (vb i)) ∧ lanes (.vsub d a b ty p) (fun i => fSub fm c (va i) (vb i)) ∧
    lanes (.vmul d a b ty p) (fun i => fMul fm c (va i) (vb i)) ∧
    lanes (.vfma d a b ty p) (fun i => fusedSum fm c [vd i] [(va i, vb i)]) ∧
    lanes (.vfms d a b ty p) (fun i => fusedSum fm c [vd i] [((va i).negate, vb i)]) ∧
    lanes (.vmin d a b ty p) (fun i => fMinMax fm false c.ftz (A i) (B i)) ∧
    lanes (.vmax d a b ty p) (fun i => fMinMax fm true c.ftz (A i) (B i)) ∧
    lanes (.vabs d a ty p) (fun i => rewrite fm c (va i) false) ∧
    lanes (.vneg d a ty p) (fun i => rewrite fm c (va i) (!(va i).isNeg)) ∧
    ends (.vdot2 d a b ty p) (lanewise 32 4 fun j => fusedSum .f32 c [FFmt.f32.readFtz r.ftz (vlane (r.rv d) 32 j)]
      ((List.range 2).map fun i => (fm.readFtz r.ftz (A (2 * j + i)), fm.readFtz r.ftz (B (2 * j + i))))) ∧
    (let f8 := fltOf r.ef;
      ends (.vdot4 d a b p) (lanewise 32 4 fun j => fusedSum .f32 c [FFmt.f32.readFtz r.ftz (vlane (r.rv d) 32 j)]
        ((List.range 4).map fun i => (f8.readFtz r.ftz (vlane (r.rv a) f8.width (4 * j + i)),
          f8.readFtz r.ftz (vlane (r.rv b) f8.width (4 * j + i))))))

/-- R340 of the vector chapter: the integer words; each charges CHG.INT. Sums, differences and products are exact and then wrap
or, with FMT.SAT or in the saturating forms, saturate; a shift by the lane's width or more gives 0 or the sign. R351 of the
vector chapter: the permutations, stated lane by lane; each charges CHG.INT and raises no flag. -/
def Obligations.VectorIntegerResults : Prop :=
  (∀ (d a b : BitVec 5) (ty : BitVec 2) (p : BitVec 3) (s : State), Executes s p →
    let r := s.me
    let fm := intOf (r.intType ty)
    let w := fm.w
    let A := fun i => vlane (r.rv a) w i
    let B := fun i => vlane (r.rv b) w i
    let u := s.charge (s.col s.here).chgInt
    let ends := fun i (x : VWord × Flags) => SetsAfter s u i ((u.me.wv d x.1).raise x.2.toBits)
    let lanes := fun i f => ends i (lanewise w (128 / w) f)
    let x := r.rv a
    let y := r.rv b
    lanes (.viadd d a b ty p) (fun i => fm.finish r.fsat (fm.read (A i) + fm.read (B i))) ∧
    lanes (.visub d a b ty p) (fun i => fm.finish r.fsat (fm.read (A i) - fm.read (B i))) ∧
    lanes (.vimul d a b ty p) (fun i => fm.finish r.fsat (fm.read (A i) * fm.read (B i))) ∧
    lanes (.viadds d a b ty p) (fun i => fm.finish true (fm.read (A i) + fm.read (B i))) ∧
    lanes (.visubs d a b ty p) (fun i => fm.finish true (fm.read (A i) - fm.read (B i))) ∧
    lanes (.vimuls d a b ty p) (fun i => fm.finish true (fm.read (A i) * fm.read (B i))) ∧
    lanes (.vshl d a b ty p) (fun i => (if w ≤ B i then 0 else A i * 2 ^ B i % 2 ^ w, Flags.none)) ∧
    lanes (.vshr d a b ty p) (fun i => (fm.wrap (fm.read (A i) / ((2 ^ min (B i) w : Nat) : Int)), Flags.none)) ∧
    ends (.vand d a b ty p) (x &&& y, Flags.none) ∧ ends (.vor d a b ty p) (x ||| y, Flags.none) ∧
    ends (.vxor d a b ty p) (x ^^^ y, Flags.none)) ∧
  (∀ (d a b : BitVec 5) (g gd : BitVec 6) (i : BitVec 4) (ty : BitVec 2) (p : BitVec 3) (s : State), Executes s p →
    let r := s.me
    let w := 8 * 2 ^ ty.toNat
    let n := 128 / w
    let u := s.charge (s.col s.here).chgInt
    let writes := fun j (v : VWord) => SetsAfter s u j (u.me.wv d v)
    (∃ v, writes (.vshuf d a b ty p) v ∧ ∀ j, j < n → vlane v w j = vlane (r.rv a) w (vlane (r.rv b) w j % n)) ∧
    (∃ v, writes (.vbcast d g ty p) v ∧ ∀ j, j < n → vlane v w j = (r.rg g).toNat % 2 ^ w) ∧
    (∃ v, writes (.vins d g i ty p) v ∧ ∀ j, j < n →
      vlane v w j = if j = i.toNat then (r.rg g).toNat % 2 ^ w else vlane (r.rv d) w j) ∧
    SetsAfter s u (.vext gd i a ty p) (u.me.wg gd (BitVec.ofNat 64 (vlane (r.rv a) w i.toNat))) ∧
    writes (.vselv d a b p) ((r.rv a &&& r.rv d) ||| (r.rv b &&& ~~~(r.rv d))))

/-- R342, R344, R346, R348, R349 of the vector chapter: the narrow words on a floating or an integer format, the narrow dot
product, quantisation, block addition and conversion; the narrow words charge CHG.NRW.
The model's own choices in it: log entries 15, 73, 74, 88 and 89. -/
def Obligations.VectorNarrowResults : Prop :=
  ∀ (d a b e : BitVec 5) (k p : BitVec 3) (x y : BitVec 4) (s : State), Executes s p →
    let r := s.me
    let w := efWidth r.ef
    let c := s.ctl
    let A := fun i => vlane (r.rv a) w i
    let B := fun i => vlane (r.rv b) w i
    let D := fun i => vlane (r.rv d) w i
    let u := s.charge (s.col s.here).chgNrw
    let two := spareFlags r.ef [r.rv a, r.rv b]
    let three := spareFlags r.ef [r.rv a, r.rv b, r.rv d]
    let ends := fun i sp (z : VWord × Flags) => SetsAfter s u i ((u.me.wv d z.1).raise ((sp : Flags).or z.2).toBits)
    let lanes := fun i sp f => ends i sp (lanewise w (128 / w) f)
    (∀ f, efmt r.ef = .flt f →
      let rd := fun v => f.readFtz c.ftz v
      lanes (.vnadd d a b p) two (fun i => fAdd f c (rd (A i)) (rd (B i))) ∧
      lanes (.vnsub d a b p) two (fun i => fSub f c (rd (A i)) (rd (B i))) ∧
      lanes (.vnmul d a b p) two (fun i => fMul f c (rd (A i)) (rd (B i))) ∧
      lanes (.vnfma d a b p) three (fun i => fusedSum f c [rd (D i)] [(rd (A i), rd (B i))]) ∧
      lanes (.vnmax d a b p) two (fun i => fMinMax f true c.ftz (A i) (B i))) ∧
    (∀ f, efmt r.ef = .int f →
      lanes (.vnadd d a b p) two (fun i => f.finish r.fsat (f.read (A i) + f.read (B i))) ∧
      lanes (.vnsub d a b p) two (fun i => f.finish r.fsat (f.read (A i) - f.read (B i))) ∧
      lanes (.vnmul d a b p) two (fun i => f.finish r.fsat (f.read (A i) * f.read (B i))) ∧
      lanes (.vnfma d a b p) three (fun i => f.finish r.fsat (f.read (A i) * f.read (B i) + f.read (D i))) ∧
      lanes (.vnmax d a b p) two (fun i => (if f.read (A i) < f.read (B i) then B i else A i, Flags.none))) ∧
    ends (.vndot d a b k p) two (ndot r.ef c (r.rv a) (r.rv b) (r.rv d) (r.rg (BitVec.ofNat 6 (40 + k.toNat)))) ∧
    (let z := quant r.ef c (r.rv a) (r.rv d) (r.rg (BitVec.ofNat 6 (40 + k.toNat)));
      SetsAfter s u (.vquant d a k p) ((u.me.wv d z.1).raise z.2.toBits)) ∧
    (let g := BitVec.ofNat 6 (40 + k.toNat)
      let z := baq c (r.rv a) (r.rv b) (r.rv d) (r.rg g);
      SetsAfter s u (.vbaq d a b k p)
        (((u.me.wv d z.1).wg g (setBits (r.rg g) 16 (BitVec.ofNat 8 z.2.1))).raise z.2.2.toBits)) ∧
    (let z := cvt x.toNat y.toNat e.toNat c (r.rv a) (r.rv d)
      let v := s.charge (s.cvtCost x y);
      SetsAfter s v (.vcvt d a e x y p) ((v.me.wv d z.1).raise ((spareFlags y.toNat [r.rv a]).or z.2).toBits))

/-- R353, R355, R356, R357 of the vector chapter: reductions put one value into the low bits of the destination and 0 above it;
the special functions charge CHG.SFU; comparisons write lanes of all ones or 0, or a predicate from the lanes. -/
def Obligations.VectorReduceResults : Prop :=
  ∀ (d a b : BitVec 5) (q cc : BitVec 3) (ty : BitVec 2) (p : BitVec 3) (s : State), Executes s p →
    let r := s.me
    let ef := r.fpType ty
    let fm := fltOf ef
    let c := s.ctl
    let live := ((List.range (128 / fm.width)).filter (fun i => b = 0 ∨ vlane (r.rv b) fm.width i ≠ 0)).map
      (fun i => vlane (r.rv a) fm.width i)
    let u := s.charge (s.col s.here).chgFpv
    let red := fun i (x : Nat × Flags) => SetsAfter s u i ((u.me.wv d (BitVec.ofNat 128 x.1)).raise x.2.toBits)
    let f := s.charge (s.col s.here).chgSfu
    let fun_ := fun i op =>
      let x := lanewise fm.width (128 / fm.width) (fun j => sfu op fm c (fm.readFtz r.ftz (vlane (r.rv a) fm.width j)));
      SetsAfter s f i ((f.me.wv d x.1).raise x.2.toBits)
    let l := cmpLanes r (condOf cc) ef a b
    let fl := (Flags.orAll (l.map (·.2))).toBits
    let v := s.charge (s.cmpCost ef)
    red (.vrsum d a b ty p) (reduceSum fm c live) ∧ red (.vrmax d a b ty p) (reduceMinMax true fm c live) ∧
    red (.vrmin d a b ty p) (reduceMinMax false fm c live) ∧
    fun_ (.vexp2 d a ty p) .exp2 ∧ fun_ (.vlog2 d a ty p) .log2 ∧ fun_ (.vrcp d a ty p) .rcp ∧ fun_ (.vrsq d a ty p) .rsq ∧
    fun_ (.vsin d a ty p) .sin ∧ fun_ (.vtanh d a ty p) .tanh ∧ fun_ (.vsig d a ty p) .sig ∧
    (∃ x, SetsAfter s v (.vcmp d a b cc ty p) ((v.me.wv d x).raise fl) ∧
      ∀ j, j < 128 / efWidth ef → vlane x (efWidth ef) j = if (l.getD j (false, Flags.none)).1 then 2 ^ efWidth ef - 1 else 0) ∧
    SetsAfter s v (.vany q a b cc ty p) ((v.me.wp q (l.any (·.1))).raise fl) ∧
    SetsAfter s v (.vall q a b cc ty p) ((v.me.wp q (l.all (·.1))).raise fl)

/-- R80, R359, R360 of the vector chapter: the scalar words on F64 (w = 0) or F32 (w = 1) in the rounding mode in force; results
are zero-extended, I32 conversions sign-extended; the flags are ORed into EXC. -/
def Obligations.ScalarFloatResults : Prop :=
  ∀ (d a b : BitVec 6) (w : BitVec 1) (x y q p : BitVec 3) (s : State), Executes s p →
    let r := s.me
    let fm : FFmt := if w = 1 then .f32 else .f64
    let c : RoundCtl := ⟨s.mode, false, false⟩
    let A := (r.rg a).toNat
    let B := (r.rg b).toNat
    let gives := fun i (z : Nat × Flags) => Sets s i ((r.wg d (BitVec.ofNat 64 z.1)).raise z.2.toBits)
    let tests := fun i (z : Bool × Flags) => Sets s i ((r.wp q z.1).raise z.2.toBits)
    gives (.fadd d a b w p) (fAdd fm c (fm.read A) (fm.read B)) ∧ gives (.fsub d a b w p) (fSub fm c (fm.read A) (fm.read B)) ∧
    gives (.fmul d a b w p) (fMul fm c (fm.read A) (fm.read B)) ∧
    gives (.ffma d a b w p) (fusedSum fm c [fm.read (r.rg d).toNat] [(fm.read A, fm.read B)]) ∧
    gives (.fdiv d a b w p) (fDiv fm c (fm.read A) (fm.read B)) ∧ gives (.fsqrt d a w p) (fSqrt fm c (fm.read A)) ∧
    gives (.fmin d a b w p) (fMinMax fm false false A B) ∧ gives (.fmax d a b w p) (fMinMax fm true false A B) ∧
    tests (.fcmpeq q a b w p) (fCompare .eq (fm.read A) (fm.read B)) ∧ tests (.fcmplt q a b w p) (fCompare .lt (fm.read A) (fm.read B)) ∧
    tests (.fcmple q a b w p) (fCompare .le (fm.read A) (fm.read B)) ∧
    (let z := fcvt x y s.mode (r.rg a);
      Sets s (.fcvt d a x y p) ((r.wg d z.1).raise z.2.toBits))

/-! ## Faults, registers and maintenance -/

/-- R261-R263: taking a fault. The record of 64 bytes is stored at FREC. A fault that is not posted enters the tenant's vector:
EPC is the fault's continuation, CAUSE its subcode and code, TRAPACT 1, and CTL.PRIV and the registers are kept. A posted
fault leaves the row FAULTED with PC the continuation and queues the record; so does every fault whose record cannot be
stored. TRAP and BKPT consult no policy bit; a machine check that is unrecoverable is always posted.
The model's own choices in it: log entry 72. -/
def Obligations.FaultTaking : Prop :=
  ∀ (s u : State) (k : RowKey) (i : FaultInfo),
    let x := s.ten k.t
    let d := s.dir k
    let r := s.row k
    let record := fun posted nofrec =>
      recordBytes i k.t r.rowid r.launch ⟨d.site, d.bank⟩ (s.timeAt d.site.toNat) r.priv posted r.trapact nofrec false
    let vec := if i.code = 0x08 then x.ovec else x.tvec
    let posts := (i.code ≠ 0x20 ∧ i.code ≠ 0x21 ∧ (i.cls = 7 ∨ bit x.fpol i.cls.toNat = true)) ∨ vec = 0 ∨ r.trapact = true ∨
      (i.code = 0x0E ∧ i.sub = 1)
    let faulted := fun (v t : State) (rec : List Byte) => t.row k = { v.row k with
        pc := i.cpc &&& ~~~3#32, st := .faulted, waiton := 0, stepping := false, await := none, run := [], mid := .none, walked := [] } ∧
      (t.ten k.t).fqWait = (v.ten k.t).fqWait ++ [rec] ∧ (∀ j, j.key ≠ k.key → t.row j = v.row j) ∧ t.mem = v.mem ∧ t.run = []
    (record true false).length = 64 ∧ (record true false).take 2 = [i.code, i.sub] ∧
    (posts → s.frecStore k d.site.toNat (record true false) = .stored u → faulted u (s.takeFault k i) (record true false)) ∧
    (posts → s.frecStore k d.site.toNat (record true false) = .bad → faulted s (s.takeFault k i) (record true true)) ∧
    (¬posts → s.frecStore k d.site.toNat (record false false) = .bad → faulted s (s.takeFault k i) (record true true)) ∧
    (¬posts → s.frecStore k d.site.toNat (record false false) = .stored u →
      s.takeFault k i = { u.setRow k { u.row k with
        epc := i.cpc, cause := i.sub ++ i.code, trapact := true, pc := vec &&& ~~~3#32, await := none, inGroup := false,
        run := [], mid := .none, walked := [], replayDue := false } with run := [] })

/-- R381, R386 of the system chapter: TRAP takes a fault of code 0x20 with the immediate as its subcode, continuing behind the
group; BKPT one of code 0x21 that continues at itself; ERET returns to EPC with TRAPACT 0, and a replay list that holds stores is due. R381 of
the system chapter, R92-R95, R98, R100: SRR reads the register of the row's own instances. SRW writes the source at the
register's width, SRS the OR, SRC the AND with the complement; a register that the row may not write raises the privilege
fault with its number, a value that the register refuses raises ILLEGAL_FIELD with the value; every other register keeps its
value. R90, R91: a write of CTL sets its fields and then performs its command on the row itself; a command that is none, or a field
that R89 withholds, is denied. FREC is written whole, its bits [5:0] staying 0. R97, R98: WPART starts a transition whose end the row
awaits, or waits for one in progress; FRNGkB writes BASE; FRNGkC writes LIMIT and FMT, and no line of the range stays cached in the
column; an FMT of 3 raises ILLEGAL_FIELD.
The model's own choices in it: log entry 68. -/
def Obligations.StateRegisterResults : Prop :=
  (∀ (e : BitVec 8) (p : BitVec 3) (s : State), Executes s p →
    exec (.trap e p) s = .next (s.takeFault s.cur ⟨0x20, e, 0, false, false, s.group, s.after, 0, 0, (s.me).prog, 0⟩) ∧
    exec (.bkpt p) s = .next (s.takeFault s.cur ⟨0x21, 0, 0, false, false, s.group, s.group, 0, 0, (s.me).prog, 0⟩) ∧
    Transfers s (.eret p) { s.me with trapact := false, replayDue := !(s.me).replay.isEmpty } (s.me).epc) ∧
  (∀ (g : BitVec 6) (r : BitVec 12) (p : BitVec 3) (s : State), Executes s p →
    let cls := r.toNat / 512
    let i := r.toNat % 512
    let src := srSource r ((s.me).rg g)
    let writes := fun j (v : DWord) =>
      (s.srMay r = false → exec j s = .next (s.raise ⟨0x07, 0, r.setWidth 64, false, 0⟩)) ∧
      (s.srMay r = true → cls = 1 →
        (∀ c, (s.col s.here).writeSr i v = some c → ∃ t, exec j s = .next t ∧ t.col s.here = c ∧
          t.me = { s.me with pc := s.after &&& ~~~3#32, inGroup := false } ∧ (∀ k, k ≠ s.here → t.col k = s.col k) ∧ t.mem = s.mem ∧
          t.spans = s.spans ∧ t.fields = s.fields ∧ t.tens = s.tens) ∧
        ((s.col s.here).writeSr i v = none → exec j s = .next (s.raise ⟨0x02, 0, v, false, 0⟩))) ∧
      (s.srMay r = true → cls = 4 →
        (∀ x, (s.ten s.cur.t).writeSr i v = some x → ∃ t, exec j s = .next t ∧ t.ten s.cur.t = x ∧
          t.me = { s.me with pc := s.after &&& ~~~3#32, inGroup := false } ∧ t.cols = s.cols ∧ t.mem = s.mem ∧ t.spans = s.spans ∧
          t.fields = s.fields) ∧
        ((s.ten s.cur.t).writeSr i v = none → exec j s = .next (s.raise ⟨0x02, 0, v, false, 0⟩))) ∧
      (s.srMay r = true → cls = 0 → i ≠ 30 → i ≠ 0 → (s.me).rcbRefused (s.me).priv true i (bits v 0 32) = false → ∃ t,
        exec j s = .next t ∧ t.me = Row.setRcb { s.me with pc := s.after &&& ~~~3#32, inGroup := false } i (bits v 0 32) ∧
        (i ≠ 20 → t.cols = s.cols) ∧ t.mem = s.mem ∧ t.spans = s.spans ∧ t.tens = s.tens) ∧
      (s.srMay r = true → cls = 0 → i ≠ 30 → i ≠ 0 → (s.me).rcbRefused (s.me).priv true i (bits v 0 32) = true →
        exec j s = .next (s.raise ⟨0x07, 0, r.setWidth 64, false, 0⟩)) ∧
      (s.srMay r = true → cls = 0 → i = 0 →
        let cmd := v.toNat % 16
        let x := Row.setRcb { s.me with pc := s.after &&& ~~~3#32, inGroup := false } 0 (bits v 0 32)
        let bad := 5 < cmd ∨ (s.me).rcbRefused (s.me).priv true 0 (bits v 0 32) = true
        (bad → exec j s = .next (s.raise ⟨0x07, 0, r.setWidth 64, false, 0⟩)) ∧
        (¬bad → (s.me).await = none → (s.me).mid = .none → ∃ t, exec j s = .next t ∧ t.mem = s.mem ∧ t.run = [] ∧
          (∀ k, k ≠ s.cur → t.row k = s.row k) ∧ x.priv = bit v 10 ∧ x.pri = bits v 8 2 ∧
          (cmd = 0 ∨ cmd = 1 ∨ cmd = 5 → t.me = x) ∧
          (cmd = 2 → t.me = { x with st := .stopped, waiton := 0, stepping := false, run := [], walked := [] }) ∧
          (cmd = 3 → t.me = { x with pc := x.newpc, prog := 0 }) ∧
          (cmd = 4 → t.me.st = (if s.liveLaunch s.cur.t (s.me).launch then .retired else .free) ∧ t.me.pc = x.pc ∧ t.me.g = x.g))) ∧
      (s.srMay r = true → cls = 0 → i = 30 →
        let bad := (s.me).rcbRefused (s.me).priv true 30 (bits v 0 32) = true ∨ (s.me).rcbRefused (s.me).priv true 31 (bits v 32 32) = true
        (bad → exec j s = .next (s.raise ⟨0x07, 0, r.setWidth 64, false, 0⟩)) ∧
        (¬bad → Sets s j { s.me with frec := v &&& ~~~0x3F#64 })) ∧
      (s.srMay r = true → cls = 2 →
        let n := spanOfSite s.here
        let x := s.span n
        let only := fun (t : State) => (∀ k, k ≠ n → t.span k = s.span k) ∧ (∀ k, k ≠ s.cur → t.row k = s.row k) ∧ t.mem = s.mem ∧ t.run = []
        (i = 0 → x.trans.isSome = true → exec j s = .next s.abandonGroup) ∧
        (i = 0 → x.trans = none → ∃ t, exec j s = .next t ∧ only t ∧
          t.span n = ({ x with trans := some (bits v 0 4), transRow := some s.cur } : Span).trim ∧ t.me = { s.me with await := some s.after }) ∧
        (∀ (h : 16 ≤ i ∧ i < 32),
          let k : Fin 8 := ⟨(i - 16) / 2, by omega⟩
          (i % 2 = 0 → ∃ t, exec j s = .next t ∧ only t ∧ t.span n = { x with rbase := x.rbase.set k (bits v 16 28) } ∧
            t.cols = s.cols ∧ t.me = { s.me with pc := s.after &&& ~~~3#32, inGroup := false }) ∧
          (i % 2 = 1 → bits v 0 2 = 3 → exec j s = .next (s.raise ⟨0x02, 0, v, false, 0⟩)) ∧
          (i % 2 = 1 → bits v 0 2 ≠ 3 → ∃ t, exec j s = .next t ∧ only t ∧
            (t.span n).rlimit = x.rlimit.set k (bits v 16 28) ∧ (t.span n).rfmt = x.rfmt.set k (bits v 0 2) ∧
            (∀ y ∈ (t.col s.here).cache, paSlot (256 * y.line) ≠ 1024 + 8 * n + k.val) ∧
            t.me = { s.me with pc := s.after &&& ~~~3#32, inGroup := false })))
    Sets s (.srr g r p) ((s.me).wg g (s.readSr r)) ∧ writes (.srw g r p) src ∧ writes (.srs g r p) (s.readSr r ||| src) ∧
    writes (.src g r p) (s.readSr r &&& ~~~src))

/-- R88, R92, R95, R99, R100: where the numbers lead. Class 0 holds the row's RCB words, class 1 the column's registers, class 3
FAV0 to FAV11 of the field, class 4 the tenant's registers; the registers' fields as they are read and written. -/
def Obligations.StateRegisterMap : Prop :=
  ∀ (s : State) (v : DWord) (j : Fin 12),
    let c := s.col s.here
    let x := s.ten s.cur.t
    s.readSr 0x002 = (s.me).pc.setWidth 64 ∧ s.readSr 0x005 = (s.me).fmt.setWidth 64 ∧ s.readSr 0x006 = (s.me).exc.setWidth 64 ∧
    s.readSr 0x008 = (s.me).epc.setWidth 64 ∧ s.readSr 0x009 = (s.me).cause.setWidth 64 ∧ s.readSr 0x00A = (s.me).bud.setWidth 64 ∧
    s.readSr 0x00B = (s.me).pend.setWidth 64 ∧ s.readSr 0x015 = (s.me).rowid.setWidth 64 ∧
    s.readSr 0x01D = (s.me).tailpc.setWidth 64 ∧ s.readSr 0x01E = (s.me).frec ∧
    s.readSr 0x201 = c.xb.setWidth 64 ∧ s.readSr 0x202 = c.chg.setWidth 64 ∧ s.readSr 0x203 = c.bref.setWidth 64 ∧
    s.readSr 0x204 = c.bcap.setWidth 64 ∧ s.readSr 0x205 = c.pcap.setWidth 64 ∧
    s.readSr (0x600 + BitVec.ofNat 12 j) = ((s.field s.myField).fav[j]).setWidth 64 ∧
    s.readSr 0x800 = s.cur.t.setWidth 64 ∧ s.readSr 0x801 = (x.fpol ||| 0x80).setWidth 64 ∧ s.readSr 0x802 = x.tvec.setWidth 64 ∧
    s.readSr 0x803 = x.ovec.setWidth 64 ∧ s.readSr 0x804 = x.tailvec.setWidth 64 ∧ s.readSr 0x805 = x.cwbase.setWidth 64 ∧
    s.readSr 0x806 = x.ota.setWidth 64 ∧ s.readSr 0x807 = x.otf.setWidth 64 ∧ s.readSr 0x808 = x.otcfg.setWidth 64 ∧
    c.writeSr 3 v = some { c with bref := bits v 0 16 } ∧ c.writeSr 4 v = some { c with bcap := bits v 0 16 } ∧
    c.writeSr 5 v = some { c with pcap := bits v 0 16 } ∧
    (let b : BitVec 17 := bits v 0 17;
      (0x1000 ≤ b.toNat → b.toNat ≤ 0x10000 → b.toNat % 256 = 0 → c.writeSr 1 v = some { c with xb := b }) ∧
      (b.toNat < 0x1000 ∨ 0x10000 < b.toNat ∨ b.toNat % 256 ≠ 0 → c.writeSr 1 v = none)) ∧
    x.writeSr 1 v = some { x with fpol := bits v 0 8 ||| 0x80 } ∧ x.writeSr 2 v = some { x with tvec := bits v 0 32 &&& ~~~3#32 } ∧
    x.writeSr 3 v = some { x with ovec := bits v 0 32 &&& ~~~3#32 } ∧
    (bits v 0 2 = 3 → x.writeSr 8 v = none) ∧ (bits v 0 2 ≠ 3 → x.writeSr 8 v = some { x with otcfg := bits v 0 32 &&& 0xF03 })

/-- R383 of the system chapter: CFLUSH leaves no dirty byte of the line in the row's column; CINV leaves no copy of the line there
and writes none back; CZERO stores zeros to the eight sectors of the line; an address with no cached line changes nothing.
R390, R392, R394 of the system chapter: once the row's earlier stores are performed at WAFER scope, every field having learnt of
them as for FENCE.WAFER, TLBI leaves no entry of the tenant that it covers in the columns of its scope, and completes unless a walk
that could fill such an entry is outstanding, when the row awaits its end; till then it is tried again. XBSET and WAYSET refuse a
value out of range with ILLEGAL_FIELD and the value. XBSET sets XB once no store of a row of the column to the code-store window is
on its way. WAYSET of a span that no other tenant shares starts the transition, or leaves the predicate 0 while one is in progress.
The model's own choices in it: log entries 10 and 59. -/
def Obligations.MaintenanceResults : Prop :=
  (∀ (a : BitVec 6) (l : BitVec 1) (p : BitVec 3) (s s1 : State) (ls : List (Loc × Attr)), Executes s p →
    let va := (s.me).rg a
    (s.maintLine .load va = .ok none s1 → SetsAfter s s1 (.cflush a l p) s1.me) ∧
    (∀ n, s.maintLine .load va = .ok (some n) s1 → ∃ t, exec (.cflush a l p) s = .next t ∧
      t.me = { s1.me with pc := s1.after &&& ~~~3#32, inGroup := false } ∧ t.run = [] ∧
      (∀ c, (t.col s1.here).line n = some c → c.dirty = [] ∧ ∃ c0, (s1.col s1.here).line n = some c0 ∧ c.data = c0.data ∧
        c.valid = c0.valid)) ∧
    (s.maintLine .store va = .ok none s1 → SetsAfter s s1 (.cinv a p) s1.me) ∧
    (∀ n, s.maintLine .store va = .ok (some n) s1 → ∃ t, exec (.cinv a p) s = .next t ∧
      (t.col s1.here).line n = none ∧ (∀ k, k ≠ n → (t.col s1.here).line k = (s1.col s1.here).line k) ∧ t.mem = s1.mem ∧
      (∀ k, k ≠ s1.here → t.col k = s1.col k) ∧ t.me = { s1.me with pc := s1.after &&& ~~~3#32, inGroup := false }) ∧
    (ZerosAt (va &&& ~~~0xFF#64) (List.range 8) ls s s1 → exec (.czero a p) s = .next
      (ls.foldl (fun u (y, at_) => u.storeAt u.who (u.agent va) y at_ u.cache (List.replicate 32 0) (u.ops + 1)) s1).advance)) ∧
  (∀ (a : BitVec 6) (sc q p : BitVec 3) (s : State), Executes s p →
    let v := (s.me).rg a
    let clean := ((s.col s.here).cache.map (·.line)).foldl (fun u l => u.cleanLine s.here l) s
    let known := (List.range 12).all (fun g => covers (clean.field g).fav (clean.releaseVec clean.cur clean.myField))
    let cols := clean.tlbiCols sc.toNat
    let cut := fun va => cols.foldl (fun u i =>
      u.setCol i { u.col i with tlb := (u.col i).tlb.filter (fun e => !tlbiHits s.cur.t va e) }) clean
    let ends := fun i va => ∃ t, exec i s = .next t ∧
      (∀ c ∈ cols, ∀ e ∈ (t.col c).tlb, tlbiHits s.cur.t va e = false) ∧ t.run = [] ∧
      ((cut va).walkCovered s.cur.t va cols = false → t.me = { s.me with pc := s.after &&& ~~~3#32, inGroup := false }) ∧
      ((cut va).walkCovered s.cur.t va cols = true → t.me = { s.me with await := some s.after })
    let i := spanOfSite s.here
    let shared := s.cols.any (fun (site, c) => spanOfSite site == i && (match c.owner with | some o => o != s.cur.t | none => false))
    (s.sending = true → exec (.tlbi a sc p) s = .next s.abandonGroup ∧ exec (.tlbiAll sc p) s = .next s.abandonGroup) ∧
    (s.sending = false → known = false → exec (.tlbi a sc p) s = .next clean.abandonGroup ∧
      exec (.tlbiAll sc p) s = .next clean.abandonGroup) ∧
    (s.sending = false → known = true → ends (.tlbi a sc p) (some (va48 v)) ∧ ends (.tlbiAll sc p) none) ∧
    (v.toNat % 256 = 0 → 0x1000 ≤ v.toNat → v.toNat ≤ 0x10000 →
      (s.codeStores = true → exec (.xbset a p) s = .next s.abandonGroup) ∧
      (s.codeStores = false → ∃ t, exec (.xbset a p) s = .next t ∧ t.col s.here = { s.col s.here with xb := BitVec.ofNat 17 v.toNat } ∧
        t.me = { s.me with pc := s.after &&& ~~~3#32, inGroup := false } ∧ t.mem = s.mem)) ∧
    ((∀ k, (s.dir k).site = s.seat.site → (s.row k).early = []) → (∀ y ∈ s.parked, y.site ≠ s.seat.site) → s.codeStores = false) ∧
    (v.toNat % 256 ≠ 0 ∨ v.toNat < 0x1000 ∨ 0x10000 < v.toNat → exec (.xbset a p) s = .next (s.raise ⟨0x02, 0, v, false, 0⟩)) ∧
    (15 < v.toNat → exec (.wayset q a p) s = .next (s.raise ⟨0x02, 0, v, false, 0⟩)) ∧
    (v.toNat ≤ 15 → shared = true → exec (.wayset q a p) s = .next (s.raise ⟨0x07, 0, 0, false, 0⟩)) ∧
    (v.toNat ≤ 15 → shared = false → (s.span i).trans.isSome = true → Sets s (.wayset q a p) ((s.me).wp q false)) ∧
    (v.toNat ≤ 15 → shared = false → (s.span i).trans = none → ∃ t, exec (.wayset q a p) s = .next t ∧
      t.span i = ({ s.span i with trans := some (BitVec.ofNat 4 v.toNat), transRow := none } : Span).trim ∧
      t.me = { (s.me).wp q true with pc := s.after &&& ~~~3#32, inGroup := false } ∧ t.mem = s.mem))

/-- R296, R297, R298, R299 of the integer chapter and R396 of the system chapter: the words of FEAT, the values of TOPO and IDR by
selector, the column's counter, and the bounded wait: 1 where a monitor has fired, 0 at the deadline or where nothing could
end the wait, else the row waits with WAITON 1.
The model's own choices in it: log entries 6 and 82. -/
def Obligations.QueryResults : Prop :=
  ∀ (d a : BitVec 6) (p : BitVec 3) (s : State), Executes s p →
    let grid := s.gridOf s.cur
    let n := grid.length
    let gives := fun i (v : Nat) => Sets s i ((s.me).wg d (BitVec.ofNat 64 v))
    let r := s.me
    let dl := r.rg a
    gives (.feat d 0 p) 4 ∧ gives (.feat d 1 p) 0x3F ∧
    Sets s (.feat d 2 p) (r.wg d ((BitVec.ofNat 32 (mapCount s.harvest) ||| 0x00680000#32).setWidth 64)) ∧
    gives (.topo d 0 p) (min 30 n) ∧ gives (.topo d 1 p) ((n + 29) / 30) ∧ gives (.topo d 2 p) (n - 30 * ((n + 29) / 30 - 1)) ∧
    gives (.topo d 3 p) n ∧ gives (.topo d 4 p) (grid.idxOf s.seat.site) ∧
    gives (.topo d 5 p) (4 * (s.here / 32 / 10) + s.here % 32 / 8) ∧ gives (.topo d 6 p) (spanOfSite s.here) ∧
    gives (.topo d 7 p) (if s.links.any (fun x => x.2.site = s.seat.site) then 1 else 0) ∧
    gives (.topo d 8 p)
      (match (s.ten s.cur.t).launches.find? (fun l => l.id == r.launch && l.grid != []) with
        | some l => l.wcols
        | none => mapCount (List.zipWith (fun h x => h &&& ~~~x) s.harvest s.retired)) ∧
    gives (.idr d 0 p) r.launch.toNat ∧ gives (.idr d 1 p) r.rowid.toNat ∧ gives (.idr d 2 p) r.lx.toNat ∧
    gives (.idr d 3 p) r.ly.toNat ∧ gives (.idr d 4 p) r.gridw.toNat ∧ gives (.idr d 5 p) r.gridh.toNat ∧
    gives (.idr d 6 p) r.ext0.toNat ∧ gives (.idr d 7 p) r.ext1.toNat ∧ gives (.idr d 8 p) r.base0.toNat ∧
    gives (.idr d 9 p) r.base1.toNat ∧
    Sets s (.time d p) (r.wg d (BitVec.ofNat 64 s.time + (s.col s.here).skew)) ∧
    (let fired := r.mon.any (fun m => m.line ≠ 0 && !m.armed)
      let now := s.timeAt s.here
      (fired = true → Sets s (.wfx d a p) (r.wg d 1)) ∧
      (fired = false → (dl ≠ 0 ∧ dl.toNat ≤ now.toNat) ∨ (r.mon.all (fun m => m.line = 0) = true ∧ dl = 0) →
        Sets s (.wfx d a p) (r.wg d 0)) ∧
      (fired = false → ¬((dl ≠ 0 ∧ dl.toNat ≤ now.toNat) ∨ (r.mon.all (fun m => m.line = 0) = true ∧ dl = 0)) → ∃ t,
        exec (.wfx d a p) s = .next t ∧ t.me.st = .waiting ∧ t.me.waiton = 1 ∧ t.me.pc = r.pc ∧ t.run = [] ∧
        t.me.deadline = if dl = 0 then none else some dl))

/-! ## Events of rows and executors -/

/-- R90: the effect of START, STOP, REDIRECT, KILL and STEP by the state of the row that they reach: of a held row of a tenant
that is not being reset, in no activation or close, with no STEPX to be answered, and of an open row with no fault due. What is held
acts later: a command to a MOVING row, a REDIRECT inside a group, and STOP and KILL inside a group of another class than the
restartable and progressive ones; a STOP ends a restartable group with PROG 0 (R255). A REDIRECT of an open row leaves it no value that
a load has fixed before the command (R220, R233).
The model's own choices in it: log entry 21. -/
def Obligations.RowCommandEvents : Prop :=
  ∀ (s : State),
    let k := s.selRow
    let r := s.row k
    let lands := fun i (x : Row) => Makes s i (fun t => t.row k = x ∧ ∀ j, j ≠ k → t.row j = s.row j)
    let ended : Row := { r with waiton := 0, hold := 0, joinw := none, jobWait := none, fill := none, deadline := none }
    let ready := fun (x : Row) => { x with st := .ready, readyAt := s.time }
    let killed := Makes s .kill (fun t => (t.row k).st = (if s.liveLaunch k.t r.launch then .retired else .free) ∧ (t.row k).g = r.g ∧
      (t.row k).pc = r.pc ∧ (∀ i : Fin 4, (t.row k).mon[i] = ⟨0, false⟩) ∧
      t.retires = s.retires ++ [⟨k, r.countCol, r.launch, r.join, r.priv⟩])
    s.held k = true → s.deaf k.t = false → s.slotMoves k = false → r.stepper = none →
      (r.st = .free ∨ r.st = .retired → lands .start (ready r) ∧ lands .stop r ∧
        lands .redirect (ready { r with pc := r.newpc, prog := 0 }) ∧ lands .kill r ∧ lands .step r) ∧
      (r.st = .ready → lands .start r ∧ lands .stop { r with st := .stopped, waiton := 0, stepping := false } ∧
        lands .redirect { r with pc := r.newpc, prog := 0, waiton := 0 } ∧ killed ∧ lands .step r) ∧
      (r.st = .open_ → r.await = none → r.deferred = [] → r.faultedStore = none →
        let later := fun c => lands (match c with | Cmd.stop => .stop | Cmd.kill => .kill | _ => .redirect) { r with held := r.held ++ [c] }
        lands .start r ∧ lands .step r ∧
        (r.mid = .held → later .stop ∧ later .redirect ∧ later .kill) ∧
        (r.mid ≠ .held → lands .stop { r with
          st := .stopped, waiton := 0, stepping := false, prog := (if r.mid = .restart then 0 else r.prog), run := [], mid := .none, walked := [],
          again := [] }) ∧
        (r.mid ≠ .held → r.inGroup = true ∨ r.mid ≠ .none → later .redirect) ∧
        (r.mid = .none → r.inGroup = false → lands .redirect { r with pc := r.newpc, prog := 0, ahead := [] }) ∧ (r.mid ≠ .held → killed)) ∧
      (r.st = .waiting → s.answered k = false → lands .start r ∧ lands .stop { ended with st := .stopped, stepping := false } ∧
        lands .redirect (ready { ended with pc := r.newpc, prog := 0 }) ∧ killed ∧ lands .step r) ∧
      (r.st = .stopped → lands .start (ready { r with replayDue := !r.replay.isEmpty }) ∧ lands .stop r ∧
        lands .redirect (ready { r with pc := r.newpc, prog := 0, replayDue := !r.replay.isEmpty }) ∧ killed ∧
        lands .step (ready { r with stepping := true, replayDue := !r.replay.isEmpty })) ∧
      (r.st = .faulted → lands .start (ready { r with replayDue := !r.replay.isEmpty }) ∧ lands .stop r ∧
        lands .redirect (ready { r with pc := r.newpc, prog := 0, replayDue := !r.replay.isEmpty }) ∧ killed ∧ lands .step r) ∧
      (r.st = .moving → lands .start { r with held := r.held ++ [.start] } ∧ lands .stop { r with held := r.held ++ [.stop] } ∧
        lands .redirect { r with held := r.held ++ [.redirect] } ∧ lands .kill { r with held := r.held ++ [.kill] } ∧
        lands .step { r with held := r.held ++ [.step] })

/-- R87, R89, R270, R390: an outside store that has its turn reaches its row at a boundary: in row space its bytes are written, and the
words overwritten whole lose their poison; one that
the RCB refuses or that no row is held for returns to the row that stored; a host store through BAR2 leaves for its row, and a
host load of a row at a boundary is answered, behind the host's own stores to it. The words that a release reaches there carry its
vector. A refusal that comes back, or a fault behind its group, is taken by the row at its next boundary; a row whose answer waits behind
a store that is to be made for it goes to its boundary.
The model's own choices in it: log entries 52, 53 and 91. -/
def Obligations.OutsideStoreEvents : Prop :=
  ∀ (s : State),
    (∀ x k ipc va, s.sel.arr = false → s.outside[s.sel.k]? = some x → s.outsideFirst s.sel.k x = true → s.outsideMay s.sel.k x = true →
      s.deaf x.row.t = false → x.agent = .row k ipc va →
      let rest := s.outside.eraseIdx s.sel.k
      let back := fun code sub => Makes s .outsideStore (fun t => t.outside = rest ∧ t.rows = s.rows ∧
        t.refusedStores = s.refusedStores ++ [⟨k, code, sub, ipc, va⟩])
      (s.held x.row = false → back 0x05 3) ∧
      (s.held x.row = true → s.inTransit x.row = false → s.midGroup x = false → (s.row x.row).deferred = [] →
        (s.row x.row).faultedStore = none →
        (x.rcb = false → Makes s .outsideStore (fun t => t.outside = rest ∧ t.mem = s.mem ∧
          t.row x.row = ({ (s.row x.row).setBytes x.off x.data with bad := unpoison (s.row x.row).bad x.off x.data.length } : Row).carry
            x.off x.data.length x.vec ∧ ∀ j, j ≠ x.row → t.row j = s.row j)) ∧
        (x.rcb = true → (s.row x.row).rcbStoreRefused x.sup false x.off x.data = true → back 0x07 0) ∧
        (x.rcb = true → (s.row x.row).rcbStoreRefused x.sup false x.off x.data = false → storeCmd x.off x.data = 0 →
          Makes s .outsideStore (fun t => t.outside = rest ∧ t.mem = s.mem ∧
            t.row x.row = ((s.row x.row).rcbStore x.off x.data).carry (2048 + x.off) x.data.length x.vec ∧ ∀ j, j ≠ x.row → t.row j = s.row j)))) ∧
    (∀ k off, s.sel.arr = true → s.bootLock = true → s.deaf s.sel.t = false → windowLoc s.sel.t s.sel.acc.hpa.toNat = some (.rowSpace k off) →
      (s.ten s.sel.t).st = .active → s.held k = true →
      (s.sel.acc.wr = true → hostSize s.sel.acc.hpa.toNat s.sel.acc.data.length = true → Makes s .outsideStore (fun t =>
        t = { s with outside := s.outside ++ [⟨k, 0, false, false, off, s.sel.acc.data, .host s.sel.t, true, none, none⟩] })) ∧
      (s.sel.acc.wr = false → hostSize s.sel.acc.hpa.toNat s.sel.acc.size = true → s.inTransit k = false →
        s.betweenBoundaries k = false → (∀ x ∈ s.outside, x.row = k → x.agent ≠ .host s.sel.t) → Makes s .outsideStore (fun t => t = { s with hostRead := (s.row k).bytes off s.sel.acc.size }))) ∧
    (∀ x, s.refusedStores[s.sel.k]? = some x → (s.row x.row).st ≠ .free → (s.row x.row).st ≠ .retired →
      Makes s .controlWindowRefusal (fun t => t.refusedStores = s.refusedStores.eraseIdx s.sel.k ∧
        t.row x.row = { s.row x.row with
          deferred := (s.row x.row).deferred ++ [⟨x.code, x.sub, classOf x.code, true, true, x.ipc, 0, x.va, 0, 0, 0⟩] } ∧
        (∀ j, j ≠ x.row → t.row j = s.row j) ∧ t.mem = s.mem)) ∧
    (s.seatOf s.selRow ≠ none → (s.row s.selRow).st = .open_ → (s.row s.selRow).inGroup = false → (s.row s.selRow).run = [] →
      let k := s.selRow
      let r := s.row k
      (∀ pc, r.await = some pc → r.deferred = [] → r.faultedStore = none → s.awaitsStuck k = true → (∃ e ∈ r.early, e.due = true) →
        Makes s .deferredStoreFault (fun t => OnlyRowAt s t k { r with pc := pc, await := none })) ∧
      (r.await = none →
      let takes := fun (u : State) i => match u.takeFault? k i with
        | some v => exec .deferredStoreFault s = .next (v.boundary k)
        | none => Idles s .deferredStoreFault
      (∀ i l, r.deferred = i :: l → takes (s.setRow k { r with deferred := l }) { i with cpc := r.pc, prog := r.prog }) ∧
      (∀ e c sub, r.deferred = [] → r.faultedStore = some (e, c, sub) →
        takes (s.setRow k { r with replay := r.replay.map (fun y => { y with fault := none, till := some (y.till.getD s.ops) }) })
          ⟨c, sub, classOf c, true, true, e.ipc, r.pc, e.va, 0, r.prog, 0⟩)))

/-- R250, R251: an executor that may activate, with a free slot, opens the row it chooses: among the candidates one of the highest
level, of the first subarray group behind the last one activated, and there the earliest by READYAT. STATE reads OPEN, WAITON
and PASS are 0, CTL.PRI is the bind record's. R252, R256: the quantum begins when the row is open; that of a gang with the first of its
members that is. R270: a row with an uncorrected error in its bytes faults instead.
The model's own choices in it: log entry 64. -/
def Obligations.ActivationEvents : Prop :=
  (∀ (last : BitVec 4) (l : List Cand) (c : Cand), choose last l = some c → c ∈ l ∧ (∀ x ∈ l, x.level ≤ c.level) ∧
    (∀ x ∈ l, x.level = c.level → c.group - last - 1 ≤ x.group - last - 1) ∧
    (∀ x ∈ l, x.level = c.level → x.group = c.group → c.readyAt ≤ x.readyAt)) ∧
  ∀ (s : State),
    let site := s.sel.site
    let bank := s.sel.bank
    let e := s.executor site.toNat bank
    (∀ i c, e.mayActivate s.time = true → e.reservedSlot = none → e.freeSlot = some i →
      choose e.last (s.candidates site bank) = some c →
      Makes s .activation (fun t => (t.executor site.toNat bank).slots[i] =
          some ⟨c.key, .opening, c.group, c.level, s.time, s.time, false, none, false, false⟩ ∧
        (t.executor site.toNat bank).last = c.group ∧ (t.row c.key).st = .open_ ∧ (t.row c.key).waiton = 0 ∧
        (t.row c.key).pass = 0 ∧ (t.row c.key).pri = c.bind.pri ∧ (t.row c.key).pc = (s.row c.key).pc ∧
        (t.row c.key).g = (s.row c.key).g ∧ t.mem = s.mem)) ∧
    (e.mayActivate s.time = false → Idles s .activation) ∧
    (∀ sl, s.selSlot = some sl → sl.phase = .opening →
      ((s.row sl.row).bad = [] → Makes s .activationComplete (fun t =>
        t.selSlot = some { sl with phase := .open_, openAt := s.time } ∧
        t.quantumStart site bank { sl with openAt := s.time } = (match e.bindOf sl.row.t (s.row sl.row).launch with
          | some b => if s.inGang b sl.row then b.since.getD s.time else s.time
          | none => s.time) ∧
        t.rows = s.rows ∧ t.mem = s.mem)) ∧
      ((s.row sl.row).bad ≠ [] →
        (∀ rec, s.freeSelSlot.frecStore sl.row (s.dir sl.row).site.toNat rec ≠ .later) →
        Makes s .activationComplete (fun t => (t.row sl.row).st = .faulted))) ∧
    (∀ sl, s.selSlot = some sl → sl.phase = .closing → Makes s .rowCloseComplete (fun t => t.selSlot = none ∧
      (t.executor site.toNat bank).preempting = e.preempting.filter (· != s.sel.slot) ∧ t.rows = s.rows ∧ t.mem = s.mem ∧
      t.tens = s.tens))

/-- R252, R253, R255, R256: at the end of its quantum a row is to close, READY, where another could take its place or that of a member
of its gang, with the members of its gang, each at its next boundary; else its quantum restarts, and that of its gang. A candidate
pre-empts an open row of a lower level: the one of its own group, or, where no row holds its group and no slot is free, of the rows of the
lowest level the one that has been open longest; one close at a time. R96, R211: behind the charges
of every 256th cycle, when no row of the executor issues any more in it, the BUD of a row that counts as open and is below CAP rises
by REFILL, no further than CAP; a row whose closure is due closes at its boundary, READY with WAITON 8; the window sum is cleared
every 256 cycles.
The model's own choices in it: log entry 83. -/
def Obligations.ExecutorEvents : Prop :=
  ((∀ (e : Exec) (c : Cand) (i : Fin 8) (sl : Slot), e.victimOf c = some (i, sl) →
    e.slots[i] = some sl ∧ sl.phase = .open_ ∧ sl.level < c.level ∧
    (e.groupHolder c.group ≠ none → sl.group = c.group) ∧
    (e.groupHolder c.group = none → e.freeSlots = 0 ∧ ∀ (j : Fin 8) x, e.slots[j] = some x → x.phase = .open_ →
      sl.level ≤ x.level ∧ (x.level = sl.level → sl.openedAt ≤ x.openedAt))) ∧
  ∀ (s : State) (sl : Slot),
    let site := s.sel.site
    let bank := s.sel.bank
    let e := s.executor site.toNat bank
    let l := s.closeSet site bank sl.row
    let stand := ∀ j ∈ l, ∃ x, e.slots[j.toNat] = some x ∧ x.phase = .open_ ∧ StandsIn s x.row ⟨site, bank, j⟩
    let could := ∃ j ∈ l, ∃ x, e.slots[j.toNat] = some x ∧ s.couldTake x.row = true
    let none_ := ∀ j ∈ l, ∀ x, e.slots[j.toNat] = some x → s.atBoundary x.row = false ∨ (s.row x.row).inGroup = true
    let closed := fun (t : State) => (∀ j ∈ l, ∀ x, e.slots[j.toNat] = some x → t.row x.row =
        { s.row x.row with st := .ready, waiton := 0, readyAt := s.time }) ∧
      (∀ k, (∀ j ∈ l, ∀ x, e.slots[j.toNat] = some x → x.row ≠ k) → t.row k = s.row k) ∧ t.mem = s.mem
    let marked := fun (f : Slot → Slot) (t : State) => t.rows = s.rows ∧ t.mem = s.mem ∧ ∀ j : Fin 8,
      (t.executor site.toNat bank).slots[j] = if BitVec.ofNat 3 j.val ∈ l then (e.slots[j]).map f else e.slots[j]
    (s.selSlot = some sl → sl.phase = .open_ → s.quantumStart site bank sl + s.quantum site bank sl.row ≤ s.time →
      (could → stand → Makes s .quantumExpiry closed) ∧
      (could → none_ → Makes s .quantumExpiry (marked (fun x => { x with expired := true }))) ∧
      (¬could → Makes s .quantumExpiry (fun t => marked (fun x => { x with openAt := s.time }) t ∧
        t.quantumStart site bank { sl with openAt := s.time } = s.time))) ∧
    (∀ i, e.preempting = [] → (s.eligible site bank).findSome? e.victimOf = some (i, sl) →
      let held := fun (t : State) => (t.executor site.toNat bank).preempting = l
      (stand → Makes s .preEmption (fun t => closed t ∧ held t)) ∧
      (none_ → Makes s .preEmption (fun t => marked (fun x => { x with expired := true }) t ∧ held t))) ∧
    (e.preempting ≠ [] → Idles s .preEmption)) ∧
  ((∀ (c : Column) (r : Row), (refill c r).bud.toNat =
      (if r.bud.toNat < c.bcap.toNat then min (r.bud.toNat + c.bref.toNat) c.bcap.toNat else r.bud.toNat) ∧
    { refill c r with bud := r.bud } = r) ∧
  ∀ (s : State),
    let site := s.sel.site.toNat
    let c := s.col site
    let e := s.executor site s.sel.bank
    let seats := fun k => (e.slots.toList.filter (fun x => match x with
      | some sl => sl.row == k && (sl.phase == .open_ || sl.phase == .opening) | none => false)).length
    let issues := s.openSeats.any (fun x => x.site == s.sel.site && x.bank == s.sel.bank && s.readyTime x == some s.time)
    (e.refillAt = s.time → e.refillDue s.time = s.time) ∧ s.time ≤ e.refillDue s.time ∧
    (e.refillDue s.time = s.time → issues = false → Makes s .budgetRefill (fun t =>
      (t.executor site s.sel.bank).refillAt = s.time + 256 ∧ t.mem = s.mem ∧
      ∀ k, (seats k = 1 → t.row k = refill c (s.row k)) ∧ (seats k = 0 → t.row k = s.row k))) ∧
    (e.refillDue s.time ≠ s.time ∨ issues = true → Idles s .budgetRefill) ∧
    (∀ sl, s.selSlot = some sl → sl.phase = .open_ → sl.closeDue = true → sl.expired = false →
      StandsIn s sl.row ⟨s.sel.site, s.sel.bank, s.sel.slot⟩ →
      Makes s .budgetClosure (fun t => t.row sl.row = { s.row sl.row with st := .ready, waiton := 8, readyAt := s.time } ∧
        (∀ k, k ≠ sl.row → t.row k = s.row k) ∧ t.mem = s.mem)) ∧
    (c.winSum ≠ 0 → c.clearAt ≤ s.time →
      Makes s .windowSumClear (fun t => OnlyCol s t site { c with winSum := 0, clearAt := nextCycle c.clearAt s.time }) ∧
      s.time < nextCycle c.clearAt s.time ∧ nextCycle c.clearAt s.time ≤ s.time + 256 ∧ nextCycle c.clearAt s.time % 256 = c.clearAt % 256))

/-- R147, R392, R393: the oldest posted record goes into the tenant's fault ring at TAIL, which advances, or waits while the ring
holds 1,024 entries; without a ring it is dropped; HEAD is read again while a record waits. R146: the oldest event that waits
at a field enters its queue of 1,024, and the field's management core takes the oldest.
The model's own choices in it: log entry 65. -/
def Obligations.QueueEvents : Prop :=
  (∀ (s : State) (a : List Byte) (l : List (List Byte)),
    let k := s.sel.t
    let x := s.ten k
    let base := x.fqbase.toNat
    let u := s.merge (base / 256) none
    let head := u.mem32 base
    let tail := u.mem32 (base + 8)
    (x.fqWait = a :: l →
      (x.fqbase = 0 → Makes s .faultQueueAppend (fun t => OnlyTen s t k { x with fqWait := l })) ∧
      (x.fqbase ≠ 0 → x.fqFull = false → 1024 ≤ (tail - head).toNat →
        Makes s .faultQueueAppend (fun t => OnlyTen u t k { u.ten k with fqFull := true })) ∧
      (x.fqbase ≠ 0 → x.fqFull = false → (tail - head).toNat < 1024 → Makes s .faultQueueAppend (fun t =>
        (t.ten k).fqWait = l ∧ t.rows = s.rows ∧
        t = ((u.setTen k { x with fqWait := l }).coreWrite (base + 64 + 64 * (tail.toNat % 1024)) a).coreWrite (base + 8)
          (natToBytes 4 (tail + 1).toNat)))) ∧
    (x.fqFull = true → (tail - head).toNat < 1024 →
      Makes s .faultRingHeadReread (fun t => OnlyTen u t k { x with fqFull := false }))) ∧
  (∀ (s : State) (e : FieldEvent) (l : List FieldEvent),
    let f := s.sel.field.toNat
    let x := s.field f
    (s.sel.arr = false → x.evWait = e :: l → x.evq.length < 1024 →
      Makes s .fieldEventPost (fun t => OnlyField s t f { x with evq := x.evq ++ [e], evWait := l })) ∧
    (s.sel.arr = false → 1024 ≤ x.evq.length → Idles s .fieldEventPost) ∧
    (s.sel.arr = true → Makes s .fieldEventPost (fun t => OnlyField s t f { x with evq := x.evq.drop 1 })))

/-- R178, R240, R272: a walk that a TLBI covers starts again; one that ends well performs the early store that waits for it, in the
order of its row, and one that faults gives it to the row's replay list; a load that waits for it finds the translation in its
column's TLB, or the fault kept for its group; the same for a matrix job; an early store that has to wait for its row is marked, to be
made at the row's next boundary (R107, R119); where nothing waits for it, nothing else changes. A TLBI is answered once no walk that it covers is left. R210, R224, R228, R229: an element of a reduction that comes
next of its row at its home, and no release before its time, is performed: the word becomes the operation of the old word and
the operand, what the row's column holds of the line being written back and dropped first (R219), and the acknowledgement is on its
way; it takes 1 from PEND, never below 0. A field learns how far another's
writes have performed. R113, R225, R228: an operation parked at its home is performed and answered once its release may become
visible; a parked release is applied then; the dirty sectors of a line are written back and the line stays, clean: where no other
column holds the line, its dirty bytes stand in DRAM then, but for protected ones (R150, R198), and all other bytes as before; a
write-back waits while its field's window of outstanding writes has no room (R212).
The model's own choices in it: log entries 9, 10, 50, 75 and 91. -/
def Obligations.MemoryEvents : Prop :=
  (∀ (s : State) (w : Walk) (z : TlbiOp) (pc : BitVec 32),
    let i := s.sel.span.toNat
    let x := s.span i
    let rest := x.walks.eraseIdx s.sel.k
    let u := s.setSpan i { x with walks := rest }
    (x.walks[s.sel.k]? = some w →
      (w.dropped = true → Makes s .pageWalkComplete (fun t =>
        OnlySpan s t i { x with walks := rest ++ [{ w with dropped := false }] })) ∧
      (w.dropped = false → w.loads = [] → (∀ k ∈ w.rows, ∀ y ∈ (s.row k).early, y.inPage w = false) →
        Makes s .pageWalkComplete (fun t => OnlySpan s t i { x with walks := rest })) ∧
      (∀ a site va, w.dropped = false → w.rows = [] → w.loads = [(a, site, va)] →
        let keep := fun (l : List (Nat × Nat)) n => l.filter (fun y => y.1 != va / 2 ^ 16) ++ [(va / 2 ^ 16, n)]
        (∀ e, s.walk w.t w.va = .ok e → (s.col site.toNat).tlbFind w.t va = none →
          Makes s .pageWalkComplete (fun t => OnlyCol u t site.toNat ((s.col site.toNat).tlbFill e))) ∧
        (∀ k n, a = .row k → s.walk w.t w.va = .error n → (s.row k).mid ≠ .none → Makes s .pageWalkComplete (fun t =>
          OnlyRowAt u t k { s.row k with walked := keep (s.row k).walked n })) ∧
        (∀ c j n, a = .job c j.id → s.walk w.t w.va = .error n → (s.col c.toNat).jobs = [j] → j.st = .running →
          Makes s .pageWalkComplete (fun t => OnlyCol u t c.toNat { s.col c.toNat with jobs := [{ j with walked := keep j.walked n }] }))) ∧
      (∀ k y, w.dropped = false → w.loads = [] → w.rows = [k] → (s.row k).early = [y] → y.inPage w = true →
        let retired := (s.row k).st == .free || (s.row k).st == .retired
        (∀ e v, s.walk w.t w.va = .ok e → u.storeFor k y (!retired) = .ok () v →
          exec .pageWalkComplete s = .next (v.setRow k { v.row k with early := (v.row k).early.erase y })) ∧
        (∀ e, s.walk w.t w.va = .ok e → retired = false → (∃ site, u.storeFor k y true = .move site) ∨ (∃ a b, u.storeFor k y true = .wait a b) →
          Makes s .pageWalkComplete (fun t => OnlyRowAt u t k { s.row k with early := [{ y with due := true }] })) ∧
        (∀ n, s.walk w.t w.va = .error n → (s.row k).st ≠ .free → (s.row k).st ≠ .retired →
          let f := Flt.ofWalk n y.va true
          Makes s .pageWalkComplete (fun t => t.mem = s.mem ∧ (∀ j, j ≠ k → t.row j = s.row j) ∧
            t.row k = ({ s.row k with early := [] } : Row).toReplay { y with due := false, fault := some (f.code, f.sub) })))) ∧
    (s.tlbis[s.sel.k]? = some z → (∀ j y, (j, y) ∈ s.spans → y.walks.any (fun w => w.dropped) = false) → Awaits s z.row pc →
      Makes s .tlbiComplete (fun t => t.tlbis = s.tlbis.eraseIdx s.sel.k ∧ t.mem = s.mem ∧
        t.row z.row = answered (s.row z.row) pc))) ∧
  (∀ (s : State) (x : Red) (k : RowKey) (f g : Fin 12),
    let u : State := { s with reds := s.reds.eraseIdx s.sel.k }
    let w := if x.scratch || !x.counted then u else u.flushLine (s.siteOf x.row) (x.pa / 256)
    (s.reds[s.sel.k]? = some x →
      (s.redMay x = false ∨ s.redFirst s.sel.k x = false → Idles s .reductionPerform) ∧
      (s.redMay x = true → s.redFirst s.sel.k x = true → Makes s .reductionPerform (fun t => t.reds = u.reds ∧
        t.acks = (if x.counted then s.acks ++ [x.row] else s.acks) ∧ t.rows = s.rows ∧
        (x.scratch = false → t.mem = (w.rmwDram (paSlot x.pa) x.pa x.size x.op x.val 0 x.keep).2.mem) ∧
        (x.scratch = true → t.mem = s.mem ∧ t.spans = (u.rmwScratch x.span.toNat x.pa x.size x.op x.val 0).2.spans)))) ∧
    (s.acks[s.sel.k]? = some k → Makes s .reductionAck (fun t => OnlyRowAt { s with acks := s.acks.eraseIdx s.sel.k } t k
      { s.row k with pend := if (s.row k).pend = 0 then 0 else (s.row k).pend - 1 })) ∧
    (s.sel.k = g.val → s.sel.field.toNat = f.val → Makes s .performanceNotice (fun t =>
      OnlyField s t g { s.field g with fav := (s.field g).fav.set f (s.field f).done }))) ∧
  (∀ (s : State) (x : HomeOp) (y : Parked),
    let u : State := ({ s with homeOps := s.homeOps.eraseIdx s.sel.k } : State).performed x.num
    let site := s.siteOf x.row
    let v : State := { s with parked := s.parked.eraseIdx s.sel.k }
    let f := fieldOfSite y.site.toNat
    (s.homeOps[s.sel.k]? = some x →
      (s.homeMay x = false → Idles s .homeOperation) ∧
      (s.homeMay x = true →
        (∀ op size scratch pa w new rd f32 acq, x.op = .atom op size scratch pa w new rd f32 acq →
          Makes s .homeOperation (fun t =>
            t = (u.atomDo x.row site op size scratch pa w new rd f32 acq x.scope x.vec x.keep).answerAt x.row x.pc id)) ∧
        (∀ pa w pd, x.op = .stfe pa w pd → Makes s .homeOperation (fun t =>
          t = (u.stfeHome site pa w x.vec x.keep).2.answerAt x.row x.pc
            (fun r => r.wp pd (u.stfeHome site pa w x.vec x.keep).1))))) ∧
    (s.parked[s.sel.k]? = some y →
      (s.releasable y.row y.seq f (y.loc.field f) y.vec = false → Idles s .parkedReleaseApply) ∧
      (s.releasable y.row y.seq f (y.loc.field f) y.vec = true → Makes s .parkedReleaseApply (fun t =>
        t = (v.applyRelease y.row y.site.toNat y.loc y.attr y.hint y.data y.vec false).performed y.num ∧
        (∀ pa, y.loc = .dram pa → t.parked = v.parked ∧ t.rows = s.rows)))) ∧
    (let site := s.sel.site.toNat
      let line := s.sel.line.toNat
      (s.departRoom (fieldOfSite site) = false → Idles s .writeBack) ∧
      (s.departRoom (fieldOfSite site) = true → Makes s .writeBack (fun t => t.rows = s.rows ∧ t.tens = s.tens ∧ t = s.cleanLine site line ∧
        ∀ l, (s.col site).line line = some l → s.mem.wf = true → (∀ c ∈ s.cols, c.1 ≠ site → c.2.line line = none) → ∀ b,
          t.mem.read b = if b / 256 = line ∧ b % 256 ∈ l.dirty ∧ s.homeKeeps b = false then l.data.read (b % 256) else s.mem.read b))))

/-- R245, R119, R156, R259, R324, R357, R396: a wake-up makes READY, with READYAT the present, exactly the row that waits for it: a
hold wake-up the row that waits with WAITON 2 for its handle; a firing, whose monitor's ARMED bit clears, and a deadline reached
the row with WAITON 1; a write to its word the row in JOINW; the end of the predecessor the row with WAITON 6; FILL at the end
of its access the row with WAITON 5. Of a row that waits for nothing of the kind no register changes but that ARMED bit. R315,
R231: the first answer to a deferred LDFE of a word is written, its predicate set, and the row is READY behind the instruction,
an acquire. R159: an abandonment that no hold operation of the row at that home precedes acts there: the row's waiting
places are abandoned, LIVE falling by 1 for each, and a place that it holds is freed as by a succession with FORFEIT; a hold operation
of the row that stands behind a faulted store is discarded.
The model's own choices in it: log entries 47 and 49. -/
def Obligations.WakeEvents : Prop :=
  ∀ s : State,
    let n := s.sel.k
    let k := s.selRow
    let r := s.row k
    let ready := fun (x : Row) => { x with st := RowSt.ready, readyAt := s.time }
    (∀ w, s.holdWakes[n]? = some w →
      let y := s.row w.row
      let u : State := { s with holdWakes := s.holdWakes.eraseIdx n }
      (y.st = .waiting ∧ y.waiton = 2 ∧ y.hold = w.handle → Makes s .wake (fun t => OnlyRowAt u t w.row (ready y))) ∧
      (y.st ≠ .moving → ¬(y.st = .waiting ∧ y.waiton = 2 ∧ y.hold = w.handle) → exec .wake s = .next u) ∧
      (y.st = .moving → Idles s .wake)) ∧
    (∀ x, s.fires[n]? = some x →
      let y := s.row x.row
      let u : State := { s with fires := s.fires.eraseIdx n }
      let z := { y with mon := y.mon.set x.k.toNat ⟨x.line, false⟩ }
      (y.mon[x.k.toNat] = ⟨x.line, true⟩ → Makes s .monitorFire (fun t =>
        OnlyRowAt u t x.row (if y.st = .waiting ∧ y.waiton = 1 ∧ y.joinw = none then ready z else z))) ∧
      (y.mon[x.k.toNat] ≠ ⟨x.line, true⟩ → exec .monitorFire s = .next u)) ∧
    (∀ j, s.joinWakes[n]? = some j →
      let y := s.row j
      let u : State := { s with joinWakes := s.joinWakes.eraseIdx n }
      (y.st = .waiting ∧ y.joinw ≠ none → Makes s .joinwWake (fun t => OnlyRowAt u t j (ready { y with joinw := none }))) ∧
      (¬(y.st = .waiting ∧ y.joinw ≠ none) → exec .joinwWake s = .next u)) ∧
    (∀ d, r.deadline = some d → r.st = .waiting → r.waiton = 1 →
      (d.toNat ≤ (s.timeAt (s.siteOf k)).toNat → Makes s .wfxDeadline (fun t => OnlyRowAt s t k (ready r))) ∧
      ((s.timeAt (s.siteOf k)).toNat < d.toNat → Idles s .wfxDeadline)) ∧
    (∀ w e, r.fill = some (w, e) → r.st = .waiting → r.waiton = 5 →
      (e ≤ (s.col (s.siteOf k)).fillOf w → Makes s .windowFillWake (fun t => OnlyRowAt s t k (ready { r with fill := none }))) ∧
      ((s.col (s.siteOf k)).fillOf w < e → Idles s .windowFillWake)) ∧
    (r.st = .waiting → r.waiton = 6 →
      (s.liveLaunch k.t r.predid = false → Makes s .waitpWake (fun t => OnlyRowAt s t k (ready r))) ∧
      (s.liveLaunch k.t r.predid = true → Idles s .waitpWake)) ∧
    (r.st ≠ .waiting → Idles s .wfxDeadline ∧ Idles s .windowFillWake ∧ Idles s .waitpWake) ∧
    (∀ x, s.ldfeAns[n]? = some x →
      let y := s.row x.row
      let first := (s.ldfeAns.take n).any (fun z => z.pa == x.pa) = false
      let u : State := { s with ldfeAns := s.ldfeAns.eraseIdx n }
      (first → y.st = .waiting → y.waiton = 4 → y.held = [] → y.stepping = false → y.stepper = none →
        Makes s .ldfeAnswerWake (fun t => t.ldfeAns = u.ldfeAns ∧
          (let z : Row := { (y.wg x.rd x.value).wp x.pd true with pc := x.next };
            t.row x.row = ready (match x.vec with | some v => { z with dv := joinVec y.dv v, ahead := [] } | none => z)) ∧
          ∀ j, j ≠ x.row → t.row j = s.row j)) ∧
      (first → y.st ≠ .moving → ¬(y.st = .waiting ∧ y.waiton = 4) → exec .ldfeAnswerWake s = .next u) ∧
      (y.st = .moving ∨ ¬first → Idles s .ldfeAnswerWake)) ∧
    (∀ y, s.abandons[n]? = some y →
      let span := y.span.toNat
      let site := s.siteOf y.row
      let waits := s.placesOf y.row span 1
      let holds := s.placesOf y.row span 2
      let own := fun (o : HomeOp) => o.row == y.row && o.home == y.span &&
        (match o.op with | .hgive _ _ _ => true | .hrel _ => true | .atom _ _ _ _ _ _ _ _ _ => false | .stfe _ _ _ => false)
      let before := s.homeOps.any (fun o => own o && !s.stuck y.row o.seq)
      (before = true → Idles s .placeAbandonment) ∧
      (before = false → Makes s .placeAbandonment (fun t =>
        t.abandons = s.abandons.eraseIdx n ∧ t.homeOps = s.homeOps.filter (fun o => !own o) ∧ t.rows = s.rows ∧ t.tens = s.tens ∧
        (waits = [] → holds = [] → t.mem = s.mem ∧ t.spans = s.spans) ∧
        (holds = [] → ∀ i ∈ waits, (t.place_ span i).st = 3) ∧
        (∀ i, MemoryForm s → waits = [i] → holds = [] →
          let pa := (s.place_ span i).word
          let w := (s.holdReady site pa).holdWord pa;
          t.place_ span i = { s.place_ span i with st := 3 } ∧ t.holdWord pa = { w with live := w.live - 1 }) ∧
        (∀ i, waits = [] → holds = [i] →
          let v := (s.holdReady site (s.place_ span i).word).succeed span i true;
          (∀ j, t.place_ span j = v.place_ span j) ∧ t.mem = v.mem ∧ t.holdWakes = v.holdWakes))))

/-- R144, R206, R208, R246, R257: a message that its target takes raises SHARE at the counting column, joins the queue and sets
the parent's predicate; one that bounces clears it. At the head of the queue it makes a child in the bank and FREE row chosen:
READY at its PC, with its arguments in g1 to g8; where no bank takes it, event 4 is posted once. A message waits while its target's field
has no room in its window of outstanding writes (R212). R258: a moving row whose slot
is free is placed at its target: it is READY with g0 to g23 and its control block, all its other bytes 0; a move that fails
leaves it READY at its source, with MIGRATE_FAIL to be raised, the subcode naming the cause.
The model's own choices in it: log entries 40, 44, 51, 54, 75 and 91. -/
def Obligations.SpawnEvents : Prop :=
  (∀ (s : State) (m : SpawnMsg) (l : List SpawnMsg),
    let site := s.sel.site
    let c := s.col site.toNat
    let f := fieldOfSite site.toNat
    let ready := s.releasable m.src m.seq (fieldOfSite (s.siteOf m.src)) (fieldOfSite m.target.toNat) (some m.dv) &&
      s.departRoom (fieldOfSite m.target.toNat)
    let joins := fun (s t : State) => t.spawns = s.spawns.eraseIdx s.sel.k ∧
      (t.col m.target.toNat).spawnq = (s.col m.target.toNat).spawnq ++ [m] ∧
      (t.col m.ccol.toNat).comp = compStep (s.col m.ccol.toNat).comp m.tenant m.lnch true
    (s.spawns[s.sel.k]? = some m → ready = false → Idles s .spawnMessageArrival) ∧
    (s.spawns[s.sel.k]? = some m → ready = true → Awaits s m.src m.next →
      (s.bounces m = true → Makes s .spawnMessageArrival (fun t => t.spawns = s.spawns.eraseIdx s.sel.k ∧
        t.row m.src = answered ((s.row m.src).wp m.pd false) m.next ∧ t.mem = s.mem ∧ t.cols = s.cols)) ∧
      (s.bounces m = false → m.join = 0 → Makes s .spawnMessageArrival (fun t => joins s t ∧ t.mem = s.mem ∧
        t.row m.src = answered ((s.row m.src).wp m.pd true) m.next)) ∧
      (∀ pa attr v, s.bounces m = false → m.join ≠ 0 →
        s.check ⟨m.tenant, (s.row m.src).priv, s.siteOf m.src, true, none⟩ .atom (addr48 m.join) 8 = .ok (.dram pa, attr) v →
        v.spawns = s.spawns → v.sel = s.sel → Awaits v m.src m.next → Makes s .spawnMessageArrival (fun t => joins v t ∧
          t.row m.src = answered ((v.row m.src).wp m.pd true) m.next))) ∧
    (c.spawnq = m :: l → (s.ten m.tenant).st = .active →
      (s.chooseBank m.tenant m.lnch site = none → m.posted = false → Makes s .spawnServe (fun t =>
        (t.col site.toNat).spawnq = { m with posted := true } :: l ∧
        (t.field f).evWait = (s.field f).evWait ++ [⟨4, m.tenant, site, m.lnch⟩] ∧ t.rows = s.rows ∧ t.mem = s.mem)) ∧
      (s.chooseBank m.tenant m.lnch site = none → m.posted = true → Idles s .spawnServe) ∧
      (∀ bank n copy, s.chooseBank m.tenant m.lnch site = some (bank, n, copy) →
        (∀ e, compOf (s.col m.ccol.toNat).comp m.tenant m.lnch = some e → e.cancelled = false) →
        Makes s .spawnServe (fun t =>
          let r := t.row ⟨m.tenant, n⟩
          r.st = .ready ∧ r.pc = m.pc ∧ r.launch = m.lnch ∧ r.rowid = n ∧ r.bud = c.bcap.setWidth 32 ∧ r.join = m.join ∧
          r.countCol = m.ccol ∧ r.priv = false ∧ (∀ i v, i < 8 → m.args[i]? = some v → r.rg (BitVec.ofNat 6 (i + 1)) = v) ∧
          (∀ k, k ≠ ⟨m.tenant, n⟩ → t.row k = s.row k) ∧ (t.col site.toNat).spawnq = l)))) ∧
  (∀ (s : State) (site : BitVec 10),
    let k := s.selRow
    let r := s.row k
    r.move = some site → r.st = .moving → s.slotOf k = none → r.held = [] → r.stepping = false → r.stepper = none →
      (∀ x, s.moveFails k site = none → s.chooseBank k.t r.launch site = some x → (s.row ⟨k.t, x.2.1⟩).st = .free →
        Makes s .migrationPlacement (fun t => t.row k = { r with
            move := none, waiton := 0, st := .ready, readyAt := s.time, work := [], bad := []
            g := Vector.ofFn (fun (i : Fin 64) => if i.val < 24 then r.g[i] else 0) } ∧
          ∀ j, j ≠ k → j ≠ ⟨k.t, x.2.1⟩ → t.row j = s.row j)) ∧
      ((∀ y ∈ r.early, y.due = false) → r.moveRefused s.ops = r) ∧
      (∀ n, s.moveFails k site = some n → Makes s .migrationPlacement (fun t => t.row k = { r.moveRefused s.ops with
          move := none, waiton := 0, st := .ready, readyAt := s.time
          deferred := r.deferred ++ [⟨0x0D, n, 5, false, false, r.pc, r.pc, site.setWidth 64, 0, r.prog, 0⟩] } ∧
        ∀ j, j ≠ k → t.row j = s.row j)))

/-! ## Events of launches, columns and jobs -/

/-- R136, R205, R248: the first launch of an active tenant that waits is placed once a plan for all its cells exists and its
tables and channels have room, no LOAD of the tenant is at work and none of its columns is due to retire: it
stands in the wafer's completion table, SHARE of every column counts its cells there, and it is PLACED with the grid and the
columns in service of that moment (R297); while anything is lacking, nothing happens. R41, R233, R249: the launch unit of a
column allocates FREE rows of the cells' banks, all different, for the cells placed there, or waits while one is lacking, writes
every row and starts it: READY at ENTRY, with its cell's grid coordinates, its piece of each
extent, and BUD at CAP; while the tenant is not active it starts none (R273, R276).
The model's own choices in it: a launch is not placed while a column is due to retire (log entry 20, DEDUCED), nor while a LOAD
of the tenant is at work (log entry 87, DEDUCED); the rows of a placed launch are set aside by count (log entry 76), and a gang's
in rising groups (log entry 77). -/
def Obligations.LaunchEvents : Prop :=
  (∀ (s : State) (l : Launch),
    let k := s.sel.t
    let x := s.ten k
    x.launches.find? (fun y => y.phase == .waiting) = some l →
      (x.st ≠ .active ∨ x.loading ≠ none ∨ s.retirementDue k = true → Idles s .launchPlacement) ∧
      (s.plan k l = none → Idles s .launchPlacement) ∧
      (∀ p, s.plan k l = some p → s.planFits l p = false → Idles s .launchPlacement) ∧
      (∀ p, x.st = .active → x.loading = none → s.retirementDue k = false → s.plan k l = some p → s.planFits l p = true →
        Makes s .launchPlacement (fun t =>
        t.wcomp = s.wcomp ++ [⟨k, l.id, BitVec.ofNat 18 (((planSites p).map (fun c => fieldOfSite c.toNat)).eraseDups).length, false⟩] ∧
        (∀ c ∈ planSites p, (t.col c.toNat).comp = (s.col c.toNat).comp ++
          [⟨k, l.id, BitVec.ofNat 18 (p.filter (fun y => y.site == c)).length, false⟩]) ∧
        (t.ten k).launches = x.launches.map (fun y =>
          if y.id = l.id then { y with phase := .placed, grid := x.cols, wcols := s.serviceCount, todo := p } else y) ∧
        t.rows = s.rows ∧ t.mem = s.mem))) ∧
  (∀ (s : State) (l : Launch) (c : Cell) (n : BitVec 32) (rows : List (Cell × BitVec 32)),
    let k := s.sel.t
    let site := s.sel.site
    let w := recField l.record 0 2
    let h := recField l.record 2 2
    let e0 := recField l.record 4 4
    let e1 := recField l.record 8 4
    let here := l.todo.filter (fun d => d.site == site)
    ((s.ten k).st ≠ .active → Idles s .launchRowStart) ∧
    ((s.ten k).st = .active → (s.ten k).launch s.sel.lnch = some l → c ∈ here → covers (s.field (fieldOfSite site.toNat)).fav l.vec = true →
      (s.allotCells k l.id here = none → Idles s .launchRowStart) ∧
      (s.allotCells k l.id here = some rows → (c, n) ∈ rows → rows.map (·.1) = here ∧ (rows.map (·.2)).Nodup ∧
        (s.row ⟨k, n⟩).st = .free ∧ (s.dir ⟨k, n⟩).site = c.site ∧ (s.dir ⟨k, n⟩).bank = c.bank) ∧
      (s.allotCells k l.id here = some rows → (c, n) ∈ rows → l.cancelled = false → Makes s .launchRowStart (fun t =>
        let r := t.row ⟨k, n⟩
        r.st = .ready ∧ r.pc = BitVec.ofNat 32 (recField l.record 0x0C 4) ∧ r.launch = l.id ∧ r.rowid = n ∧
        r.priv = false ∧ r.predid = l.predid ∧ r.bud = (s.col site.toNat).bcap.setWidth 32 ∧ r.lx = BitVec.ofNat 16 (c.c % w) ∧
        r.ly = BitVec.ofNat 16 (c.c / w) ∧ r.gridw = BitVec.ofNat 16 w ∧ r.gridh = BitVec.ofNat 16 h ∧
        r.base0 = BitVec.ofNat 32 (c.c % w * pieceOf e0 w) ∧ r.base1 = BitVec.ofNat 32 (c.c / w * pieceOf e1 h) ∧
        r.ext0 = BitVec.ofNat 32 (extOf e0 w (c.c % w)) ∧ r.ext1 = BitVec.ofNat 32 (extOf e1 h (c.c / w)) ∧
        ∀ j, (∀ d ∈ rows, j ≠ ⟨k, d.2⟩) → t.row j = s.row j))))

/-- R205, R207, R208, R210, R212, R259: a retirement whose stores have performed, in whose field's window of outstanding writes there is
room, lowers SHARE, and the row's join word by a reduction that is a release; SHARE 0 frees the column's entry, posts event 1 and lowers COLS; COLS 0 lowers FIELDS; at FIELDS 0 the
launch is complete and its RETIRED rows are FREE. The record that SUCC names is issued once, when the launch is complete or
has hinted.
The model's own choices in it: log entries 44, 46, 48 and 75. -/
def Obligations.CompletionEvents : Prop :=
  ∀ (s : State) (x : Retire) (l : Launch),
    let k := s.sel.t
    let id := s.sel.lnch
    let site := s.sel.site
    let f := fieldOfSite site.toNat
    let g := s.sel.field.toNat
    let marked := fun (e : Comp) (z : List Comp) => if e.cancelled then markCancelled k id z else z
    let u := s.releaseFar (s.siteOf x.row)
    let room := u.departRoom (fieldOfSite (s.siteOf x.row))
    (s.retires[s.sel.k]? = some x →
      (u.settled x.row = false ∨ room = false → exec .retirementCount s = .next u) ∧
      (u.settled x.row = true → room = true → x.join = 0 → Makes s .retirementCount (fun t =>
        t.retires = s.retires.eraseIdx s.sel.k ∧ t.rows = s.rows ∧ t.reds = s.reds ∧
        (t.col x.site.toNat).comp = compStep (s.col x.site.toNat).comp x.row.t x.lnch false)) ∧
      (∀ pa attr v, u.settled x.row = true → room = true → x.join ≠ 0 →
        u.check ⟨x.row.t, x.sup, s.siteOf x.row, true, none⟩ .atom (addr48 x.join) 8 = .ok (.dram pa, attr) v →
        Makes s .retirementCount (fun t => t.retires = v.retires.eraseIdx v.sel.k ∧ t.rows = v.rows ∧
          (∃ y, t.reds = v.reds ++ [y] ∧ y.row = x.row ∧ y.op = .add ∧ y.size = 8 ∧ y.pa = pa ∧ y.val = BitVec.allOnes 64 ∧ y.rel = true ∧
            y.vec = some (u.releaseVec x.row (fieldOfSite (s.siteOf x.row)))) ∧
          (t.col x.site.toNat).comp = compStep (v.col x.site.toNat).comp x.row.t x.lnch false))) ∧
    (∀ e, compOf (s.col site.toNat).comp k id = some e → e.count = 0 → Makes s .columnReport (fun t =>
      (t.col site.toNat).comp = (s.col site.toNat).comp.filter (fun y => !(y.t == k && y.lnch == id)) ∧
      (t.field f).evWait = (s.field f).evWait ++ [⟨1, k, site, id⟩] ∧
      (t.field f).comp = marked e (compStep (s.field f).comp k id false) ∧ t.rows = s.rows ∧ t.mem = s.mem)) ∧
    (∀ e, compOf (s.col site.toNat).comp k id = some e → e.count ≠ 0 → Idles s .columnReport) ∧
    (∀ e w, compOf (s.field g).comp k id = some e → e.count = 0 →
      compOf (marked e (compStep s.wcomp k id false)) k id = some w →
      (w.count ≠ 0 → Makes s .fieldReport (fun t => t.wcomp = marked e (compStep s.wcomp k id false) ∧ t.rows = s.rows ∧
        (t.field g).comp = (s.field g).comp.filter (fun y => !(y.t == k && y.lnch == id)))) ∧
      (w.count = 0 → (s.ten k).launch id = some l → Makes s .fieldReport (fun t =>
        (∀ j, t.row j = if j.t = k ∧ (s.row j).launch = id ∧ (s.row j).st = .retired then { s.row j with st := .free } else s.row j) ∧
        t.liveLaunch k id = false ∧ (l.succ = 0 ∨ l.succIssued = true → (t.ten k).launch id = none)))) ∧
    ((s.ten k).launch id = some l → l.succ ≠ 0 → l.succIssued = false → l.hinted = true ∨ l.phase = .complete →
      ∀ record v new t', s.recordAt ⟨k, l.sup, ((s.ten k).cols.headD 0).toNat, true, none⟩ (addr48 l.succ) = .ok record v →
      v.submit k record l.sup l.id l.vec = .ok (new, t') →
      Makes s .successorIssue (fun t => OnlyTen t' t k { t'.ten k with
        launches := (if l.phase = .complete then (t'.ten k).launches.filter (fun z => z.id != l.id)
          else (t'.ten k).launches.map (fun z => if z.id == l.id then { z with succIssued := true } else z)) }))

/-- R133, R134, R138, R141-R143, R209, R342: a neighbour's push, behind the earlier ones of its row to the channel, is entered at TAIL,
its value and its control bit being written there, or refused; a sector's bytes are written into its window at its offset, and where its arrival bit was clear, that is set and FILL raised to the end of the filled run; the last sector of a HALO part raises the
neighbour's counter; a metadata sector's entries are held at their queue; a held metadata entry joins its queue of 64 in order; a transfer whose sectors have all arrived ends,
with 1 added to its DONE word. R140, R375, R378, R385, R403: the bytes of a peer's block on a paired link are written into its window at their offset and
its descriptor joins the queue of 256, SEQ counting the blocks of the link; the peer's acknowledgement ends a block, with 1
added to its DONE word; a pairing completes for the tenant that owns the gateway column; where it ends, the blocks not
acknowledged are discarded and the queue stays.
The model's own choices in it: log entries 45, 63, 75 and 81. -/
def Obligations.ArrivalEvents : Prop :=
  (∀ (s : State) (m : Push) (x : Send),
    let site := s.sel.site.toNat
    let c := s.col site
    let q := s.sel.q.toNat
    let ch := s.chan m.target.toNat m.ch
    let ready := s.releasable m.row m.seq (fieldOfSite (s.siteOf m.row)) (fieldOfSite m.target.toNat) m.vec &&
      !s.pushAhead m.row m.target.toNat m.ch m.seq
    let gone := (m.bound = true ∧ ch.bound = false) ∨ (ch.bound = true ∧ ch.lnch ≠ m.lnch)
    (s.pushes[s.sel.k]? = some m → ready = false → Idles s .neighbourPushArrival) ∧
    (s.pushes[s.sel.k]? = some m → ready = true → Awaits s m.row m.next →
      (¬gone → ch.count.toNat < 512 → Makes s .neighbourPushArrival (fun t =>
        (t.chan m.target.toNat m.ch).tail = ch.tail + 1 ∧ (t.chan m.target.toNat m.ch).count = ch.count + 1 ∧
        bit (t.chan m.target.toNat m.ch).ctl ch.tail.toNat = m.ctl ∧ (t.col m.target.toNat).scratch =
          (s.col m.target.toNat).scratch.writeBytes (0x20000 + 0x1000 * m.ch.toNat + 8 * ch.tail.toNat) (natToBytes 8 m.value.toNat) ∧
        t.row m.row = answered ((s.row m.row).wp m.pd true) m.next ∧ t.mem = s.mem)) ∧
      (gone ∨ 512 ≤ ch.count.toNat → Makes s .neighbourPushArrival (fun t =>
        t.cols = s.cols ∧ t.row m.row = answered ((s.row m.row).wp m.pd false) m.next))) ∧
    (c.serving s.sel.k = some x →
      (∀ k d, x.kind = .window k ∨ x.kind = .halo k → x.sectors[s.sel.j]? = some d → Makes s .sectorArrival (fun t =>
        let y := s.col d.target.toNat
        let z := t.col d.target.toNat
        z.scratch = y.scratch.writeBytes (0x4000 * k.toNat + d.off) d.data ∧
        (bit y.arr[k.toNat] (d.off / 32) = true → z.arr = y.arr ∧ z.wmk = y.wmk) ∧
        (bit y.arr[k.toNat] (d.off / 32) = false → z.arr[k.toNat] = setBit y.arr[k.toNat] (d.off / 32) true ∧
          z.wmk[k.toNat].toNat = max y.wmk[k.toNat].toNat (32 * runLength (setBit y.arr[k.toNat] (d.off / 32) true) 512 0)) ∧
        t.rows = s.rows ∧ t.mem = s.mem)) ∧
      (∀ k d, x.kind = .metadata k → x.sectors[0]? = some d → Makes s .sectorArrival (fun t =>
        let y := s.col d.target.toNat
        let z := t.col d.target.toNat
        z.scratch = y.scratch ∧ z.arr = y.arr ∧ z.wmk = y.wmk ∧ z.mq = y.mq ∧ z.mqHeld[k.toNat] = y.mqHeld[k.toNat] ++
          (List.range (d.data.length / 16)).map (fun j => ofBytes 128 ((d.data.drop (16 * j)).take 16)) ∧
        t.rows = s.rows ∧ t.mem = s.mem)) ∧
      (∀ d, x.parts[s.sel.j]? = some d → x.sectors.any (fun y => y.target == d.target) = false → Makes s .haloArrival (fun t =>
        (t.col d.target.toNat).mb[d.counter.toNat] = (s.col d.target.toNat).mb[d.counter.toNat] + 1 ∧ t.rows = s.rows ∧ t.mem = s.mem)) ∧
      (s.departRoom (fieldOfSite site) = false → Idles s .targetAcknowledgement) ∧
      (x.sectors = [] → x.parts = [] → s.departRoom (fieldOfSite site) = true →
        (x.done = none → Makes s .targetAcknowledgement (fun t => OnlyCol s t site { c with sends := c.sends.eraseIdx s.sel.k })) ∧
        (∀ pa keep, x.done = some (pa, keep) → Makes s .targetAcknowledgement (fun t =>
          (∃ y, t.reds = s.reds ++ [y] ∧ y.op = .add ∧ y.size = 8 ∧ y.pa = pa ∧ y.keep = keep ∧ y.val = 1 ∧ y.vec = x.vec ∧
            y.counted = false) ∧
          (t.col site).sends = c.sends.eraseIdx s.sel.k ∧ t.rows = s.rows ∧ t.mem = s.mem)))) ∧
    (∀ e l, c.mqHeld[q] = e :: l →
      (c.mq[q].length < 64 → Makes s .metadataArrival (fun t =>
        OnlyCol s t site { c with mqHeld := c.mqHeld.set q l, mq := c.mq.set q (c.mq[q] ++ [e]) })) ∧
      (64 ≤ c.mq[q].length → Idles s .metadataArrival))) ∧
  (∀ (s : State) (i : Nat) (link : Link) (b : GateSend) (p : Pairing),
    let site := link.site.toNat
    let c := s.col site
    let data := s.sel.acc.data
    let here := s.sel.site.toNat
    (s.links.find? (fun y => y.1 == s.sel.link.toNat) = some (i, link) →
      (link.paired ≠ none → c.gateq.length < 256 → s.sel.k % 32 = 0 → data.length % 32 = 0 → s.sel.k + data.length ≤ 16384 →
        Makes s .gatewayBlockArrival (fun t =>
          (t.col site).scratch = c.scratch.writeBytes (0x4000 * s.sel.slot.toNat + s.sel.k) data ∧
          (t.col site).gateq = c.gateq ++ [⟨blockBytes s.sel.word s.sel.slot s.sel.k data.length (link.seq + 1)⟩] ∧
          (NMap.get link t.links i).seq = link.seq + 1 ∧ t.rows = s.rows ∧ t.mem = s.mem)) ∧
      (link.paired = none ∨ 256 ≤ c.gateq.length → Idles s .gatewayBlockArrival) ∧
      (let ends := fun (t : State) => (t.col site).gateOut = [] ∧ (t.col site).gateq = c.gateq ∧ t.rows = s.rows ∧ t.mem = s.mem ∧
          (NMap.get link t.links i).paired = none;
        Makes s .linkFailure ends ∧ Makes s .pairingEnd ends) ∧
      (link.pairing = some p → c.owner = some p.t → s.sel.arr = false → Makes s .pairingComplete (fun t =>
        (NMap.get link t.links i).paired = some p.t ∧ (NMap.get link t.links i).pairing = none ∧ t.rows = s.rows ∧
        t.mcmds = s.mcmds.drop 1)) ∧
      (link.pairing = some p → s.sel.arr = true → Makes s .pairingComplete (fun t =>
        (NMap.get link t.links i).paired = link.paired ∧ (NMap.get link t.links i).pairing = none ∧ t.rows = s.rows ∧
        t.mcmds = s.mcmds.drop 1))) ∧
    (s.departRoom (fieldOfSite here) = false → Idles s .peerQueued) ∧
    ((s.col here).gateOut[s.sel.k]? = some b → s.departRoom (fieldOfSite here) = true →
      (b.done = none → Makes s .peerQueued (fun t =>
        OnlyCol s t here { s.col here with gateOut := (s.col here).gateOut.eraseIdx s.sel.k })) ∧
      (∀ pa keep, b.done = some (pa, keep) → Makes s .peerQueued (fun t => (t.col here).gateOut = (s.col here).gateOut.eraseIdx s.sel.k ∧
        t.rows = s.rows ∧ ∃ y, t.reds = s.reds ++ [y] ∧ y.op = .add ∧ y.size = 8 ∧ y.pa = pa ∧ y.keep = keep ∧ y.val = 1 ∧ y.vec = some b.vec))))

/-- R137, R362, R367: an array without a job starts the first queued job of its modes; with M or N 0 it ends at once. A tile
computed is counted, and behind the last, or a cancel, the job ends. An operand fault suspends the job with a notice, or ends
it FAULT. A cancel that reaches a job not finished marks it. A job that has ended leaves the column with its status on its way
to its row, which is woken. What of a job's accesses needs a page walk waits for it, in the order of arrival (R178).
The model's own choices in it: log entries 56 and 75. -/
def Obligations.JobEvents : Prop :=
  ∀ (s : State) (x : Job) (pc : BitVec 32),
    let site := s.sel.site.toNat
    let c := s.col site
    let e := Extents.ofBits x.opsnap
    let n := s.sel.k
    let mine := fun (y : Job) => (Extents.ofBits y.opsnap).signSelect == s.sel.arr
    (c.jobs = [x] → mine x = true → x.st = .queued → (s.ten x.row.t).st = .active →
      (e.m = 0 ∨ e.n = 0 → Makes s .jobStart (fun t => OnlyCol s t site { c with jobs := [{ x with st := .finished, progw := 0 }] })) ∧
      (∀ bs v, e.m ≠ 0 → e.n ≠ 0 → x.progw.toNat < e.tiles → e.k ≠ 0 → (s.acquireFar site).jobRead (x.who site) .record x.opRec 48 = .ok bs v →
        Makes s .jobStart (fun t => OnlyCol v t site { v.col site with
          jobs := (v.col site).jobs.set 0 { x with st := .running, oprec := bs } }))) ∧
    (s.selJob = some x → x.st = .running → e.mode ≠ 3 →
      (∀ a, s.jobTile site x = .miss a → Makes s .tileComplete (fun t => t = s.waitWalk (x.who site) a) ∧
        Makes s .operandFault (fun t => t = s.waitWalk (x.who site) a)) ∧
      (∀ y v, s.jobTile site x = .ok y v → y.progw = x.progw + 1 ∧ Makes s .tileComplete (fun t =>
        OnlyCol (v.leaveQueue (x.who site)) t site { v.col site with
        jobs := (v.col site).jobs.set n { y with st := if (Extents.ofBits y.opsnap).tiles ≤ y.progw.toNat ∨ y.cancel = true then .finished
          else if (v.ten y.row.t).st = .active then .running else .suspended, walked := [] } })) ∧
      (∀ f, s.jobTile site x = .fault f → x.cancel = false →
        let y : Job := { x with walked := [], fcode := (f.sub ++ f.code).setWidth 32, faddr := f.addr, fwrite := f.write }
        (f.code = 0x05 → f.sub = 1 → bit (s.ten x.row.t).fpol 4 = true → Makes s .operandFault (fun t =>
          t.col site = { c with jobs := c.jobs.set n { y with st := .suspended } } ∧ t.mem = s.mem ∧
          ∃ rec, (t.ten x.row.t).fqWait = (s.ten x.row.t).fqWait ++ [rec])) ∧
        (f.code ≠ 0x05 ∨ f.sub ≠ 1 ∨ bit (s.ten x.row.t).fpol 4 = false → Makes s .operandFault (fun t =>
          OnlyCol (s.leaveQueue (x.who site)) t site { c with jobs := c.jobs.set n { y with defer := true, st := .finished } })))) ∧
    (∀ m, s.mxcans[n]? = some m → Awaits s m.row pc →
      ((s.col m.site.toNat).jobs = [] → Makes s .mxcanAtColumn (fun t => t.mxcans = s.mxcans.eraseIdx n ∧ t.cols = s.cols ∧
        t.row m.row = answered ((s.row m.row).wp m.pd false) pc)) ∧
      ((s.col m.site.toNat).jobs = [x] → x.id = m.job → x.row = m.row → x.st ≠ .finished → Makes s .mxcanAtColumn (fun t =>
        (t.col m.site.toNat).jobs = [{ x with
          cancel := true
          st := (if x.st = .running ∧ (s.col m.site.toNat).stalled x = false then .running else .finished) }] ∧
        t.row m.row = answered ((s.row m.row).wp m.pd true) pc))) ∧
    (s.selJob = some x → x.st = .finished →
      ((s.ten x.row.t).st ≠ .active → Idles s .jobCompletion) ∧
      (∀ a, (s.ten x.row.t).st = .active → s.check (x.who site) .store x.mbox 8 = .miss a →
        Makes s .jobCompletion (fun t => t = s.waitWalk (x.who site) a)) ∧
      ((∀ a, s.check (x.who site) .store x.mbox 8 ≠ .miss a) → s.endJob site x false = none → Idles s .jobCompletion) ∧
      (∀ v, (s.ten x.row.t).st = .active → (∀ a, s.check (x.who site) .store x.mbox 8 ≠ .miss a) → s.endJob site x false = some v → Makes s .jobCompletion (fun t => t = v ∧ t.rows = s.rows ∧
        (∀ y ∈ (t.col site).jobs, y.id ≠ x.id) ∧ ∃ m, t.jobNotes = s.jobNotes ++ [m] ∧ m.row = x.row ∧ m.ticket = x.ticket ∧
        m.status = x.progw ++ x.id ++ 0#6 ++ x.flags ++ (if x.defer then 2#4 else if x.cancel then 3#4 else 1#4)))) ∧
    (∀ m, s.jobNotes[n]? = some m →
      let r := s.row m.row
      let l := r.tickets.map (fun y => if y.ticket == m.ticket then
        { y with st := if m.fault.isSome then .faulted else .done, status := m.status, fault := m.fault, vec := m.vec } else y)
      let ended := fun (y : Ticket) => y.ticket == m.ticket && y.st == .done
      let l := l.filter (fun y => !ended y) ++ l.filter ended
      let u : State := { s with jobNotes := s.jobNotes.eraseIdx n }
      (r.st = .waiting → r.waiton = 3 → r.jobWait = none ∨ r.jobWait = some m.ticket → Makes s .completionNotice (fun t =>
        OnlyRowAt u t m.row { r with tickets := capDone l, st := .ready, readyAt := s.time })) ∧
      (r.st ≠ .waiting → Makes s .completionNotice (fun t => OnlyRowAt u t m.row { r with tickets := capDone l })))

/-! ## Events of the device, its tenants and its host -/

/-- R116, R117, R213: a way-partition transition ends with WPART at its new value and the ways between zero-filled, and its SRW
goes on; a way that has woken is zero-filled and in service; a corrected error raises CECNT, which from CETHR on makes the
column SUSPECT with event 3; it leaves the count 2^30 cycles later; a column that is not in service corrects none and meets no tester
(R407). R123, R180, R271, R408, R409: a suspect column in service
is retired at once where no tenant owns it, and at its tenant's launch boundary otherwise, its rows relocated and packed; a demand access that meets the
tester raises TESTPRE; the sensor of a good column at 105 degrees or above sets THROT, and it clears when every sensor reads below 95; MPLIM
takes values from 100 to the 960 of grade A or the 910 of grade B; where THROT or MPLIM change, every PCAP.LIM follows.
The model's own choices in it: log entries 8, 17, 20, 24, 36 and 70. -/
def Obligations.DeviceEvents : Prop :=
  (∀ (s : State) (n : BitVec 4) (k : RowKey) (pc : BitVec 32),
    let i := s.sel.span.toNat
    let x := s.span i
    let w := s.sel.way.toNat
    let site := s.sel.site
    let c := s.col site.toNat
    let times := c.ceTimes.filter (fun a => s.time < a + 2 ^ 30) ++ [s.time]
    let count := BitVec.ofNat 32 (min times.length (2 ^ 32 - 1))
    let f := fieldOfSite site.toNat
    (x.trans = some n →
      let ends := fun (t : State) => (t.span i).wpart = n ∧ (t.span i).trans = none ∧ (t.span i).pool = x.pool ∧
        (t.span i).scratch = x.scratch.zeroRange (min x.wpart.toNat n.toNat * 2 ^ 20) (max x.wpart.toNat n.toNat * 2 ^ 20) ∧
        t.mem = s.mem ∧ t.cols = s.cols
      (x.transRow = none → Makes s .wpartTransitionComplete (fun t => ends t ∧ t.rows = s.rows)) ∧
      (x.transRow = some k → Awaits s k pc → Makes s .wpartTransitionComplete (fun t => ends t ∧ t.row k = answered (s.row k) pc))) ∧
    (bit x.waking w = true → Makes s .wayWakeComplete (fun t => (t.span i).scratch = x.scratch.zeroRange ((15 - w) * 2 ^ 20) ((16 - w) * 2 ^ 20) ∧
      bit (t.span i).gated w = false ∧ bit (t.span i).waking w = false ∧ (t.span i).pool = x.pool ∧ { t with spans := s.spans } = s)) ∧
    (bit x.waking w = false → Idles s .wayWakeComplete) ∧
    (s.inService site.toNat = false → Idles s .correctedError) ∧
    (let exceeds := c.cethr ≠ 0 ∧ c.cethr ≤ count;
      s.inService site.toNat = true → Makes s .correctedError (fun t => (t.col site.toNat).ceTimes = times ∧ (t.col site.toNat).cecnt = count ∧ t.rows = s.rows ∧ t.mem = s.mem ∧
        (exceeds → (t.col site.toNat).suspect = true ∧ (t.field f).evWait = (s.field f).evWait ++ [⟨3, c.owner.getD 0, site, 0⟩]) ∧
        (¬exceeds → (t.col site.toNat).suspect = c.suspect ∧ t.fields = s.fields) ∧
        t.errlog = (if count = 1 then s.errlog ++ [site] else s.errlog))) ∧
    Makes s .cecntExpiry (fun t => OnlyCol s t site.toNat (c.ceNow s.time)) ∧
    (c.ceNow s.time).ceTimes = c.ceTimes.filter (fun a => s.time < a + 2 ^ 30)) ∧
  (∀ (s : State) (a : BitVec 4),
    let site := s.sel.site
    let c := s.col site.toNat
    let deg := s.sel.deg.toNat
    let hot := if 95 ≤ deg then site :: s.hot.filter (· != site) else s.hot.filter (· != site)
    let throt := decide (105 ≤ deg) || (s.throt && !hot.isEmpty)
    let v : BitVec 16 := bits s.sel.v 0 16
    let ceiling := if 900 ≤ mapCount s.harvest then 960 else 910
    let capped := fun (t : State) (lim : BitVec 16) (th : Bool) => ∀ i ∈ s.serviceSites,
      (t.col i).pcap = BitVec.ofNat 16 (capOf lim.toNat s.serviceSites.length th)
    (c.suspect = true → s.inService site.toNat = true →
      (c.owner = none → Makes s .columnRetirement (fun t => t.rows = s.rows ∧ t.mem = s.mem ∧
        t.retired = setRetired s.retired site.toNat true)) ∧
      (c.owner = some a → s.launchBoundary a site = true → c.idle = true →
        let taken := (s.idsAt a site).filter (fun n => (s.row ⟨a, n⟩).st != .free)
        let leaves := fun (t : State) => t.retired = setRetired s.retired site.toNat true ∧ (t.col site.toNat).owner = none ∧
          (t.ten a).cols = (s.ten a).cols.filter (· != site)
        (taken = [] → Makes s .columnRetirement (fun t => leaves t ∧ t.rows = s.rows)) ∧
        (∀ n, taken = [n] → (s.relocate ⟨a, n⟩ = none → Idles s .columnRetirement) ∧
          (∀ u, s.relocate ⟨a, n⟩ = some u → Makes s .columnRetirement (fun t =>
            leaves t ∧ t.row ⟨a, n⟩ = (s.row ⟨a, n⟩).packed)))) ∧
      (c.owner = some a → s.launchBoundary a site = false ∨ c.idle = false → Idles s .columnRetirement)) ∧
    (c.suspect = false → Idles s .columnRetirement) ∧
    (s.sel.arr = true → s.inService site.toNat = true →
      Makes s .testerWindow (fun t => OnlyCol s t site.toNat { c with testpre := c.testpre + 1 })) ∧
    (s.sel.arr = false ∨ s.inService site.toNat = false → Idles s .testerWindow) ∧
    (s.good site.toNat = false → Idles s .thermalSensor) ∧
    (s.good site.toNat = true → Makes s .thermalSensor (fun t => t.hot = hot ∧ t.throt = throt ∧ t.rows = s.rows ∧ t.mem = s.mem ∧
      (throt ≠ s.throt → capped t s.mplim throt) ∧ (throt = s.throt → t.cols = s.cols))) ∧
    (s.bootLock = true →
      (100 ≤ v.toNat → v.toNat ≤ ceiling → v ≠ s.mplim → Makes s .mplim (fun t => t.mplim = v ∧ capped t v s.throt ∧ t.rows = s.rows)) ∧
      (v.toNat < 100 ∨ ceiling < v.toNat → Makes s .mplim (fun t => t = { s with hostErr := true }))) ∧
    (s.bootLock = false → Idles s .mplim))

/-- R273, R324, R390: VCTL.STOP makes an active tenant stopped and its READY rows STOPPED, and every armed monitor of its rows
fires; VCTL.START makes a stopped tenant active and
the rows that the stop has stopped READY; the stop has ended once nothing of the tenant is in flight. In a state that does not
permit the command, VERR.STATE, or during a reset VERR.RESET, is set. R276, R277, R103: a reset of a tenant, by the host or by
a function level reset, stops its rows at once; then its work in flight ends; when no slot holds a row of it, its rows and its
registers read their reset values and it is active again; a row that has issued within the last 4 cycles issues no sooner for it (R21).
Other tenants' rows are untouched.
The model's own choices in it: log entries 18, 22, 23 and 96. -/
def Obligations.TenantEvents : Prop :=
  (∀ (s : State),
    let k := s.sel.t
    let x := s.ten k
    let bad := fun i (b : Nat) => Makes s i (fun t => t.rows = s.rows ∧ t.hostErr = true ∧
      OnlyTen { s with hostErr := true } t k { x with verr := setBit x.verr b true, verraddr := 4 })
    (s.bootLock = false → Idles s .vctlStop ∧ Idles s .vctlStart ∧ Idles s .vctlReset) ∧
    (s.bootLock = true → (∀ j, (s.row j).stepper = none) →
      (x.st = .active → (∀ j, j.t = k → (s.row j).deferred = [] ∧ (s.row j).faultedStore = none) → Makes s .vctlStop (fun t => (t.ten k).st = .stopped ∧ (t.ten k).stopping = true ∧
        (∀ j, j.t = k → (s.row j).st = .ready →
          t.row j = { (s.row j).fireAll with st := .stopped, waiton := 0, stepping := false, stoppedByTenant := true }) ∧
        (∀ j, j.t = k → ∀ i : Fin 4, (t.row j).mon[i] = ⟨(s.row j).mon[i].line, false⟩) ∧
        (∀ j, j.t ≠ k → t.row j = s.row j) ∧ t.mem = s.mem)) ∧
      (x.st = .stopped → Makes s .vctlStart (fun t => (t.ten k).st = .active ∧ (t.ten k).stopping = false ∧
        (∀ j, j.t = k → (s.row j).st = .stopped → (s.row j).stoppedByTenant = true → (s.row j).held = [] →
          t.row j = { s.row j with st := .ready, readyAt := s.time, replayDue := !(s.row j).replay.isEmpty, stoppedByTenant := false }) ∧
        (∀ j, j.t = k → (s.row j).stoppedByTenant = false → t.row j = s.row j) ∧ (∀ j, j.t ≠ k → t.row j = s.row j)))) ∧
    (s.bootLock = true → (x.st = .resetting → bad .vctlStop 3 ∧ bad .vctlStart 3 ∧ bad .vctlReset 3) ∧
      (x.st = .absent ∨ x.st = .swapped → bad .vctlStop 2 ∧ bad .vctlStart 2 ∧ bad .vctlReset 2) ∧
      (x.st = .stopped → bad .vctlStop 2) ∧ (x.st = .active → bad .vctlStart 2)) ∧
    (x.st = .stopped → x.stopping = true → s.tenantBusy k = false →
      Makes s .tenantStopDrain (fun t => OnlyTen s t k { x with stopping := false })) ∧
    (s.tenantBusy k = true → Idles s .tenantStopDrain)) ∧
  (∀ (s : State),
    let k := s.sel.t
    let x := s.ten k
    let begins := fun (t : State) => (t.ten k).st = .resetting ∧ (t.ten k).resetStep = 3 ∧ (∀ j, j.t = k → t.row j = (s.row j).silence) ∧
      (∀ j, j.t ≠ k → t.row j = s.row j)
    (x.st = .active ∨ x.st = .stopped → (s.bootLock = true → Makes s .vctlReset begins) ∧ Makes s .functionLevelReset begins) ∧
    (x.st ≠ .active → x.st ≠ .stopped → Idles s .functionLevelReset) ∧
    (x.st ≠ .resetting → Idles s .tenantResetDrain) ∧
    (x.st = .resetting → x.resetStep = 3 → s.endJobs k = none → Idles s .tenantResetDrain) ∧
    (∀ u, x.st = .resetting → x.resetStep = 3 → s.endJobs k = some u → Makes s .tenantResetDrain (fun t => (t.ten k).resetStep = 4 ∧
      (t.ten k).st = (u.ten k).st ∧ (∀ m ∈ t.outside, m.row.t ≠ k) ∧ (∀ m ∈ t.homeOps, m.row.t ≠ k) ∧ (∀ m ∈ t.spawns, m.tenant ≠ k))) ∧
    (x.st = .resetting → x.resetStep ≠ 3 → s.slotsOf k = true → Idles s .tenantResetDrain) ∧
    (x.st = .resetting → x.resetStep ≠ 3 → s.slotsOf k = false → x.removing = false → Makes s .tenantResetDrain (fun t =>
      (t.ten k).st = .active ∧
      (∀ j, j.t = k → t.row j = if s.time < (s.row j).issueAt then { Row.reset with issueAt := (s.row j).issueAt } else Row.reset) ∧ (∀ j, j.t ≠ k → t.row j = s.row j) ∧
      (t.ten k).fpol = 0xFF ∧ (t.ten k).tvec = 0 ∧ (t.ten k).ovec = 0 ∧ (t.ten k).tailvec = 0 ∧ (t.ten k).cwbase = 0 ∧
      (t.ten k).ota = 0 ∧ (t.ten k).otf = 0x7F800000 ∧ (t.ten k).otcfg = 0 ∧ (t.ten k).launches = [] ∧ (t.ten k).ctrs = [] ∧
      (t.ten k).cols = x.cols ∧ (t.ten k).ptbase = x.ptbase ∧ (t.ten k).dirbase = x.dirbase)))

/-- R204, R207, R393, R394, R396: a bell takes the whole commands of a ring that does not overflow; in its turn, LAUNCH submits
its record, CANCEL cancels, COUNTER creates a counter with the count 1, SEAL drops the creator's hold; each is answered with
its status. R396: the completion word of a command goes, whole, to host memory inside the tenant's enabled window: status,
reason, tag and result. R401, R402: a LOAD in its turn is refused while a launch of the tenant is placed, or its data address
is no multiple of 4,096, or its image is in no good order; an object whose address has no memory, or stands in host memory outside the
tenant's enabled window (R389), faults with the reason R111, R182 or R389 gives it; once every kernel has its image they stand in every column's code
store from CSBASE on, XB and HIEND behind them.
The model's own choices in it: log entries 3, 25, 26, 27, 28 and 39. -/
def Obligations.HostEvents : Prop :=
  (∀ (s : State) (e : List Byte),
    let k := s.sel.t
    let x := s.ten k
    let u := s.popCmd k
    let level : BitVec 2 := BitVec.ofNat 2 (entField e 0x10 1)
    let arg : BitVec 32 := BitVec.ofNat 32 (entField e 0x14 4)
    let base := x.cqbase.toNat
    let v := s.mergeRing base
    (x.st = .active ∨ x.st = .stopped → s.bootLock = true → x.cqbase ≠ 0 →
      (∀ l h, v.takeRing base = .commands l h → (∀ e ∈ l, tenantCmdOk e = true) →
        Makes s .cqbell (fun t => (t.ten k).cmds = x.cmds ++ l ∧ t.rows = s.rows)) ∧
      (v.takeRing base = .overflow → Makes s .cqbell (fun t => bit (t.ten k).verr 0 = true ∧ t.rows = s.rows))) ∧
    (s.nextCmd k 1 = some e →
      (∀ n, u.submit k ((e.drop 64).take 192) true 0 s.hostVec = .error n → Makes s .hostLaunch (fun t => t.rows = s.rows ∧
        (t.ten k).cmds = x.cmds.drop 1 ∧ (t.ten k).launches = x.launches ∧ t = u.answerCmd k e 2 (BitVec.ofNat 8 n) 0)) ∧
      (∀ id w, u.submit k ((e.drop 64).take 192) true 0 s.hostVec = .ok (id, w) → Makes s .hostLaunch (fun t => t.rows = s.rows ∧
        (t.ten k).cmds = x.cmds.drop 1 ∧ (∃ l, (t.ten k).launches = x.launches ++ [l] ∧ l.id = id ∧ l.phase = .waiting ∧ l.sup = true ∧
          l.record = (e.drop 64).take 192) ∧ t = w.answerCmd k e 1 0 id))) ∧
    (s.nextCmd k 2 = some e → Makes s .hostCancel (fun t => t = (u.cancel k level arg).2.answerCmd k e 1 0
      (if (u.cancel k level arg).1 then 1 else 0))) ∧
    (s.nextCmd k 3 = some e → (arg = 0 → Makes s .counter (fun t => (t.ten k).cmds = x.cmds.drop 1 ∧ t.rows = s.rows ∧
        (t.ten k).ctrs = x.ctrs ++ [⟨level, x.freeCtr level, 1, 0, true, BitVec.ofNat 64 (entField e 0x18 8), entTag e⟩])) ∧
      (arg ≠ 0 → level ≠ 3 → x.ctrTakes (level + 1) arg = false → Makes s .counter (fun t => (t.ten k).ctrs = x.ctrs ∧ t.rows = s.rows ∧
        t = u.answerCmd k e 2 2 0))) ∧
    (s.nextCmd k 4 = some e →
      (∀ c, x.ctr level arg = some c → c.held = true → 1 < c.count.toNat → Makes s .seal (fun t => t.rows = s.rows ∧ (t.ten k).ctrs =
        x.ctrs.map (fun y => if y.level = level ∧ y.id = arg then { y with held := false, count := y.count - 1 } else y))) ∧
      (x.ctr level arg = none → Makes s .seal (fun t => (t.ten k).ctrs = x.ctrs ∧ t = u.answerCmd k e 1 0 0)))) ∧
  (∀ (s : State) (k : BitVec 4) (cpl : BitVec 64) (status reason : BitVec 8) (tag : BitVec 16) (result : BitVec 32),
    let h := cpl.toNat - 2 ^ 43
    let x := s.ten k
    let t := s.complete k cpl status reason tag result
    s.host.wf = true → 2 ^ 43 ≤ cpl.toNat → cpl.toNat % 8 = 0 → s.tenantDram k cpl.toNat = false →
      (x.hwen = true → x.hwbase.toNat ≤ h → h + 8 ≤ x.hwlimit.toNat →
        bytesToNat (t.host.readBytes h 8) = status.toNat + 2 ^ 8 * reason.toNat + 2 ^ 16 * tag.toNat + 2 ^ 32 * result.toNat ∧
        (∀ a, a < h ∨ h + 8 ≤ a → t.host.read a = s.host.read a) ∧ { t with host := s.host } = s) ∧
      (x.hwen = false → t = s)) ∧
  (∀ (s : State) (e : List Byte),
    let k := s.sel.t
    let x := s.ten k
    let u := s.popCmd k
    let a := loadArgs e
    let v := if a.pa < 2 ^ 43 then u.mergeRange a.pa a.size else u
    let w := v.mergeRange (v.ten k).kcbase.toNat (256 * (v.ten k).kcsets.toNat)
    let good := 2 ^ 43 ≤ a.pa ∨
      (u.tenantDram k a.pa = true ∧ u.tenantDram k (a.pa + a.size - 1) = true ∧ paSlot a.pa = paSlot (a.pa + a.size - 1))
    (2 ^ 43 ≤ a.pa → u.argError k a.pa a.size = if x.hwen = true ∧ 2 ^ 43 + x.hwbase.toNat ≤ a.pa ∧
      a.pa + a.size ≤ 2 ^ 43 + x.hwlimit.toNat then none else some 3) ∧
    (s.nextCmd k 5 = some e → x.loading = none →
      (a.dataVa.toNat % 4096 ≠ 0 → Makes s .load (fun t => t = u.answerCmd k e 2 7 0)) ∧
      (a.dataVa.toNat % 4096 = 0 → x.launches.any (fun l => l.phase == .placed) = true → Makes s .load (fun t => t = u.answerCmd k e 2 5 0)) ∧
      (a.dataVa.toNat % 4096 = 0 → x.launches.any (fun l => l.phase == .placed) = false →
        (¬good → Makes s .load (fun t => t = u.answerCmd k e 3 3 0)) ∧
        (∀ n, good → u.argError k a.pa a.size = some n → Makes s .load (fun t => t = u.answerCmd k e 3 (BitVec.ofNat 8 n) 0)) ∧
        (good → u.argError k a.pa a.size = none → (v.kcoOf e).ok = false → Makes s .load (fun t => t = v.answerCmd k e 2 4 0)) ∧
        (good → u.argError k a.pa a.size = none → (v.kcoOf e).ok = true → Makes s .load (fun t => t = w.loadKernels k e (v.kcoOf e) (v.kcoOf e).kernels [])))) ∧
    (∀ images l,
      let b := placeImages images a.csBase
      let last := if b.1 = [] then 0 else b.2
      let xb : BitVec 17 := BitVec.ofNat 17 (max (l.ten k).hiend.toNat last)
      (s.setTen k { x with loading := none }).loaderStore k a.dataVa ((s.kcoOf e).linked a.dataVa b.1) = .ok l → last ≤ 0x10000 →
      s.finishLoad k e images = (l.placeCode k b.1 xb).answerCmd k e 1 0 l.fsid ∧
        ((l.placeCode k b.1 xb).ten k).hiend = xb ∧ ∀ c ∈ (l.ten k).cols, ((l.placeCode k b.1 xb).col c.toNat).xb = xb) ∧
    (∀ y, x.loading = some y →
      let ko := s.kcoOf y.cmd
      let zi := ko.num (ko.num 0x18 8 + 16 * y.images.length + 8) 4
      let image := Config.kilnImage ko.zpf zi s.fsid.toNat kver
      (Config.kilnAccepts ko.zpf zi kver = false → Makes s .kilnTranslationComplete (fun t =>
        t = (s.setTen k { x with loading := none }).answerCmd k y.cmd 2 3 0)) ∧
      (Config.kilnAccepts ko.zpf zi kver = true → Makes s .kilnTranslationComplete (fun t =>
        t = (s.kilnInsert k (s.kilnKey k ko) image).loadKernels k y.cmd ko (ko.kernels - y.images.length - 1) (y.images ++ [image])))))

/-- R394, R398: a bell takes the commands of the management ring; a malformed command in its turn is answered BADCMD. CREATE of an
absent tenant on a partition that passes its checks makes it active, the owner of its columns, with the directory built in
rank order; REPART of a stopped one gives it the new partition; HOSTWIN sets its window; REMOVE resets it first, or removes a
swapped one. The state of the tenant that forbids a command gives REASON 6, an argument REASON 7; an
address in it that has no memory, or stands in host memory outside the tenant's window (R389), FAULT (R397). R274, R275, R403, R410:
SWAPOUT of a stopped tenant saves it and frees its columns, SWAPIN gives it back on a partition that passes its checks; PAIR
begins the pairing of a link whose gateway column the tenant owns, UNPAIR ends it; REINSTATE tests a retired column without an
owner again.
The model's own choices in it: log entries 30, 31, 37, 38, 67 and 71. -/
def Obligations.CommandEvents : Prop :=
  (∀ (s : State) (e : List Byte) (l : List (List Byte)),
    let k := entTenant e
    let x := s.ten k
    let sites := s.bitmapSites x.partmap.toNat
    let base := s.mqbase.toNat
    let lo := entField e 0x18 8
    let hi := entField e 0x20 8
    let refused := fun i (reason : BitVec 8) => Makes s i (fun t => t = s.answerMgmt (entCpl e) (entTag e) 2 reason 0)
    let faults := fun i (n : Nat) => Makes s i (fun t => t = s.answerMgmt (entCpl e) (entTag e) 3 (BitVec.ofNat 8 n) 0)
    let map := s.argError k x.partmap.toNat 120
    let cleared := fun j => if s.time < (s.row j).issueAt then { Row.reset with issueAt := (s.row j).issueAt } else Row.reset
    (s.bootLock = true → s.mqbase ≠ 0 →
      (∀ c h, (s.mergeRing base).takeRing base = .commands c h → Makes s .mqbell (fun t => t.mcmds = s.mcmds ++ c ∧ t.rows = s.rows ∧ t.tens = s.tens)) ∧
      ((s.mergeRing base).takeRing base = .overflow → Makes s .mqbell (fun t => t.mqovf = true ∧ t.mcmds = s.mcmds))) ∧
    (s.mcmds = e :: l → mgmtCmdOk e = false → ∀ i ∈ [Instr.create, .repart, .swapout, .swapin, .remove, .hostwin, .pair, .unpair, .reinstate],
      Makes s i (fun t => t.mcmds = l ∧ t.rows = s.rows ∧ t.tens = s.tens ∧ t = s.answerMgmt (entCpl e) (entTag e) 4 0 0)) ∧
    (s.mcmds = e :: l → mgmtCmdOk e = true →
      (entOpc e = 0x41 → (x.st ≠ .absent → refused .create 6) ∧ (∀ n, x.st = .absent → map = some n → faults .create n) ∧
        (x.st = .absent → map = none → s.partitionOk k sites = false → refused .create 7) ∧
        (x.st = .absent → map = none → s.partitionOk k sites = true → Makes s .create (fun t => t.mcmds = l ∧ (t.ten k).st = .active ∧ (t.ten k).cols = sites ∧
          (t.ten k).hiend = 0x1000 ∧ (t.ten k).fpol = 0xFF ∧ (t.ten k).tvec = 0 ∧ (t.ten k).launches = [] ∧
          (∀ c ∈ sites, (t.col c.toNat).owner = some k ∧ (t.col c.toNat).xb = 0x1000) ∧ (∀ j, j.t = k → t.row j = cleared j) ∧
          (∀ j, j.t ≠ k → t.row j = s.row j) ∧ (s.mem.wf = true → entCpl e = 0 → ∀ n : BitVec 32, n.toNat < x.dirsize.toNat →
            t.dir ⟨k, n⟩ = builtEntry sites n.toNat)))) ∧
      (entOpc e = 0x42 → (x.st ≠ .stopped → refused .repart 6) ∧ (∀ n, x.st = .stopped → map = some n → faults .repart n) ∧
        (x.st = .stopped → map = none → s.partitionOk k sites = false → refused .repart 7) ∧
        (x.st = .stopped → map = none → s.partitionOk k sites = true → (∀ c ∈ x.cols, c ∈ sites) → Makes s .repart (fun t => t.mcmds = l ∧
          (t.ten k).cols = sites ∧ (t.ten k).st = .stopped ∧ (∀ c ∈ sites, c ∉ x.cols → (t.col c.toNat).owner = some k) ∧ t.rows = s.rows))) ∧
      (entOpc e = 0x45 → (x.removing = false → x.st = .active ∨ x.st = .stopped → Makes s .remove (fun t => t.mcmds = s.mcmds ∧
          (t.ten k).st = .resetting ∧ (t.ten k).removing = true)) ∧
        (x.removing = false → x.st = .swapped → Makes s .remove (fun t => t.mcmds = l ∧ (t.ten k).st = .absent ∧ (t.ten k).image = none ∧
          (t.ten k).hwen = false)) ∧
        (x.removing = false → x.st = .absent ∨ x.st = .resetting → refused .remove 6)) ∧
      (entOpc e = 0x46 → (x.st = .absent ∨ x.st = .resetting → refused .hostwin 6) ∧
        (x.st = .active ∨ x.st = .stopped ∨ x.st = .swapped →
          (lo % 4096 ≠ 0 ∨ hi % 4096 ≠ 0 ∨ 2 ^ 43 ≤ lo ∨ 2 ^ 43 ≤ hi ∨ hi ≤ lo → refused .hostwin 7) ∧
          (lo % 4096 = 0 → hi % 4096 = 0 → lo < 2 ^ 43 → hi < 2 ^ 43 → lo < hi → Makes s .hostwin (fun t => t.mcmds = l ∧ t.rows = s.rows ∧
            t.ten k = { x with hwbase := BitVec.ofNat 64 lo, hwlimit := BitVec.ofNat 64 hi, hwen := decide (entField e 0x28 1 = 1) })))))) ∧
  (∀ (s : State) (e : List Byte) (l : List (List Byte)),
    let k := entTenant e
    let x := s.ten k
    let flushed := x.cols.foldl (fun s c => s.flushColumn c.toNat) s
    let image := flushed.swapImage k
    let src := entField e 0x18 8
    let sites := s.bitmapSites (entField e 0x20 8)
    let wrong := fun (m : SwapImage) => (s.argError k (entField e 0x20 8) 120).orElse (fun _ => s.argError k src m.size)
    let window := 2 ^ 43 ≤ src → x.hostHas src image.size = true
    let cleared := fun j => if s.time < (s.row j).issueAt then { Row.reset with issueAt := (s.row j).issueAt } else Row.reset
    let i := entField e 0x10 1
    let pt : BitVec 4 := BitVec.ofNat 4 (entField e 0x14 1)
    let site := entField e 0x10 2
    let c := s.col site
    let refused := fun j (reason : BitVec 8) => Makes s j (fun t => t = s.answerMgmt (entCpl e) (entTag e) 2 reason 0)
    s.mcmds = e :: l → mgmtCmdOk e = true →
      (entOpc e = 0x43 → (x.st ≠ .stopped → refused .swapout 6) ∧ (x.st = .stopped → x.stopping = true → Idles s .swapout) ∧
        (x.st = .stopped → x.stopping = false → ¬window →
          Makes s .swapout (fun t => t = flushed.answerMgmt (entCpl e) (entTag e) 3 3 0)) ∧
        (x.st = .stopped → x.stopping = false → window → flushed.imagePlace src image.size = true → image.size ≤ entField e 0x20 8 →
          Makes s .swapout (fun t => t.mcmds = l ∧ (t.ten k).st = .swapped ∧ (t.ten k).image = some image ∧ (t.ten k).cols = [] ∧
            (∀ j, j.t = k → t.row j = cleared j) ∧ (∀ j, j.t ≠ k → t.row j = s.row j)))) ∧
      (entOpc e = 0x44 → (x.st ≠ .swapped → refused .swapin 6) ∧
        (∀ m n, x.st = .swapped → x.image = some m → wrong m = some n →
          Makes s .swapin (fun t => t = s.answerMgmt (entCpl e) (entTag e) 3 (BitVec.ofNat 8 n) 0)) ∧
        (∀ m, x.st = .swapped → x.image = some m → wrong m = none → s.partitionOk k sites = false → refused .swapin 7) ∧
        (∀ m, x.st = .swapped → x.image = some m → wrong m = none → s.partitionOk k sites = true → 2 ^ 43 ≤ src → s.imagePlace src m.size = true →
          s.restorable m sites = true → s.host.readBytes (src - 2 ^ 43) m.size = imageBytes m.serial m.size → Makes s .swapin (fun t =>
            t.mcmds = l ∧ (t.ten k).st = .stopped ∧ (t.ten k).image = none ∧ (t.ten k).cols = sites ∧
            (∀ a r, m.rows = [(RowKey.key ⟨k, a⟩, r)] → t.row ⟨k, a⟩ = r.restored (movedSite m sites) s.time)))) ∧
      (entOpc e = 0x47 → ((∀ y ∈ s.links, y.1 ≠ i) → refused .pair 7) ∧
        (∀ link, s.links.find? (fun y => y.1 == i) = some (i, link) → link.pairing = none →
          ((s.ten pt).st ≠ .active → (s.ten pt).st ≠ .stopped → refused .pair 6) ∧
          ((s.ten pt).st = .active ∨ (s.ten pt).st = .stopped → (s.col link.site.toNat).owner ≠ some pt → refused .pair 7) ∧
          ((s.ten pt).st = .active ∨ (s.ten pt).st = .stopped → (s.col link.site.toNat).owner = some pt → Makes s .pair (fun t =>
            t = { s with links := NMap.set s.links i { link with pairing := some ⟨pt, entCpl e, entTag e⟩ } })))) ∧
      (entOpc e = 0x48 → Makes s .unpair (fun t => t.mcmds = l ∧ t.rows = s.rows ∧
        ∀ link, s.links.find? (fun y => y.1 == i) = some (i, link) → (NMap.get link t.links i).paired = none)) ∧
      (entOpc e = 0x49 → (bit (s.retired.getD (site / 32) 0) (site % 32) = false ∨ c.owner ≠ none → refused .reinstate 7) ∧
        (site < 960 → bit (s.retired.getD (site / 32) 0) (site % 32) = true → c.owner = none → Makes s .reinstate (fun t => t.mcmds = l ∧
          t.rows = s.rows ∧ t.fresh = s.fresh + 1 ∧
          t.retired = (if Config.retestPasses s.fresh then setRetired s.retired site false else s.retired) ∧
          (Config.retestPasses s.fresh = true → ∀ n ∈ t.empty, paSlot (8 * n) ≠ site)))))

/-- R227, R386, R388, R390, R391, R398, R404, R405, R407: the host reads and writes DRAM through the HDM window as the home holds
it, and an address that is no memory of it completes with an error; it writes and reads the registers of BAR0; SPDM answers
Busy before boot stage 2; power-up leaves reset values, but for the CHG that the boot firmware has written, and keeps DRAM and the maps; the link trains; a group that encodes no
instruction raises its fault.
The model's own choices in it: log entries 5, 18, 19, 32, 33, 34 and 35. -/
def Obligations.PlatformEvents : Prop :=
  ∀ (s : State),
    let a := s.sel.acc
    let o := a.hpa.toNat
    let memory := s.good (paSlot o) = true ∧ paSlot o < 960 ∧ layerBytes ≤ paOff o ∧ paOff o < 4 * layerBytes ∧ s.rangeAt o = none
    let x := s.ten s.sel.t
    let halted := 0 < s.sel.fail.toNat ∧ s.sel.fail.toNat < 7
    (s.bootLock = true → s.sel.slow = false →
      (memory → a.wr = true → 0 < a.data.length → o % 64 + a.data.length ≤ 64 → Makes s .hostHdmAccess (fun t => t.rows = s.rows ∧ t.tens = s.tens ∧
        t = (s.recall (o / 256) none).homeWrite o a.data true)) ∧
      (memory → a.wr = false → 0 < a.size → o % 64 + a.size ≤ 64 → Makes s .hostHdmAccess (fun t => t.rows = s.rows ∧ t.tens = s.tens ∧
        t.hostRead = ((s.merge (o / 256) none).touchSpan o false).homeBytes o a.size)) ∧
      (paSlot o < 960 → s.good (paSlot o) = false → a.wr = true → 0 < a.data.length → o % 64 + a.data.length ≤ 64 →
        (s.col (paSlot o)).owner = none → Makes s .hostHdmAccess (fun t =>
          t = { s with hostErr := true, herr := true, herraddr := Config.hdmBase 0 + a.hpa }))) ∧
    (s.bootStage.toNat < 2 → Makes s .doeSpdmRequest (fun t => t = { s with doe := [0x12, 0x7F, 0x03, 0x00] })) ∧
    (2 ≤ s.bootStage.toNat → Makes s .doeSpdmRequest (fun t =>
      t = { s with doe := s.spdmAnswer a.data, fresh := s.fresh + 1 })) ∧
    (spdmRequests.contains (a.data.getD 1 0) = false → s.spdmAnswer a.data = [0x12, 0x7F, 0x07, a.data.getD 1 0]) ∧
    (s.bootLock = true → s.sel.sr = false → s.sel.x8 = false →
      (s.sel.arr = false → s.sel.slow = false → s.sel.off = 0x01C → x.st ≠ .resetting → Makes s .registerWrite (fun t =>
        OnlyTen s t s.sel.t { x with verr := x.verr &&& ~~~(bits s.sel.v 0 6) })) ∧
      (s.sel.arr = false → s.sel.slow = false → s.sel.off = 0x118 → x.st = .absent ∨ x.st = .stopped → Makes s .registerWrite (fun t =>
        OnlyTen s t s.sel.t { x with dirsize := bits s.sel.v 0 29 })) ∧
      (s.sel.arr = false → s.sel.slow = false → s.sel.off = 0x118 → x.st = .active ∨ x.st = .swapped → Makes s .registerWrite (fun t =>
        OnlyTen { s with hostErr := true } t s.sel.t { x with verr := setBit x.verr 2 true, verraddr := 0x118 })) ∧
      (s.sel.arr = true → s.sel.slow = true → s.sel.off = 0x100 → Makes s .registerWrite (fun t =>
        t = { s with hostRead := natToBytes 4 s.mplim.toNat }))) ∧
    (s.bootLock = false → s.sel.sr = false → Idles s .registerWrite) ∧
    (s.sel.sr = true → s.bootLock = true → srClass s.sel.off = 4 → srIndex s.sel.off ≠ 0 →
      ∀ y, x.writeSr (srIndex s.sel.off) (srSource s.sel.off s.sel.v) = some y → Makes s .registerWrite (fun t => OnlyTen s t s.sel.t y)) ∧
    Makes s .powerUp (fun t => t.mem = s.mem ∧ t.host = s.host ∧ t.retired = s.retired ∧ t.harvest = s.harvest ∧ t.rows = State.reset.rows ∧
      t.tens = State.reset.tens ∧ t.cols = ((State.resetOf s.harvest s.retired).firmwareChg s.sel.acc.data).cols ∧
      (s.sel.acc.data = [] → t.cols = State.reset.cols) ∧ t.spans = State.reset.spans ∧ t.fields = State.reset.fields ∧
      t.mplim = (if 900 ≤ mapCount s.harvest then 960 else 910) ∧
      (halted → t.bootLock = false ∧ t.bootStage.toNat = s.sel.fail.toNat - 1) ∧ (¬halted → t.bootLock = true ∧ t.bootStage = 6)) ∧
    Makes s .hostLinkTraining (fun t => { t with linkWidth := s.linkWidth, linkRate := s.linkRate } = s ∧
      t.linkWidth = (if s.sel.x8 then 8 else 16) ∧ t.linkRate = (if s.sel.q = 0 then 64 else if s.sel.q = 1 then 32 else 16)) ∧
    (s.seated = true → (∀ f, s.groupFault s.fetched = some f → Makes s .illegalEncoding (fun t => t = s.raise f)) ∧
      (s.groupFault s.fetched = none → Idles s .illegalEncoding))
end

