-- ==== Sys2Proof/Laws/Map.lean ====
section
/-! SUPPORT. Sparse maps and memories: reading after writing, and that every memory operation keeps the canonical form. -/

namespace Sys2Proof

/-! ## Sparse maps -/

@[simp] theorem NMap.get_set_same {α : Type} (d : α) (m : NMap α) (a : Nat) (x : α) :
    NMap.get d (NMap.set m a x) a = x := by
  induction m with
  | nil => simp [NMap.set, NMap.get]
  | cons c m ih =>
    obtain ⟨k, v⟩ := c
    simp only [NMap.set]
    split
    · simp [NMap.get]
    · split
      · simp [NMap.get]
      · rename_i h _
        simp [NMap.get, h, ih]

theorem NMap.get_set_other {α : Type} (d : α) (m : NMap α) {a b : Nat} (x : α) (h : b ≠ a) :
    NMap.get d (NMap.set m a x) b = NMap.get d m b := by
  induction m with
  | nil => simp [NMap.set, NMap.get, h]
  | cons c m ih =>
    obtain ⟨k, v⟩ := c
    simp only [NMap.set]
    split
    · rename_i hk
      have hk : a = k := by simpa using hk
      subst hk
      simp [NMap.get, h]
    · split
      · simp [NMap.get, h]
      · simp [NMap.get, ih]

/-! ## The canonical form of a memory -/

theorem Memory.wfFrom_mono {lo hi : Nat} (h : lo ≤ hi) : ∀ {m : Memory}, Memory.wfFrom hi m = true → Memory.wfFrom lo m = true
  | [], _ => rfl
  | (k, v) :: m, w => by
    simp only [Memory.wfFrom, Bool.and_eq_true, decide_eq_true_eq] at w ⊢
    exact ⟨⟨Nat.le_trans h w.1.1, w.1.2⟩, w.2⟩

theorem Memory.read_below {m : Memory} : ∀ {lo a : Nat}, Memory.wfFrom lo m = true → a < lo → m.read a = Memory.unwritten := by
  induction m with
  | nil => intros; rfl
  | cons c m ih =>
    obtain ⟨k, v⟩ := c
    intro lo a w h
    simp only [Memory.wfFrom, Bool.and_eq_true, decide_eq_true_eq] at w
    have : a ≠ k := by omega
    have : a < k := by omega
    simp [Memory.read, *]

theorem Memory.write_wfFrom {m : Memory} {b : Byte} : ∀ {lo a : Nat}, Memory.wfFrom lo m = true → lo ≤ a →
    Memory.wfFrom lo (m.write a b) = true := by
  induction m with
  | nil =>
    intro lo a _ h
    simp only [Memory.write]
    split
    · rfl
    · rename_i hb
      simp only [Memory.wfFrom, Bool.and_true, Bool.and_eq_true, decide_eq_true_eq]
      exact ⟨h, by simpa using hb⟩
  | cons c m ih =>
    obtain ⟨k, v⟩ := c
    intro lo a w h
    simp only [Memory.wfFrom, Bool.and_eq_true, decide_eq_true_eq] at w
    obtain ⟨⟨hk, hv⟩, hm⟩ := w
    simp only [Memory.write]
    split
    · rename_i e
      have e : a = k := by simpa using e
      subst e
      split
      · exact Memory.wfFrom_mono (by omega) hm
      · rename_i hb
        simp only [Memory.wfFrom, Bool.and_eq_true, decide_eq_true_eq]
        exact ⟨⟨h, by simpa using hb⟩, hm⟩
    · split
      · split
        · simp only [Memory.wfFrom, Bool.and_eq_true, decide_eq_true_eq]
          exact ⟨⟨hk, hv⟩, hm⟩
        · rename_i hlt hb
          simp only [Memory.wfFrom, Bool.and_eq_true, decide_eq_true_eq]
          exact ⟨⟨h, by simpa using hb⟩, ⟨by omega, hv⟩, hm⟩
      · rename_i e hlt
        have e : a ≠ k := by simpa using e
        simp only [Memory.wfFrom, Bool.and_eq_true, decide_eq_true_eq]
        exact ⟨⟨hk, hv⟩, ih hm (by omega)⟩

/-- Writing a byte keeps the canonical form. -/
theorem Memory.write_wf {m : Memory} (a : Nat) (b : Byte) (h : m.wf = true) : (m.write a b).wf = true :=
  Memory.write_wfFrom h (Nat.zero_le a)

/-- Writing bytes keeps the canonical form. -/
theorem Memory.writeBytes_wf (bs : List Byte) : ∀ {m : Memory} (a : Nat), m.wf = true → (m.writeBytes a bs).wf = true := by
  induction bs with
  | nil => intro m a h; exact h
  | cons b bs ih => intro m a h; exact ih (a + 1) (Memory.write_wf a b h)

theorem Memory.filter_wfFrom (p : Host.Cell → Bool) {m : Memory} : ∀ {lo : Nat}, Memory.wfFrom lo m = true →
    Memory.wfFrom lo (m.filter p) = true := by
  induction m with
  | nil => intro lo h; exact h
  | cons c m ih =>
    obtain ⟨k, v⟩ := c
    intro lo w
    simp only [Memory.wfFrom, Bool.and_eq_true, decide_eq_true_eq] at w
    obtain ⟨⟨hk, hv⟩, hm⟩ := w
    simp only [List.filter_cons]
    split
    · simp only [Memory.wfFrom, Bool.and_eq_true, decide_eq_true_eq]
      exact ⟨⟨hk, hv⟩, ih hm⟩
    · exact Memory.wfFrom_mono (by omega) (ih hm)

/-- Zeroing a range keeps the canonical form. -/
theorem Memory.zeroRange_wf {m : Memory} (lo hi : Nat) (h : m.wf = true) : (m.zeroRange lo hi).wf = true :=
  Memory.filter_wfFrom _ h

/-- A fold of byte writes keeps the canonical form. -/
theorem Memory.foldl_write_wf {α : Type} (f : α → Nat) (g : α → Byte) (l : List α) : ∀ {m : Memory}, m.wf = true →
    (l.foldl (fun m x => m.write (f x) (g x)) m).wf = true := by
  induction l with
  | nil => intro m h; exact h
  | cons x l ih => intro m h; exact ih (Memory.write_wf (f x) (g x) h)

/-! ## Reading after writing -/

theorem Memory.read_write_same {m : Memory} {b : Byte} : ∀ {lo a : Nat}, Memory.wfFrom lo m = true → (m.write a b).read a = b := by
  induction m with
  | nil =>
    intro lo a _
    simp only [Memory.write]
    split
    · rename_i hb
      have hb : b = Memory.unwritten := by simpa using hb
      simp [Memory.read, hb]
    · simp [Memory.read]
  | cons c m ih =>
    obtain ⟨k, v⟩ := c
    intro lo a w
    simp only [Memory.wfFrom, Bool.and_eq_true, decide_eq_true_eq] at w
    obtain ⟨⟨hk, hv⟩, hm⟩ := w
    simp only [Memory.write]
    split
    · rename_i e
      have e : a = k := by simpa using e
      subst e
      split
      · rename_i hb
        have hb : b = Memory.unwritten := by simpa using hb
        rw [hb]
        exact Memory.read_below hm (Nat.lt_succ_self a)
      · simp [Memory.read]
    · rename_i e
      have e : a ≠ k := by simpa using e
      split
      · rename_i hlt
        split
        · rename_i hb
          have hb : b = Memory.unwritten := by simpa using hb
          simp [Memory.read, e, hlt, hb]
        · simp [Memory.read]
      · rename_i hlt
        simp only [Memory.read, beq_iff_eq, e, if_false, hlt]
        exact ih hm

theorem Memory.read_write_other {m : Memory} {v : Byte} : ∀ {lo a b : Nat}, Memory.wfFrom lo m = true → b ≠ a →
    (m.write a v).read b = m.read b := by
  induction m with
  | nil =>
    intro lo a b _ h
    simp only [Memory.write]
    split
    · rfl
    · simp [Memory.read, h]
  | cons c m ih =>
    obtain ⟨k, x⟩ := c
    intro lo a b w h
    simp only [Memory.wfFrom, Bool.and_eq_true, decide_eq_true_eq] at w
    obtain ⟨⟨hk, hv⟩, hm⟩ := w
    simp only [Memory.write]
    split
    · rename_i e
      have e : a = k := by simpa using e
      subst e
      split
      · simp only [Memory.read, beq_iff_eq, h, if_false]
        split
        · exact Memory.read_below hm (by omega)
        · rfl
      · simp [Memory.read, h]
    · rename_i e
      split
      · rename_i hlt
        split
        · rfl
        · simp only [Memory.read, beq_iff_eq, h, if_false]
          split
          · have : b ≠ k := by omega
            have : b < k := by omega
            simp [*]
          · rfl
      · simp only [Memory.read, ih hm h]

/-- A byte read after it was written. -/
theorem Memory.read_write {m : Memory} (a b : Nat) (v : Byte) (w : m.wf = true) :
    (m.write a v).read b = if b = a then v else m.read b := by
  split
  · rename_i h; subst h; exact Memory.read_write_same w
  · rename_i h; exact Memory.read_write_other w h

/-- A byte outside the bytes written reads as before; a byte inside reads as written. -/
theorem Memory.read_writeBytes (bs : List Byte) : ∀ {m : Memory} (a b : Nat), m.wf = true →
    (m.writeBytes a bs).read b = if a ≤ b ∧ b < a + bs.length then bs.getD (b - a) 0 else m.read b := by
  induction bs with
  | nil =>
    intro m a b _
    rw [if_neg (by simp only [List.length_nil]; omega)]
    rfl
  | cons x bs ih =>
    intro m a b w
    simp only [Memory.writeBytes, ih (a + 1) b (Memory.write_wf a x w), Memory.read_write a b x w, List.length_cons]
    by_cases h : b = a
    · subst h
      rw [if_neg (by omega), if_pos rfl, if_pos (by omega)]
      simp
    · by_cases h1 : a + 1 ≤ b ∧ b < a + 1 + bs.length
      · have e : b - a = (b - (a + 1)) + 1 := by omega
        rw [if_pos h1, if_pos (by omega), e, List.getD_cons_succ]
      · rw [if_neg h1, if_neg h, if_neg (by omega)]

@[simp] theorem Memory.readBytes_length (m : Memory) : ∀ (n a : Nat), (m.readBytes a n).length = n
  | 0, _ => rfl
  | n + 1, a => by simp [Memory.readBytes, Memory.readBytes_length m n (a + 1)]

/-- Bytes read where bytes of that number were written. -/
theorem Memory.readBytes_writeBytes (bs : List Byte) : ∀ {m : Memory} (a : Nat), m.wf = true →
    (m.writeBytes a bs).readBytes a bs.length = bs := by
  have go : ∀ (n k : Nat) {m : Memory} (a : Nat), m.wf = true → k + n = bs.length →
      (m.writeBytes a bs).readBytes (a + k) n = bs.drop k := by
    intro n
    induction n with
    | zero => intro k m a _ h; simp [Memory.readBytes, List.drop_of_length_le (by omega : bs.length ≤ k)]
    | succ n ih =>
      intro k m a w h
      have hk : k < bs.length := by omega
      rw [Memory.readBytes, Nat.add_assoc, ih (k + 1) a w (by omega), Memory.read_writeBytes bs a (a + k) w,
        if_pos (by omega), Nat.add_sub_cancel_left, List.drop_eq_getElem_cons hk]
      simp [hk]
  intro m a w
  simpa using go bs.length 0 a w (by omega)

end Sys2Proof
end

