-- ==== Sys2Proof/Laws/State.lean ====
section
/-! SUPPORT. What each update of the state and of a row leaves as it was: one lemma per field per update. -/

namespace Sys2Proof.Machine

/-! ## The state's updates, field by field -/

@[simp] theorem State.setRow_cols (s : State) (k : RowKey) (r : Row) : (s.setRow k r).cols = s.cols := rfl
@[simp] theorem State.setRow_spans (s : State) (k : RowKey) (r : Row) : (s.setRow k r).spans = s.spans := rfl
@[simp] theorem State.setRow_fields (s : State) (k : RowKey) (r : Row) : (s.setRow k r).fields = s.fields := rfl
@[simp] theorem State.setRow_tens (s : State) (k : RowKey) (r : Row) : (s.setRow k r).tens = s.tens := rfl
@[simp] theorem State.setRow_mem (s : State) (k : RowKey) (r : Row) : (s.setRow k r).mem = s.mem := rfl
@[simp] theorem State.setRow_host (s : State) (k : RowKey) (r : Row) : (s.setRow k r).host = s.host := rfl
@[simp] theorem State.setRow_poison (s : State) (k : RowKey) (r : Row) : (s.setRow k r).poison = s.poison := rfl
@[simp] theorem State.setRow_empty (s : State) (k : RowKey) (r : Row) : (s.setRow k r).empty = s.empty := rfl
@[simp] theorem State.setRow_relvec (s : State) (k : RowKey) (r : Row) : (s.setRow k r).relvec = s.relvec := rfl
@[simp] theorem State.setRow_harvest (s : State) (k : RowKey) (r : Row) : (s.setRow k r).harvest = s.harvest := rfl
@[simp] theorem State.setRow_retired (s : State) (k : RowKey) (r : Row) : (s.setRow k r).retired = s.retired := rfl
@[simp] theorem State.setRow_wcomp (s : State) (k : RowKey) (r : Row) : (s.setRow k r).wcomp = s.wcomp := rfl
@[simp] theorem State.setRow_bootStage (s : State) (k : RowKey) (r : Row) : (s.setRow k r).bootStage = s.bootStage := rfl
@[simp] theorem State.setRow_bootLock (s : State) (k : RowKey) (r : Row) : (s.setRow k r).bootLock = s.bootLock := rfl
@[simp] theorem State.setRow_mqbase (s : State) (k : RowKey) (r : Row) : (s.setRow k r).mqbase = s.mqbase := rfl
@[simp] theorem State.setRow_mqovf (s : State) (k : RowKey) (r : Row) : (s.setRow k r).mqovf = s.mqovf := rfl
@[simp] theorem State.setRow_herr (s : State) (k : RowKey) (r : Row) : (s.setRow k r).herr = s.herr := rfl
@[simp] theorem State.setRow_herraddr (s : State) (k : RowKey) (r : Row) : (s.setRow k r).herraddr = s.herraddr := rfl
@[simp] theorem State.setRow_mplim (s : State) (k : RowKey) (r : Row) : (s.setRow k r).mplim = s.mplim := rfl
@[simp] theorem State.setRow_mpnow (s : State) (k : RowKey) (r : Row) : (s.setRow k r).mpnow = s.mpnow := rfl
@[simp] theorem State.setRow_throt (s : State) (k : RowKey) (r : Row) : (s.setRow k r).throt = s.throt := rfl
@[simp] theorem State.setRow_hot (s : State) (k : RowKey) (r : Row) : (s.setRow k r).hot = s.hot := rfl
@[simp] theorem State.setRow_mcmds (s : State) (k : RowKey) (r : Row) : (s.setRow k r).mcmds = s.mcmds := rfl
@[simp] theorem State.setRow_links (s : State) (k : RowKey) (r : Row) : (s.setRow k r).links = s.links := rfl
@[simp] theorem State.setRow_errlog (s : State) (k : RowKey) (r : Row) : (s.setRow k r).errlog = s.errlog := rfl
@[simp] theorem State.setRow_linkWidth (s : State) (k : RowKey) (r : Row) : (s.setRow k r).linkWidth = s.linkWidth := rfl
@[simp] theorem State.setRow_linkRate (s : State) (k : RowKey) (r : Row) : (s.setRow k r).linkRate = s.linkRate := rfl
@[simp] theorem State.setRow_doe (s : State) (k : RowKey) (r : Row) : (s.setRow k r).doe = s.doe := rfl
@[simp] theorem State.setRow_hostRead (s : State) (k : RowKey) (r : Row) : (s.setRow k r).hostRead = s.hostRead := rfl
@[simp] theorem State.setRow_hostErr (s : State) (k : RowKey) (r : Row) : (s.setRow k r).hostErr = s.hostErr := rfl
@[simp] theorem State.setRow_outside (s : State) (k : RowKey) (r : Row) : (s.setRow k r).outside = s.outside := rfl
@[simp] theorem State.setRow_refusedStores (s : State) (k : RowKey) (r : Row) : (s.setRow k r).refusedStores = s.refusedStores := rfl
@[simp] theorem State.setRow_reds (s : State) (k : RowKey) (r : Row) : (s.setRow k r).reds = s.reds := rfl
@[simp] theorem State.setRow_acks (s : State) (k : RowKey) (r : Row) : (s.setRow k r).acks = s.acks := rfl
@[simp] theorem State.setRow_homeOps (s : State) (k : RowKey) (r : Row) : (s.setRow k r).homeOps = s.homeOps := rfl
@[simp] theorem State.setRow_parked (s : State) (k : RowKey) (r : Row) : (s.setRow k r).parked = s.parked := rfl
@[simp] theorem State.setRow_holdWakes (s : State) (k : RowKey) (r : Row) : (s.setRow k r).holdWakes = s.holdWakes := rfl
@[simp] theorem State.setRow_ldfeAns (s : State) (k : RowKey) (r : Row) : (s.setRow k r).ldfeAns = s.ldfeAns := rfl
@[simp] theorem State.setRow_fires (s : State) (k : RowKey) (r : Row) : (s.setRow k r).fires = s.fires := rfl
@[simp] theorem State.setRow_joinWakes (s : State) (k : RowKey) (r : Row) : (s.setRow k r).joinWakes = s.joinWakes := rfl
@[simp] theorem State.setRow_abandons (s : State) (k : RowKey) (r : Row) : (s.setRow k r).abandons = s.abandons := rfl
@[simp] theorem State.setRow_spawns (s : State) (k : RowKey) (r : Row) : (s.setRow k r).spawns = s.spawns := rfl
@[simp] theorem State.setRow_pushes (s : State) (k : RowKey) (r : Row) : (s.setRow k r).pushes = s.pushes := rfl
@[simp] theorem State.setRow_jobNotes (s : State) (k : RowKey) (r : Row) : (s.setRow k r).jobNotes = s.jobNotes := rfl
@[simp] theorem State.setRow_mxcans (s : State) (k : RowKey) (r : Row) : (s.setRow k r).mxcans = s.mxcans := rfl
@[simp] theorem State.setRow_locks (s : State) (k : RowKey) (r : Row) : (s.setRow k r).locks = s.locks := rfl
@[simp] theorem State.setRow_retires (s : State) (k : RowKey) (r : Row) : (s.setRow k r).retires = s.retires := rfl
@[simp] theorem State.setRow_tlbis (s : State) (k : RowKey) (r : Row) : (s.setRow k r).tlbis = s.tlbis := rfl
@[simp] theorem State.setRow_cur (s : State) (k : RowKey) (r : Row) : (s.setRow k r).cur = s.cur := rfl
@[simp] theorem State.setRow_seat (s : State) (k : RowKey) (r : Row) : (s.setRow k r).seat = s.seat := rfl
@[simp] theorem State.setRow_run (s : State) (k : RowKey) (r : Row) : (s.setRow k r).run = s.run := rfl
@[simp] theorem State.setRow_walked (s : State) (k : RowKey) (r : Row) : (s.setRow k r).walked = s.walked := rfl
@[simp] theorem State.setRow_sel (s : State) (k : RowKey) (r : Row) : (s.setRow k r).sel = s.sel := rfl
@[simp] theorem State.setRow_schedule (s : State) (k : RowKey) (r : Row) : (s.setRow k r).schedule = s.schedule := rfl
@[simp] theorem State.setRow_units (s : State) (k : RowKey) (r : Row) : (s.setRow k r).units = s.units := rfl
@[simp] theorem State.setRow_early (s : State) (k : RowKey) (r : Row) : (s.setRow k r).early = s.early := rfl
@[simp] theorem State.setRow_redo (s : State) (k : RowKey) (r : Row) : (s.setRow k r).redo = s.redo := rfl
@[simp] theorem State.setRow_fresh (s : State) (k : RowKey) (r : Row) : (s.setRow k r).fresh = s.fresh := rfl
@[simp] theorem State.setRow_ops (s : State) (k : RowKey) (r : Row) : (s.setRow k r).ops = s.ops := rfl
@[simp] theorem State.setRow_time (s : State) (k : RowKey) (r : Row) : (s.setRow k r).time = s.time := rfl

@[simp] theorem State.setCol_rows (s : State) (i : Nat) (c : Column) : (s.setCol i c).rows = s.rows := rfl
@[simp] theorem State.setCol_spans (s : State) (i : Nat) (c : Column) : (s.setCol i c).spans = s.spans := rfl
@[simp] theorem State.setCol_fields (s : State) (i : Nat) (c : Column) : (s.setCol i c).fields = s.fields := rfl
@[simp] theorem State.setCol_tens (s : State) (i : Nat) (c : Column) : (s.setCol i c).tens = s.tens := rfl
@[simp] theorem State.setCol_mem (s : State) (i : Nat) (c : Column) : (s.setCol i c).mem = s.mem := rfl
@[simp] theorem State.setCol_host (s : State) (i : Nat) (c : Column) : (s.setCol i c).host = s.host := rfl
@[simp] theorem State.setCol_poison (s : State) (i : Nat) (c : Column) : (s.setCol i c).poison = s.poison := rfl
@[simp] theorem State.setCol_empty (s : State) (i : Nat) (c : Column) : (s.setCol i c).empty = s.empty := rfl
@[simp] theorem State.setCol_relvec (s : State) (i : Nat) (c : Column) : (s.setCol i c).relvec = s.relvec := rfl
@[simp] theorem State.setCol_harvest (s : State) (i : Nat) (c : Column) : (s.setCol i c).harvest = s.harvest := rfl
@[simp] theorem State.setCol_retired (s : State) (i : Nat) (c : Column) : (s.setCol i c).retired = s.retired := rfl
@[simp] theorem State.setCol_wcomp (s : State) (i : Nat) (c : Column) : (s.setCol i c).wcomp = s.wcomp := rfl
@[simp] theorem State.setCol_bootStage (s : State) (i : Nat) (c : Column) : (s.setCol i c).bootStage = s.bootStage := rfl
@[simp] theorem State.setCol_bootLock (s : State) (i : Nat) (c : Column) : (s.setCol i c).bootLock = s.bootLock := rfl
@[simp] theorem State.setCol_mqbase (s : State) (i : Nat) (c : Column) : (s.setCol i c).mqbase = s.mqbase := rfl
@[simp] theorem State.setCol_mqovf (s : State) (i : Nat) (c : Column) : (s.setCol i c).mqovf = s.mqovf := rfl
@[simp] theorem State.setCol_herr (s : State) (i : Nat) (c : Column) : (s.setCol i c).herr = s.herr := rfl
@[simp] theorem State.setCol_herraddr (s : State) (i : Nat) (c : Column) : (s.setCol i c).herraddr = s.herraddr := rfl
@[simp] theorem State.setCol_mplim (s : State) (i : Nat) (c : Column) : (s.setCol i c).mplim = s.mplim := rfl
@[simp] theorem State.setCol_mpnow (s : State) (i : Nat) (c : Column) : (s.setCol i c).mpnow = s.mpnow := rfl
@[simp] theorem State.setCol_throt (s : State) (i : Nat) (c : Column) : (s.setCol i c).throt = s.throt := rfl
@[simp] theorem State.setCol_hot (s : State) (i : Nat) (c : Column) : (s.setCol i c).hot = s.hot := rfl
@[simp] theorem State.setCol_mcmds (s : State) (i : Nat) (c : Column) : (s.setCol i c).mcmds = s.mcmds := rfl
@[simp] theorem State.setCol_links (s : State) (i : Nat) (c : Column) : (s.setCol i c).links = s.links := rfl
@[simp] theorem State.setCol_errlog (s : State) (i : Nat) (c : Column) : (s.setCol i c).errlog = s.errlog := rfl
@[simp] theorem State.setCol_linkWidth (s : State) (i : Nat) (c : Column) : (s.setCol i c).linkWidth = s.linkWidth := rfl
@[simp] theorem State.setCol_linkRate (s : State) (i : Nat) (c : Column) : (s.setCol i c).linkRate = s.linkRate := rfl
@[simp] theorem State.setCol_doe (s : State) (i : Nat) (c : Column) : (s.setCol i c).doe = s.doe := rfl
@[simp] theorem State.setCol_hostRead (s : State) (i : Nat) (c : Column) : (s.setCol i c).hostRead = s.hostRead := rfl
@[simp] theorem State.setCol_hostErr (s : State) (i : Nat) (c : Column) : (s.setCol i c).hostErr = s.hostErr := rfl
@[simp] theorem State.setCol_outside (s : State) (i : Nat) (c : Column) : (s.setCol i c).outside = s.outside := rfl
@[simp] theorem State.setCol_refusedStores (s : State) (i : Nat) (c : Column) : (s.setCol i c).refusedStores = s.refusedStores := rfl
@[simp] theorem State.setCol_reds (s : State) (i : Nat) (c : Column) : (s.setCol i c).reds = s.reds := rfl
@[simp] theorem State.setCol_acks (s : State) (i : Nat) (c : Column) : (s.setCol i c).acks = s.acks := rfl
@[simp] theorem State.setCol_homeOps (s : State) (i : Nat) (c : Column) : (s.setCol i c).homeOps = s.homeOps := rfl
@[simp] theorem State.setCol_parked (s : State) (i : Nat) (c : Column) : (s.setCol i c).parked = s.parked := rfl
@[simp] theorem State.setCol_holdWakes (s : State) (i : Nat) (c : Column) : (s.setCol i c).holdWakes = s.holdWakes := rfl
@[simp] theorem State.setCol_ldfeAns (s : State) (i : Nat) (c : Column) : (s.setCol i c).ldfeAns = s.ldfeAns := rfl
@[simp] theorem State.setCol_fires (s : State) (i : Nat) (c : Column) : (s.setCol i c).fires = s.fires := rfl
@[simp] theorem State.setCol_joinWakes (s : State) (i : Nat) (c : Column) : (s.setCol i c).joinWakes = s.joinWakes := rfl
@[simp] theorem State.setCol_abandons (s : State) (i : Nat) (c : Column) : (s.setCol i c).abandons = s.abandons := rfl
@[simp] theorem State.setCol_spawns (s : State) (i : Nat) (c : Column) : (s.setCol i c).spawns = s.spawns := rfl
@[simp] theorem State.setCol_pushes (s : State) (i : Nat) (c : Column) : (s.setCol i c).pushes = s.pushes := rfl
@[simp] theorem State.setCol_jobNotes (s : State) (i : Nat) (c : Column) : (s.setCol i c).jobNotes = s.jobNotes := rfl
@[simp] theorem State.setCol_mxcans (s : State) (i : Nat) (c : Column) : (s.setCol i c).mxcans = s.mxcans := rfl
@[simp] theorem State.setCol_locks (s : State) (i : Nat) (c : Column) : (s.setCol i c).locks = s.locks := rfl
@[simp] theorem State.setCol_retires (s : State) (i : Nat) (c : Column) : (s.setCol i c).retires = s.retires := rfl
@[simp] theorem State.setCol_tlbis (s : State) (i : Nat) (c : Column) : (s.setCol i c).tlbis = s.tlbis := rfl
@[simp] theorem State.setCol_cur (s : State) (i : Nat) (c : Column) : (s.setCol i c).cur = s.cur := rfl
@[simp] theorem State.setCol_seat (s : State) (i : Nat) (c : Column) : (s.setCol i c).seat = s.seat := rfl
@[simp] theorem State.setCol_run (s : State) (i : Nat) (c : Column) : (s.setCol i c).run = s.run := rfl
@[simp] theorem State.setCol_walked (s : State) (i : Nat) (c : Column) : (s.setCol i c).walked = s.walked := rfl
@[simp] theorem State.setCol_sel (s : State) (i : Nat) (c : Column) : (s.setCol i c).sel = s.sel := rfl
@[simp] theorem State.setCol_schedule (s : State) (i : Nat) (c : Column) : (s.setCol i c).schedule = s.schedule := rfl
@[simp] theorem State.setCol_units (s : State) (i : Nat) (c : Column) : (s.setCol i c).units = s.units := rfl
@[simp] theorem State.setCol_early (s : State) (i : Nat) (c : Column) : (s.setCol i c).early = s.early := rfl
@[simp] theorem State.setCol_redo (s : State) (i : Nat) (c : Column) : (s.setCol i c).redo = s.redo := rfl
@[simp] theorem State.setCol_fresh (s : State) (i : Nat) (c : Column) : (s.setCol i c).fresh = s.fresh := rfl
@[simp] theorem State.setCol_ops (s : State) (i : Nat) (c : Column) : (s.setCol i c).ops = s.ops := rfl
@[simp] theorem State.setCol_time (s : State) (i : Nat) (c : Column) : (s.setCol i c).time = s.time := rfl

@[simp] theorem State.setSpan_rows (s : State) (i : Nat) (x : Span) : (s.setSpan i x).rows = s.rows := rfl
@[simp] theorem State.setSpan_cols (s : State) (i : Nat) (x : Span) : (s.setSpan i x).cols = s.cols := rfl
@[simp] theorem State.setSpan_fields (s : State) (i : Nat) (x : Span) : (s.setSpan i x).fields = s.fields := rfl
@[simp] theorem State.setSpan_tens (s : State) (i : Nat) (x : Span) : (s.setSpan i x).tens = s.tens := rfl
@[simp] theorem State.setSpan_mem (s : State) (i : Nat) (x : Span) : (s.setSpan i x).mem = s.mem := rfl
@[simp] theorem State.setSpan_host (s : State) (i : Nat) (x : Span) : (s.setSpan i x).host = s.host := rfl
@[simp] theorem State.setSpan_poison (s : State) (i : Nat) (x : Span) : (s.setSpan i x).poison = s.poison := rfl
@[simp] theorem State.setSpan_empty (s : State) (i : Nat) (x : Span) : (s.setSpan i x).empty = s.empty := rfl
@[simp] theorem State.setSpan_relvec (s : State) (i : Nat) (x : Span) : (s.setSpan i x).relvec = s.relvec := rfl
@[simp] theorem State.setSpan_harvest (s : State) (i : Nat) (x : Span) : (s.setSpan i x).harvest = s.harvest := rfl
@[simp] theorem State.setSpan_retired (s : State) (i : Nat) (x : Span) : (s.setSpan i x).retired = s.retired := rfl
@[simp] theorem State.setSpan_wcomp (s : State) (i : Nat) (x : Span) : (s.setSpan i x).wcomp = s.wcomp := rfl
@[simp] theorem State.setSpan_bootStage (s : State) (i : Nat) (x : Span) : (s.setSpan i x).bootStage = s.bootStage := rfl
@[simp] theorem State.setSpan_bootLock (s : State) (i : Nat) (x : Span) : (s.setSpan i x).bootLock = s.bootLock := rfl
@[simp] theorem State.setSpan_mqbase (s : State) (i : Nat) (x : Span) : (s.setSpan i x).mqbase = s.mqbase := rfl
@[simp] theorem State.setSpan_mqovf (s : State) (i : Nat) (x : Span) : (s.setSpan i x).mqovf = s.mqovf := rfl
@[simp] theorem State.setSpan_herr (s : State) (i : Nat) (x : Span) : (s.setSpan i x).herr = s.herr := rfl
@[simp] theorem State.setSpan_herraddr (s : State) (i : Nat) (x : Span) : (s.setSpan i x).herraddr = s.herraddr := rfl
@[simp] theorem State.setSpan_mplim (s : State) (i : Nat) (x : Span) : (s.setSpan i x).mplim = s.mplim := rfl
@[simp] theorem State.setSpan_mpnow (s : State) (i : Nat) (x : Span) : (s.setSpan i x).mpnow = s.mpnow := rfl
@[simp] theorem State.setSpan_throt (s : State) (i : Nat) (x : Span) : (s.setSpan i x).throt = s.throt := rfl
@[simp] theorem State.setSpan_hot (s : State) (i : Nat) (x : Span) : (s.setSpan i x).hot = s.hot := rfl
@[simp] theorem State.setSpan_mcmds (s : State) (i : Nat) (x : Span) : (s.setSpan i x).mcmds = s.mcmds := rfl
@[simp] theorem State.setSpan_links (s : State) (i : Nat) (x : Span) : (s.setSpan i x).links = s.links := rfl
@[simp] theorem State.setSpan_errlog (s : State) (i : Nat) (x : Span) : (s.setSpan i x).errlog = s.errlog := rfl
@[simp] theorem State.setSpan_linkWidth (s : State) (i : Nat) (x : Span) : (s.setSpan i x).linkWidth = s.linkWidth := rfl
@[simp] theorem State.setSpan_linkRate (s : State) (i : Nat) (x : Span) : (s.setSpan i x).linkRate = s.linkRate := rfl
@[simp] theorem State.setSpan_doe (s : State) (i : Nat) (x : Span) : (s.setSpan i x).doe = s.doe := rfl
@[simp] theorem State.setSpan_hostRead (s : State) (i : Nat) (x : Span) : (s.setSpan i x).hostRead = s.hostRead := rfl
@[simp] theorem State.setSpan_hostErr (s : State) (i : Nat) (x : Span) : (s.setSpan i x).hostErr = s.hostErr := rfl
@[simp] theorem State.setSpan_outside (s : State) (i : Nat) (x : Span) : (s.setSpan i x).outside = s.outside := rfl
@[simp] theorem State.setSpan_refusedStores (s : State) (i : Nat) (x : Span) : (s.setSpan i x).refusedStores = s.refusedStores := rfl
@[simp] theorem State.setSpan_reds (s : State) (i : Nat) (x : Span) : (s.setSpan i x).reds = s.reds := rfl
@[simp] theorem State.setSpan_acks (s : State) (i : Nat) (x : Span) : (s.setSpan i x).acks = s.acks := rfl
@[simp] theorem State.setSpan_homeOps (s : State) (i : Nat) (x : Span) : (s.setSpan i x).homeOps = s.homeOps := rfl
@[simp] theorem State.setSpan_parked (s : State) (i : Nat) (x : Span) : (s.setSpan i x).parked = s.parked := rfl
@[simp] theorem State.setSpan_holdWakes (s : State) (i : Nat) (x : Span) : (s.setSpan i x).holdWakes = s.holdWakes := rfl
@[simp] theorem State.setSpan_ldfeAns (s : State) (i : Nat) (x : Span) : (s.setSpan i x).ldfeAns = s.ldfeAns := rfl
@[simp] theorem State.setSpan_fires (s : State) (i : Nat) (x : Span) : (s.setSpan i x).fires = s.fires := rfl
@[simp] theorem State.setSpan_joinWakes (s : State) (i : Nat) (x : Span) : (s.setSpan i x).joinWakes = s.joinWakes := rfl
@[simp] theorem State.setSpan_abandons (s : State) (i : Nat) (x : Span) : (s.setSpan i x).abandons = s.abandons := rfl
@[simp] theorem State.setSpan_spawns (s : State) (i : Nat) (x : Span) : (s.setSpan i x).spawns = s.spawns := rfl
@[simp] theorem State.setSpan_pushes (s : State) (i : Nat) (x : Span) : (s.setSpan i x).pushes = s.pushes := rfl
@[simp] theorem State.setSpan_jobNotes (s : State) (i : Nat) (x : Span) : (s.setSpan i x).jobNotes = s.jobNotes := rfl
@[simp] theorem State.setSpan_mxcans (s : State) (i : Nat) (x : Span) : (s.setSpan i x).mxcans = s.mxcans := rfl
@[simp] theorem State.setSpan_locks (s : State) (i : Nat) (x : Span) : (s.setSpan i x).locks = s.locks := rfl
@[simp] theorem State.setSpan_retires (s : State) (i : Nat) (x : Span) : (s.setSpan i x).retires = s.retires := rfl
@[simp] theorem State.setSpan_tlbis (s : State) (i : Nat) (x : Span) : (s.setSpan i x).tlbis = s.tlbis := rfl
@[simp] theorem State.setSpan_cur (s : State) (i : Nat) (x : Span) : (s.setSpan i x).cur = s.cur := rfl
@[simp] theorem State.setSpan_seat (s : State) (i : Nat) (x : Span) : (s.setSpan i x).seat = s.seat := rfl
@[simp] theorem State.setSpan_run (s : State) (i : Nat) (x : Span) : (s.setSpan i x).run = s.run := rfl
@[simp] theorem State.setSpan_walked (s : State) (i : Nat) (x : Span) : (s.setSpan i x).walked = s.walked := rfl
@[simp] theorem State.setSpan_sel (s : State) (i : Nat) (x : Span) : (s.setSpan i x).sel = s.sel := rfl
@[simp] theorem State.setSpan_schedule (s : State) (i : Nat) (x : Span) : (s.setSpan i x).schedule = s.schedule := rfl
@[simp] theorem State.setSpan_units (s : State) (i : Nat) (x : Span) : (s.setSpan i x).units = s.units := rfl
@[simp] theorem State.setSpan_early (s : State) (i : Nat) (x : Span) : (s.setSpan i x).early = s.early := rfl
@[simp] theorem State.setSpan_redo (s : State) (i : Nat) (x : Span) : (s.setSpan i x).redo = s.redo := rfl
@[simp] theorem State.setSpan_fresh (s : State) (i : Nat) (x : Span) : (s.setSpan i x).fresh = s.fresh := rfl
@[simp] theorem State.setSpan_ops (s : State) (i : Nat) (x : Span) : (s.setSpan i x).ops = s.ops := rfl
@[simp] theorem State.setSpan_time (s : State) (i : Nat) (x : Span) : (s.setSpan i x).time = s.time := rfl

@[simp] theorem State.setField_rows (s : State) (i : Nat) (x : Field) : (s.setField i x).rows = s.rows := rfl
@[simp] theorem State.setField_cols (s : State) (i : Nat) (x : Field) : (s.setField i x).cols = s.cols := rfl
@[simp] theorem State.setField_spans (s : State) (i : Nat) (x : Field) : (s.setField i x).spans = s.spans := rfl
@[simp] theorem State.setField_tens (s : State) (i : Nat) (x : Field) : (s.setField i x).tens = s.tens := rfl
@[simp] theorem State.setField_mem (s : State) (i : Nat) (x : Field) : (s.setField i x).mem = s.mem := rfl
@[simp] theorem State.setField_host (s : State) (i : Nat) (x : Field) : (s.setField i x).host = s.host := rfl
@[simp] theorem State.setField_poison (s : State) (i : Nat) (x : Field) : (s.setField i x).poison = s.poison := rfl
@[simp] theorem State.setField_empty (s : State) (i : Nat) (x : Field) : (s.setField i x).empty = s.empty := rfl
@[simp] theorem State.setField_relvec (s : State) (i : Nat) (x : Field) : (s.setField i x).relvec = s.relvec := rfl
@[simp] theorem State.setField_harvest (s : State) (i : Nat) (x : Field) : (s.setField i x).harvest = s.harvest := rfl
@[simp] theorem State.setField_retired (s : State) (i : Nat) (x : Field) : (s.setField i x).retired = s.retired := rfl
@[simp] theorem State.setField_wcomp (s : State) (i : Nat) (x : Field) : (s.setField i x).wcomp = s.wcomp := rfl
@[simp] theorem State.setField_bootStage (s : State) (i : Nat) (x : Field) : (s.setField i x).bootStage = s.bootStage := rfl
@[simp] theorem State.setField_bootLock (s : State) (i : Nat) (x : Field) : (s.setField i x).bootLock = s.bootLock := rfl
@[simp] theorem State.setField_mqbase (s : State) (i : Nat) (x : Field) : (s.setField i x).mqbase = s.mqbase := rfl
@[simp] theorem State.setField_mqovf (s : State) (i : Nat) (x : Field) : (s.setField i x).mqovf = s.mqovf := rfl
@[simp] theorem State.setField_herr (s : State) (i : Nat) (x : Field) : (s.setField i x).herr = s.herr := rfl
@[simp] theorem State.setField_herraddr (s : State) (i : Nat) (x : Field) : (s.setField i x).herraddr = s.herraddr := rfl
@[simp] theorem State.setField_mplim (s : State) (i : Nat) (x : Field) : (s.setField i x).mplim = s.mplim := rfl
@[simp] theorem State.setField_mpnow (s : State) (i : Nat) (x : Field) : (s.setField i x).mpnow = s.mpnow := rfl
@[simp] theorem State.setField_throt (s : State) (i : Nat) (x : Field) : (s.setField i x).throt = s.throt := rfl
@[simp] theorem State.setField_hot (s : State) (i : Nat) (x : Field) : (s.setField i x).hot = s.hot := rfl
@[simp] theorem State.setField_mcmds (s : State) (i : Nat) (x : Field) : (s.setField i x).mcmds = s.mcmds := rfl
@[simp] theorem State.setField_links (s : State) (i : Nat) (x : Field) : (s.setField i x).links = s.links := rfl
@[simp] theorem State.setField_errlog (s : State) (i : Nat) (x : Field) : (s.setField i x).errlog = s.errlog := rfl
@[simp] theorem State.setField_linkWidth (s : State) (i : Nat) (x : Field) : (s.setField i x).linkWidth = s.linkWidth := rfl
@[simp] theorem State.setField_linkRate (s : State) (i : Nat) (x : Field) : (s.setField i x).linkRate = s.linkRate := rfl
@[simp] theorem State.setField_doe (s : State) (i : Nat) (x : Field) : (s.setField i x).doe = s.doe := rfl
@[simp] theorem State.setField_hostRead (s : State) (i : Nat) (x : Field) : (s.setField i x).hostRead = s.hostRead := rfl
@[simp] theorem State.setField_hostErr (s : State) (i : Nat) (x : Field) : (s.setField i x).hostErr = s.hostErr := rfl
@[simp] theorem State.setField_outside (s : State) (i : Nat) (x : Field) : (s.setField i x).outside = s.outside := rfl
@[simp] theorem State.setField_refusedStores (s : State) (i : Nat) (x : Field) : (s.setField i x).refusedStores = s.refusedStores := rfl
@[simp] theorem State.setField_reds (s : State) (i : Nat) (x : Field) : (s.setField i x).reds = s.reds := rfl
@[simp] theorem State.setField_acks (s : State) (i : Nat) (x : Field) : (s.setField i x).acks = s.acks := rfl
@[simp] theorem State.setField_homeOps (s : State) (i : Nat) (x : Field) : (s.setField i x).homeOps = s.homeOps := rfl
@[simp] theorem State.setField_parked (s : State) (i : Nat) (x : Field) : (s.setField i x).parked = s.parked := rfl
@[simp] theorem State.setField_holdWakes (s : State) (i : Nat) (x : Field) : (s.setField i x).holdWakes = s.holdWakes := rfl
@[simp] theorem State.setField_ldfeAns (s : State) (i : Nat) (x : Field) : (s.setField i x).ldfeAns = s.ldfeAns := rfl
@[simp] theorem State.setField_fires (s : State) (i : Nat) (x : Field) : (s.setField i x).fires = s.fires := rfl
@[simp] theorem State.setField_joinWakes (s : State) (i : Nat) (x : Field) : (s.setField i x).joinWakes = s.joinWakes := rfl
@[simp] theorem State.setField_abandons (s : State) (i : Nat) (x : Field) : (s.setField i x).abandons = s.abandons := rfl
@[simp] theorem State.setField_spawns (s : State) (i : Nat) (x : Field) : (s.setField i x).spawns = s.spawns := rfl
@[simp] theorem State.setField_pushes (s : State) (i : Nat) (x : Field) : (s.setField i x).pushes = s.pushes := rfl
@[simp] theorem State.setField_jobNotes (s : State) (i : Nat) (x : Field) : (s.setField i x).jobNotes = s.jobNotes := rfl
@[simp] theorem State.setField_mxcans (s : State) (i : Nat) (x : Field) : (s.setField i x).mxcans = s.mxcans := rfl
@[simp] theorem State.setField_locks (s : State) (i : Nat) (x : Field) : (s.setField i x).locks = s.locks := rfl
@[simp] theorem State.setField_retires (s : State) (i : Nat) (x : Field) : (s.setField i x).retires = s.retires := rfl
@[simp] theorem State.setField_tlbis (s : State) (i : Nat) (x : Field) : (s.setField i x).tlbis = s.tlbis := rfl
@[simp] theorem State.setField_cur (s : State) (i : Nat) (x : Field) : (s.setField i x).cur = s.cur := rfl
@[simp] theorem State.setField_seat (s : State) (i : Nat) (x : Field) : (s.setField i x).seat = s.seat := rfl
@[simp] theorem State.setField_run (s : State) (i : Nat) (x : Field) : (s.setField i x).run = s.run := rfl
@[simp] theorem State.setField_walked (s : State) (i : Nat) (x : Field) : (s.setField i x).walked = s.walked := rfl
@[simp] theorem State.setField_sel (s : State) (i : Nat) (x : Field) : (s.setField i x).sel = s.sel := rfl
@[simp] theorem State.setField_schedule (s : State) (i : Nat) (x : Field) : (s.setField i x).schedule = s.schedule := rfl
@[simp] theorem State.setField_units (s : State) (i : Nat) (x : Field) : (s.setField i x).units = s.units := rfl
@[simp] theorem State.setField_early (s : State) (i : Nat) (x : Field) : (s.setField i x).early = s.early := rfl
@[simp] theorem State.setField_redo (s : State) (i : Nat) (x : Field) : (s.setField i x).redo = s.redo := rfl
@[simp] theorem State.setField_fresh (s : State) (i : Nat) (x : Field) : (s.setField i x).fresh = s.fresh := rfl
@[simp] theorem State.setField_ops (s : State) (i : Nat) (x : Field) : (s.setField i x).ops = s.ops := rfl
@[simp] theorem State.setField_time (s : State) (i : Nat) (x : Field) : (s.setField i x).time = s.time := rfl

@[simp] theorem State.setTen_rows (s : State) (t : BitVec 4) (x : Tenant) : (s.setTen t x).rows = s.rows := rfl
@[simp] theorem State.setTen_cols (s : State) (t : BitVec 4) (x : Tenant) : (s.setTen t x).cols = s.cols := rfl
@[simp] theorem State.setTen_spans (s : State) (t : BitVec 4) (x : Tenant) : (s.setTen t x).spans = s.spans := rfl
@[simp] theorem State.setTen_fields (s : State) (t : BitVec 4) (x : Tenant) : (s.setTen t x).fields = s.fields := rfl
@[simp] theorem State.setTen_mem (s : State) (t : BitVec 4) (x : Tenant) : (s.setTen t x).mem = s.mem := rfl
@[simp] theorem State.setTen_host (s : State) (t : BitVec 4) (x : Tenant) : (s.setTen t x).host = s.host := rfl
@[simp] theorem State.setTen_poison (s : State) (t : BitVec 4) (x : Tenant) : (s.setTen t x).poison = s.poison := rfl
@[simp] theorem State.setTen_empty (s : State) (t : BitVec 4) (x : Tenant) : (s.setTen t x).empty = s.empty := rfl
@[simp] theorem State.setTen_relvec (s : State) (t : BitVec 4) (x : Tenant) : (s.setTen t x).relvec = s.relvec := rfl
@[simp] theorem State.setTen_harvest (s : State) (t : BitVec 4) (x : Tenant) : (s.setTen t x).harvest = s.harvest := rfl
@[simp] theorem State.setTen_retired (s : State) (t : BitVec 4) (x : Tenant) : (s.setTen t x).retired = s.retired := rfl
@[simp] theorem State.setTen_wcomp (s : State) (t : BitVec 4) (x : Tenant) : (s.setTen t x).wcomp = s.wcomp := rfl
@[simp] theorem State.setTen_bootStage (s : State) (t : BitVec 4) (x : Tenant) : (s.setTen t x).bootStage = s.bootStage := rfl
@[simp] theorem State.setTen_bootLock (s : State) (t : BitVec 4) (x : Tenant) : (s.setTen t x).bootLock = s.bootLock := rfl
@[simp] theorem State.setTen_mqbase (s : State) (t : BitVec 4) (x : Tenant) : (s.setTen t x).mqbase = s.mqbase := rfl
@[simp] theorem State.setTen_mqovf (s : State) (t : BitVec 4) (x : Tenant) : (s.setTen t x).mqovf = s.mqovf := rfl
@[simp] theorem State.setTen_herr (s : State) (t : BitVec 4) (x : Tenant) : (s.setTen t x).herr = s.herr := rfl
@[simp] theorem State.setTen_herraddr (s : State) (t : BitVec 4) (x : Tenant) : (s.setTen t x).herraddr = s.herraddr := rfl
@[simp] theorem State.setTen_mplim (s : State) (t : BitVec 4) (x : Tenant) : (s.setTen t x).mplim = s.mplim := rfl
@[simp] theorem State.setTen_mpnow (s : State) (t : BitVec 4) (x : Tenant) : (s.setTen t x).mpnow = s.mpnow := rfl
@[simp] theorem State.setTen_throt (s : State) (t : BitVec 4) (x : Tenant) : (s.setTen t x).throt = s.throt := rfl
@[simp] theorem State.setTen_hot (s : State) (t : BitVec 4) (x : Tenant) : (s.setTen t x).hot = s.hot := rfl
@[simp] theorem State.setTen_mcmds (s : State) (t : BitVec 4) (x : Tenant) : (s.setTen t x).mcmds = s.mcmds := rfl
@[simp] theorem State.setTen_links (s : State) (t : BitVec 4) (x : Tenant) : (s.setTen t x).links = s.links := rfl
@[simp] theorem State.setTen_errlog (s : State) (t : BitVec 4) (x : Tenant) : (s.setTen t x).errlog = s.errlog := rfl
@[simp] theorem State.setTen_linkWidth (s : State) (t : BitVec 4) (x : Tenant) : (s.setTen t x).linkWidth = s.linkWidth := rfl
@[simp] theorem State.setTen_linkRate (s : State) (t : BitVec 4) (x : Tenant) : (s.setTen t x).linkRate = s.linkRate := rfl
@[simp] theorem State.setTen_doe (s : State) (t : BitVec 4) (x : Tenant) : (s.setTen t x).doe = s.doe := rfl
@[simp] theorem State.setTen_hostRead (s : State) (t : BitVec 4) (x : Tenant) : (s.setTen t x).hostRead = s.hostRead := rfl
@[simp] theorem State.setTen_hostErr (s : State) (t : BitVec 4) (x : Tenant) : (s.setTen t x).hostErr = s.hostErr := rfl
@[simp] theorem State.setTen_outside (s : State) (t : BitVec 4) (x : Tenant) : (s.setTen t x).outside = s.outside := rfl
@[simp] theorem State.setTen_refusedStores (s : State) (t : BitVec 4) (x : Tenant) : (s.setTen t x).refusedStores = s.refusedStores := rfl
@[simp] theorem State.setTen_reds (s : State) (t : BitVec 4) (x : Tenant) : (s.setTen t x).reds = s.reds := rfl
@[simp] theorem State.setTen_acks (s : State) (t : BitVec 4) (x : Tenant) : (s.setTen t x).acks = s.acks := rfl
@[simp] theorem State.setTen_homeOps (s : State) (t : BitVec 4) (x : Tenant) : (s.setTen t x).homeOps = s.homeOps := rfl
@[simp] theorem State.setTen_parked (s : State) (t : BitVec 4) (x : Tenant) : (s.setTen t x).parked = s.parked := rfl
@[simp] theorem State.setTen_holdWakes (s : State) (t : BitVec 4) (x : Tenant) : (s.setTen t x).holdWakes = s.holdWakes := rfl
@[simp] theorem State.setTen_ldfeAns (s : State) (t : BitVec 4) (x : Tenant) : (s.setTen t x).ldfeAns = s.ldfeAns := rfl
@[simp] theorem State.setTen_fires (s : State) (t : BitVec 4) (x : Tenant) : (s.setTen t x).fires = s.fires := rfl
@[simp] theorem State.setTen_joinWakes (s : State) (t : BitVec 4) (x : Tenant) : (s.setTen t x).joinWakes = s.joinWakes := rfl
@[simp] theorem State.setTen_abandons (s : State) (t : BitVec 4) (x : Tenant) : (s.setTen t x).abandons = s.abandons := rfl
@[simp] theorem State.setTen_spawns (s : State) (t : BitVec 4) (x : Tenant) : (s.setTen t x).spawns = s.spawns := rfl
@[simp] theorem State.setTen_pushes (s : State) (t : BitVec 4) (x : Tenant) : (s.setTen t x).pushes = s.pushes := rfl
@[simp] theorem State.setTen_jobNotes (s : State) (t : BitVec 4) (x : Tenant) : (s.setTen t x).jobNotes = s.jobNotes := rfl
@[simp] theorem State.setTen_mxcans (s : State) (t : BitVec 4) (x : Tenant) : (s.setTen t x).mxcans = s.mxcans := rfl
@[simp] theorem State.setTen_locks (s : State) (t : BitVec 4) (x : Tenant) : (s.setTen t x).locks = s.locks := rfl
@[simp] theorem State.setTen_retires (s : State) (t : BitVec 4) (x : Tenant) : (s.setTen t x).retires = s.retires := rfl
@[simp] theorem State.setTen_tlbis (s : State) (t : BitVec 4) (x : Tenant) : (s.setTen t x).tlbis = s.tlbis := rfl
@[simp] theorem State.setTen_cur (s : State) (t : BitVec 4) (x : Tenant) : (s.setTen t x).cur = s.cur := rfl
@[simp] theorem State.setTen_seat (s : State) (t : BitVec 4) (x : Tenant) : (s.setTen t x).seat = s.seat := rfl
@[simp] theorem State.setTen_run (s : State) (t : BitVec 4) (x : Tenant) : (s.setTen t x).run = s.run := rfl
@[simp] theorem State.setTen_walked (s : State) (t : BitVec 4) (x : Tenant) : (s.setTen t x).walked = s.walked := rfl
@[simp] theorem State.setTen_sel (s : State) (t : BitVec 4) (x : Tenant) : (s.setTen t x).sel = s.sel := rfl
@[simp] theorem State.setTen_schedule (s : State) (t : BitVec 4) (x : Tenant) : (s.setTen t x).schedule = s.schedule := rfl
@[simp] theorem State.setTen_units (s : State) (t : BitVec 4) (x : Tenant) : (s.setTen t x).units = s.units := rfl
@[simp] theorem State.setTen_early (s : State) (t : BitVec 4) (x : Tenant) : (s.setTen t x).early = s.early := rfl
@[simp] theorem State.setTen_redo (s : State) (t : BitVec 4) (x : Tenant) : (s.setTen t x).redo = s.redo := rfl
@[simp] theorem State.setTen_fresh (s : State) (t : BitVec 4) (x : Tenant) : (s.setTen t x).fresh = s.fresh := rfl
@[simp] theorem State.setTen_ops (s : State) (t : BitVec 4) (x : Tenant) : (s.setTen t x).ops = s.ops := rfl
@[simp] theorem State.setTen_time (s : State) (t : BitVec 4) (x : Tenant) : (s.setTen t x).time = s.time := rfl

@[simp] theorem State.setExecutor_rows (s : State) (i : Nat) (b : BitVec 3) (e : Exec) : (s.setExecutor i b e).rows = s.rows := rfl
@[simp] theorem State.setExecutor_spans (s : State) (i : Nat) (b : BitVec 3) (e : Exec) : (s.setExecutor i b e).spans = s.spans := rfl
@[simp] theorem State.setExecutor_fields (s : State) (i : Nat) (b : BitVec 3) (e : Exec) : (s.setExecutor i b e).fields = s.fields := rfl
@[simp] theorem State.setExecutor_tens (s : State) (i : Nat) (b : BitVec 3) (e : Exec) : (s.setExecutor i b e).tens = s.tens := rfl
@[simp] theorem State.setExecutor_mem (s : State) (i : Nat) (b : BitVec 3) (e : Exec) : (s.setExecutor i b e).mem = s.mem := rfl
@[simp] theorem State.setExecutor_host (s : State) (i : Nat) (b : BitVec 3) (e : Exec) : (s.setExecutor i b e).host = s.host := rfl
@[simp] theorem State.setExecutor_poison (s : State) (i : Nat) (b : BitVec 3) (e : Exec) : (s.setExecutor i b e).poison = s.poison := rfl
@[simp] theorem State.setExecutor_empty (s : State) (i : Nat) (b : BitVec 3) (e : Exec) : (s.setExecutor i b e).empty = s.empty := rfl
@[simp] theorem State.setExecutor_relvec (s : State) (i : Nat) (b : BitVec 3) (e : Exec) : (s.setExecutor i b e).relvec = s.relvec := rfl
@[simp] theorem State.setExecutor_harvest (s : State) (i : Nat) (b : BitVec 3) (e : Exec) : (s.setExecutor i b e).harvest = s.harvest := rfl
@[simp] theorem State.setExecutor_retired (s : State) (i : Nat) (b : BitVec 3) (e : Exec) : (s.setExecutor i b e).retired = s.retired := rfl
@[simp] theorem State.setExecutor_wcomp (s : State) (i : Nat) (b : BitVec 3) (e : Exec) : (s.setExecutor i b e).wcomp = s.wcomp := rfl
@[simp] theorem State.setExecutor_bootStage (s : State) (i : Nat) (b : BitVec 3) (e : Exec) : (s.setExecutor i b e).bootStage = s.bootStage := rfl
@[simp] theorem State.setExecutor_bootLock (s : State) (i : Nat) (b : BitVec 3) (e : Exec) : (s.setExecutor i b e).bootLock = s.bootLock := rfl
@[simp] theorem State.setExecutor_mqbase (s : State) (i : Nat) (b : BitVec 3) (e : Exec) : (s.setExecutor i b e).mqbase = s.mqbase := rfl
@[simp] theorem State.setExecutor_mqovf (s : State) (i : Nat) (b : BitVec 3) (e : Exec) : (s.setExecutor i b e).mqovf = s.mqovf := rfl
@[simp] theorem State.setExecutor_herr (s : State) (i : Nat) (b : BitVec 3) (e : Exec) : (s.setExecutor i b e).herr = s.herr := rfl
@[simp] theorem State.setExecutor_herraddr (s : State) (i : Nat) (b : BitVec 3) (e : Exec) : (s.setExecutor i b e).herraddr = s.herraddr := rfl
@[simp] theorem State.setExecutor_mplim (s : State) (i : Nat) (b : BitVec 3) (e : Exec) : (s.setExecutor i b e).mplim = s.mplim := rfl
@[simp] theorem State.setExecutor_mpnow (s : State) (i : Nat) (b : BitVec 3) (e : Exec) : (s.setExecutor i b e).mpnow = s.mpnow := rfl
@[simp] theorem State.setExecutor_throt (s : State) (i : Nat) (b : BitVec 3) (e : Exec) : (s.setExecutor i b e).throt = s.throt := rfl
@[simp] theorem State.setExecutor_hot (s : State) (i : Nat) (b : BitVec 3) (e : Exec) : (s.setExecutor i b e).hot = s.hot := rfl
@[simp] theorem State.setExecutor_mcmds (s : State) (i : Nat) (b : BitVec 3) (e : Exec) : (s.setExecutor i b e).mcmds = s.mcmds := rfl
@[simp] theorem State.setExecutor_links (s : State) (i : Nat) (b : BitVec 3) (e : Exec) : (s.setExecutor i b e).links = s.links := rfl
@[simp] theorem State.setExecutor_errlog (s : State) (i : Nat) (b : BitVec 3) (e : Exec) : (s.setExecutor i b e).errlog = s.errlog := rfl
@[simp] theorem State.setExecutor_linkWidth (s : State) (i : Nat) (b : BitVec 3) (e : Exec) : (s.setExecutor i b e).linkWidth = s.linkWidth := rfl
@[simp] theorem State.setExecutor_linkRate (s : State) (i : Nat) (b : BitVec 3) (e : Exec) : (s.setExecutor i b e).linkRate = s.linkRate := rfl
@[simp] theorem State.setExecutor_doe (s : State) (i : Nat) (b : BitVec 3) (e : Exec) : (s.setExecutor i b e).doe = s.doe := rfl
@[simp] theorem State.setExecutor_hostRead (s : State) (i : Nat) (b : BitVec 3) (e : Exec) : (s.setExecutor i b e).hostRead = s.hostRead := rfl
@[simp] theorem State.setExecutor_hostErr (s : State) (i : Nat) (b : BitVec 3) (e : Exec) : (s.setExecutor i b e).hostErr = s.hostErr := rfl
@[simp] theorem State.setExecutor_outside (s : State) (i : Nat) (b : BitVec 3) (e : Exec) : (s.setExecutor i b e).outside = s.outside := rfl
@[simp] theorem State.setExecutor_refusedStores (s : State) (i : Nat) (b : BitVec 3) (e : Exec) : (s.setExecutor i b e).refusedStores = s.refusedStores := rfl
@[simp] theorem State.setExecutor_reds (s : State) (i : Nat) (b : BitVec 3) (e : Exec) : (s.setExecutor i b e).reds = s.reds := rfl
@[simp] theorem State.setExecutor_acks (s : State) (i : Nat) (b : BitVec 3) (e : Exec) : (s.setExecutor i b e).acks = s.acks := rfl
@[simp] theorem State.setExecutor_homeOps (s : State) (i : Nat) (b : BitVec 3) (e : Exec) : (s.setExecutor i b e).homeOps = s.homeOps := rfl
@[simp] theorem State.setExecutor_parked (s : State) (i : Nat) (b : BitVec 3) (e : Exec) : (s.setExecutor i b e).parked = s.parked := rfl
@[simp] theorem State.setExecutor_holdWakes (s : State) (i : Nat) (b : BitVec 3) (e : Exec) : (s.setExecutor i b e).holdWakes = s.holdWakes := rfl
@[simp] theorem State.setExecutor_ldfeAns (s : State) (i : Nat) (b : BitVec 3) (e : Exec) : (s.setExecutor i b e).ldfeAns = s.ldfeAns := rfl
@[simp] theorem State.setExecutor_fires (s : State) (i : Nat) (b : BitVec 3) (e : Exec) : (s.setExecutor i b e).fires = s.fires := rfl
@[simp] theorem State.setExecutor_joinWakes (s : State) (i : Nat) (b : BitVec 3) (e : Exec) : (s.setExecutor i b e).joinWakes = s.joinWakes := rfl
@[simp] theorem State.setExecutor_abandons (s : State) (i : Nat) (b : BitVec 3) (e : Exec) : (s.setExecutor i b e).abandons = s.abandons := rfl
@[simp] theorem State.setExecutor_spawns (s : State) (i : Nat) (b : BitVec 3) (e : Exec) : (s.setExecutor i b e).spawns = s.spawns := rfl
@[simp] theorem State.setExecutor_pushes (s : State) (i : Nat) (b : BitVec 3) (e : Exec) : (s.setExecutor i b e).pushes = s.pushes := rfl
@[simp] theorem State.setExecutor_jobNotes (s : State) (i : Nat) (b : BitVec 3) (e : Exec) : (s.setExecutor i b e).jobNotes = s.jobNotes := rfl
@[simp] theorem State.setExecutor_mxcans (s : State) (i : Nat) (b : BitVec 3) (e : Exec) : (s.setExecutor i b e).mxcans = s.mxcans := rfl
@[simp] theorem State.setExecutor_locks (s : State) (i : Nat) (b : BitVec 3) (e : Exec) : (s.setExecutor i b e).locks = s.locks := rfl
@[simp] theorem State.setExecutor_retires (s : State) (i : Nat) (b : BitVec 3) (e : Exec) : (s.setExecutor i b e).retires = s.retires := rfl
@[simp] theorem State.setExecutor_tlbis (s : State) (i : Nat) (b : BitVec 3) (e : Exec) : (s.setExecutor i b e).tlbis = s.tlbis := rfl
@[simp] theorem State.setExecutor_cur (s : State) (i : Nat) (b : BitVec 3) (e : Exec) : (s.setExecutor i b e).cur = s.cur := rfl
@[simp] theorem State.setExecutor_seat (s : State) (i : Nat) (b : BitVec 3) (e : Exec) : (s.setExecutor i b e).seat = s.seat := rfl
@[simp] theorem State.setExecutor_run (s : State) (i : Nat) (b : BitVec 3) (e : Exec) : (s.setExecutor i b e).run = s.run := rfl
@[simp] theorem State.setExecutor_walked (s : State) (i : Nat) (b : BitVec 3) (e : Exec) : (s.setExecutor i b e).walked = s.walked := rfl
@[simp] theorem State.setExecutor_sel (s : State) (i : Nat) (b : BitVec 3) (e : Exec) : (s.setExecutor i b e).sel = s.sel := rfl
@[simp] theorem State.setExecutor_schedule (s : State) (i : Nat) (b : BitVec 3) (e : Exec) : (s.setExecutor i b e).schedule = s.schedule := rfl
@[simp] theorem State.setExecutor_units (s : State) (i : Nat) (b : BitVec 3) (e : Exec) : (s.setExecutor i b e).units = s.units := rfl
@[simp] theorem State.setExecutor_early (s : State) (i : Nat) (b : BitVec 3) (e : Exec) : (s.setExecutor i b e).early = s.early := rfl
@[simp] theorem State.setExecutor_redo (s : State) (i : Nat) (b : BitVec 3) (e : Exec) : (s.setExecutor i b e).redo = s.redo := rfl
@[simp] theorem State.setExecutor_fresh (s : State) (i : Nat) (b : BitVec 3) (e : Exec) : (s.setExecutor i b e).fresh = s.fresh := rfl
@[simp] theorem State.setExecutor_ops (s : State) (i : Nat) (b : BitVec 3) (e : Exec) : (s.setExecutor i b e).ops = s.ops := rfl
@[simp] theorem State.setExecutor_time (s : State) (i : Nat) (b : BitVec 3) (e : Exec) : (s.setExecutor i b e).time = s.time := rfl

@[simp] theorem State.setMe_cols (s : State) (r : Row) : (s.setMe r).cols = s.cols := rfl
@[simp] theorem State.setMe_spans (s : State) (r : Row) : (s.setMe r).spans = s.spans := rfl
@[simp] theorem State.setMe_fields (s : State) (r : Row) : (s.setMe r).fields = s.fields := rfl
@[simp] theorem State.setMe_tens (s : State) (r : Row) : (s.setMe r).tens = s.tens := rfl
@[simp] theorem State.setMe_mem (s : State) (r : Row) : (s.setMe r).mem = s.mem := rfl
@[simp] theorem State.setMe_host (s : State) (r : Row) : (s.setMe r).host = s.host := rfl
@[simp] theorem State.setMe_poison (s : State) (r : Row) : (s.setMe r).poison = s.poison := rfl
@[simp] theorem State.setMe_empty (s : State) (r : Row) : (s.setMe r).empty = s.empty := rfl
@[simp] theorem State.setMe_relvec (s : State) (r : Row) : (s.setMe r).relvec = s.relvec := rfl
@[simp] theorem State.setMe_harvest (s : State) (r : Row) : (s.setMe r).harvest = s.harvest := rfl
@[simp] theorem State.setMe_retired (s : State) (r : Row) : (s.setMe r).retired = s.retired := rfl
@[simp] theorem State.setMe_wcomp (s : State) (r : Row) : (s.setMe r).wcomp = s.wcomp := rfl
@[simp] theorem State.setMe_bootStage (s : State) (r : Row) : (s.setMe r).bootStage = s.bootStage := rfl
@[simp] theorem State.setMe_bootLock (s : State) (r : Row) : (s.setMe r).bootLock = s.bootLock := rfl
@[simp] theorem State.setMe_mqbase (s : State) (r : Row) : (s.setMe r).mqbase = s.mqbase := rfl
@[simp] theorem State.setMe_mqovf (s : State) (r : Row) : (s.setMe r).mqovf = s.mqovf := rfl
@[simp] theorem State.setMe_herr (s : State) (r : Row) : (s.setMe r).herr = s.herr := rfl
@[simp] theorem State.setMe_herraddr (s : State) (r : Row) : (s.setMe r).herraddr = s.herraddr := rfl
@[simp] theorem State.setMe_mplim (s : State) (r : Row) : (s.setMe r).mplim = s.mplim := rfl
@[simp] theorem State.setMe_mpnow (s : State) (r : Row) : (s.setMe r).mpnow = s.mpnow := rfl
@[simp] theorem State.setMe_throt (s : State) (r : Row) : (s.setMe r).throt = s.throt := rfl
@[simp] theorem State.setMe_hot (s : State) (r : Row) : (s.setMe r).hot = s.hot := rfl
@[simp] theorem State.setMe_mcmds (s : State) (r : Row) : (s.setMe r).mcmds = s.mcmds := rfl
@[simp] theorem State.setMe_links (s : State) (r : Row) : (s.setMe r).links = s.links := rfl
@[simp] theorem State.setMe_errlog (s : State) (r : Row) : (s.setMe r).errlog = s.errlog := rfl
@[simp] theorem State.setMe_linkWidth (s : State) (r : Row) : (s.setMe r).linkWidth = s.linkWidth := rfl
@[simp] theorem State.setMe_linkRate (s : State) (r : Row) : (s.setMe r).linkRate = s.linkRate := rfl
@[simp] theorem State.setMe_doe (s : State) (r : Row) : (s.setMe r).doe = s.doe := rfl
@[simp] theorem State.setMe_hostRead (s : State) (r : Row) : (s.setMe r).hostRead = s.hostRead := rfl
@[simp] theorem State.setMe_hostErr (s : State) (r : Row) : (s.setMe r).hostErr = s.hostErr := rfl
@[simp] theorem State.setMe_outside (s : State) (r : Row) : (s.setMe r).outside = s.outside := rfl
@[simp] theorem State.setMe_refusedStores (s : State) (r : Row) : (s.setMe r).refusedStores = s.refusedStores := rfl
@[simp] theorem State.setMe_reds (s : State) (r : Row) : (s.setMe r).reds = s.reds := rfl
@[simp] theorem State.setMe_acks (s : State) (r : Row) : (s.setMe r).acks = s.acks := rfl
@[simp] theorem State.setMe_homeOps (s : State) (r : Row) : (s.setMe r).homeOps = s.homeOps := rfl
@[simp] theorem State.setMe_parked (s : State) (r : Row) : (s.setMe r).parked = s.parked := rfl
@[simp] theorem State.setMe_holdWakes (s : State) (r : Row) : (s.setMe r).holdWakes = s.holdWakes := rfl
@[simp] theorem State.setMe_ldfeAns (s : State) (r : Row) : (s.setMe r).ldfeAns = s.ldfeAns := rfl
@[simp] theorem State.setMe_fires (s : State) (r : Row) : (s.setMe r).fires = s.fires := rfl
@[simp] theorem State.setMe_joinWakes (s : State) (r : Row) : (s.setMe r).joinWakes = s.joinWakes := rfl
@[simp] theorem State.setMe_abandons (s : State) (r : Row) : (s.setMe r).abandons = s.abandons := rfl
@[simp] theorem State.setMe_spawns (s : State) (r : Row) : (s.setMe r).spawns = s.spawns := rfl
@[simp] theorem State.setMe_pushes (s : State) (r : Row) : (s.setMe r).pushes = s.pushes := rfl
@[simp] theorem State.setMe_jobNotes (s : State) (r : Row) : (s.setMe r).jobNotes = s.jobNotes := rfl
@[simp] theorem State.setMe_mxcans (s : State) (r : Row) : (s.setMe r).mxcans = s.mxcans := rfl
@[simp] theorem State.setMe_locks (s : State) (r : Row) : (s.setMe r).locks = s.locks := rfl
@[simp] theorem State.setMe_retires (s : State) (r : Row) : (s.setMe r).retires = s.retires := rfl
@[simp] theorem State.setMe_tlbis (s : State) (r : Row) : (s.setMe r).tlbis = s.tlbis := rfl
@[simp] theorem State.setMe_cur (s : State) (r : Row) : (s.setMe r).cur = s.cur := rfl
@[simp] theorem State.setMe_seat (s : State) (r : Row) : (s.setMe r).seat = s.seat := rfl
@[simp] theorem State.setMe_run (s : State) (r : Row) : (s.setMe r).run = s.run := rfl
@[simp] theorem State.setMe_walked (s : State) (r : Row) : (s.setMe r).walked = s.walked := rfl
@[simp] theorem State.setMe_sel (s : State) (r : Row) : (s.setMe r).sel = s.sel := rfl
@[simp] theorem State.setMe_schedule (s : State) (r : Row) : (s.setMe r).schedule = s.schedule := rfl
@[simp] theorem State.setMe_units (s : State) (r : Row) : (s.setMe r).units = s.units := rfl
@[simp] theorem State.setMe_early (s : State) (r : Row) : (s.setMe r).early = s.early := rfl
@[simp] theorem State.setMe_redo (s : State) (r : Row) : (s.setMe r).redo = s.redo := rfl
@[simp] theorem State.setMe_fresh (s : State) (r : Row) : (s.setMe r).fresh = s.fresh := rfl
@[simp] theorem State.setMe_ops (s : State) (r : Row) : (s.setMe r).ops = s.ops := rfl
@[simp] theorem State.setMe_time (s : State) (r : Row) : (s.setMe r).time = s.time := rfl

@[simp] theorem State.goto_cols (s : State) (pc : BitVec 32) : (s.goto pc).cols = s.cols := rfl
@[simp] theorem State.goto_spans (s : State) (pc : BitVec 32) : (s.goto pc).spans = s.spans := rfl
@[simp] theorem State.goto_fields (s : State) (pc : BitVec 32) : (s.goto pc).fields = s.fields := rfl
@[simp] theorem State.goto_tens (s : State) (pc : BitVec 32) : (s.goto pc).tens = s.tens := rfl
@[simp] theorem State.goto_mem (s : State) (pc : BitVec 32) : (s.goto pc).mem = s.mem := rfl
@[simp] theorem State.goto_host (s : State) (pc : BitVec 32) : (s.goto pc).host = s.host := rfl
@[simp] theorem State.goto_poison (s : State) (pc : BitVec 32) : (s.goto pc).poison = s.poison := rfl
@[simp] theorem State.goto_empty (s : State) (pc : BitVec 32) : (s.goto pc).empty = s.empty := rfl
@[simp] theorem State.goto_relvec (s : State) (pc : BitVec 32) : (s.goto pc).relvec = s.relvec := rfl
@[simp] theorem State.goto_harvest (s : State) (pc : BitVec 32) : (s.goto pc).harvest = s.harvest := rfl
@[simp] theorem State.goto_retired (s : State) (pc : BitVec 32) : (s.goto pc).retired = s.retired := rfl
@[simp] theorem State.goto_wcomp (s : State) (pc : BitVec 32) : (s.goto pc).wcomp = s.wcomp := rfl
@[simp] theorem State.goto_bootStage (s : State) (pc : BitVec 32) : (s.goto pc).bootStage = s.bootStage := rfl
@[simp] theorem State.goto_bootLock (s : State) (pc : BitVec 32) : (s.goto pc).bootLock = s.bootLock := rfl
@[simp] theorem State.goto_mqbase (s : State) (pc : BitVec 32) : (s.goto pc).mqbase = s.mqbase := rfl
@[simp] theorem State.goto_mqovf (s : State) (pc : BitVec 32) : (s.goto pc).mqovf = s.mqovf := rfl
@[simp] theorem State.goto_herr (s : State) (pc : BitVec 32) : (s.goto pc).herr = s.herr := rfl
@[simp] theorem State.goto_herraddr (s : State) (pc : BitVec 32) : (s.goto pc).herraddr = s.herraddr := rfl
@[simp] theorem State.goto_mplim (s : State) (pc : BitVec 32) : (s.goto pc).mplim = s.mplim := rfl
@[simp] theorem State.goto_mpnow (s : State) (pc : BitVec 32) : (s.goto pc).mpnow = s.mpnow := rfl
@[simp] theorem State.goto_throt (s : State) (pc : BitVec 32) : (s.goto pc).throt = s.throt := rfl
@[simp] theorem State.goto_hot (s : State) (pc : BitVec 32) : (s.goto pc).hot = s.hot := rfl
@[simp] theorem State.goto_mcmds (s : State) (pc : BitVec 32) : (s.goto pc).mcmds = s.mcmds := rfl
@[simp] theorem State.goto_links (s : State) (pc : BitVec 32) : (s.goto pc).links = s.links := rfl
@[simp] theorem State.goto_errlog (s : State) (pc : BitVec 32) : (s.goto pc).errlog = s.errlog := rfl
@[simp] theorem State.goto_linkWidth (s : State) (pc : BitVec 32) : (s.goto pc).linkWidth = s.linkWidth := rfl
@[simp] theorem State.goto_linkRate (s : State) (pc : BitVec 32) : (s.goto pc).linkRate = s.linkRate := rfl
@[simp] theorem State.goto_doe (s : State) (pc : BitVec 32) : (s.goto pc).doe = s.doe := rfl
@[simp] theorem State.goto_hostRead (s : State) (pc : BitVec 32) : (s.goto pc).hostRead = s.hostRead := rfl
@[simp] theorem State.goto_hostErr (s : State) (pc : BitVec 32) : (s.goto pc).hostErr = s.hostErr := rfl
@[simp] theorem State.goto_outside (s : State) (pc : BitVec 32) : (s.goto pc).outside = s.outside := rfl
@[simp] theorem State.goto_refusedStores (s : State) (pc : BitVec 32) : (s.goto pc).refusedStores = s.refusedStores := rfl
@[simp] theorem State.goto_reds (s : State) (pc : BitVec 32) : (s.goto pc).reds = s.reds := rfl
@[simp] theorem State.goto_acks (s : State) (pc : BitVec 32) : (s.goto pc).acks = s.acks := rfl
@[simp] theorem State.goto_homeOps (s : State) (pc : BitVec 32) : (s.goto pc).homeOps = s.homeOps := rfl
@[simp] theorem State.goto_parked (s : State) (pc : BitVec 32) : (s.goto pc).parked = s.parked := rfl
@[simp] theorem State.goto_holdWakes (s : State) (pc : BitVec 32) : (s.goto pc).holdWakes = s.holdWakes := rfl
@[simp] theorem State.goto_ldfeAns (s : State) (pc : BitVec 32) : (s.goto pc).ldfeAns = s.ldfeAns := rfl
@[simp] theorem State.goto_fires (s : State) (pc : BitVec 32) : (s.goto pc).fires = s.fires := rfl
@[simp] theorem State.goto_joinWakes (s : State) (pc : BitVec 32) : (s.goto pc).joinWakes = s.joinWakes := rfl
@[simp] theorem State.goto_abandons (s : State) (pc : BitVec 32) : (s.goto pc).abandons = s.abandons := rfl
@[simp] theorem State.goto_spawns (s : State) (pc : BitVec 32) : (s.goto pc).spawns = s.spawns := rfl
@[simp] theorem State.goto_pushes (s : State) (pc : BitVec 32) : (s.goto pc).pushes = s.pushes := rfl
@[simp] theorem State.goto_jobNotes (s : State) (pc : BitVec 32) : (s.goto pc).jobNotes = s.jobNotes := rfl
@[simp] theorem State.goto_mxcans (s : State) (pc : BitVec 32) : (s.goto pc).mxcans = s.mxcans := rfl
@[simp] theorem State.goto_locks (s : State) (pc : BitVec 32) : (s.goto pc).locks = s.locks := rfl
@[simp] theorem State.goto_retires (s : State) (pc : BitVec 32) : (s.goto pc).retires = s.retires := rfl
@[simp] theorem State.goto_tlbis (s : State) (pc : BitVec 32) : (s.goto pc).tlbis = s.tlbis := rfl
@[simp] theorem State.goto_cur (s : State) (pc : BitVec 32) : (s.goto pc).cur = s.cur := rfl
@[simp] theorem State.goto_seat (s : State) (pc : BitVec 32) : (s.goto pc).seat = s.seat := rfl
@[simp] theorem State.goto_walked (s : State) (pc : BitVec 32) : (s.goto pc).walked = s.walked := rfl
@[simp] theorem State.goto_sel (s : State) (pc : BitVec 32) : (s.goto pc).sel = s.sel := rfl
@[simp] theorem State.goto_schedule (s : State) (pc : BitVec 32) : (s.goto pc).schedule = s.schedule := rfl
@[simp] theorem State.goto_units (s : State) (pc : BitVec 32) : (s.goto pc).units = s.units := rfl
@[simp] theorem State.goto_early (s : State) (pc : BitVec 32) : (s.goto pc).early = s.early := rfl
@[simp] theorem State.goto_redo (s : State) (pc : BitVec 32) : (s.goto pc).redo = s.redo := rfl
@[simp] theorem State.goto_fresh (s : State) (pc : BitVec 32) : (s.goto pc).fresh = s.fresh := rfl
@[simp] theorem State.goto_ops (s : State) (pc : BitVec 32) : (s.goto pc).ops = s.ops := rfl
@[simp] theorem State.goto_time (s : State) (pc : BitVec 32) : (s.goto pc).time = s.time := rfl

@[simp] theorem State.advance_cols (s : State) : (s.advance).cols = s.cols := rfl
@[simp] theorem State.advance_spans (s : State) : (s.advance).spans = s.spans := rfl
@[simp] theorem State.advance_fields (s : State) : (s.advance).fields = s.fields := rfl
@[simp] theorem State.advance_tens (s : State) : (s.advance).tens = s.tens := rfl
@[simp] theorem State.advance_mem (s : State) : (s.advance).mem = s.mem := rfl
@[simp] theorem State.advance_host (s : State) : (s.advance).host = s.host := rfl
@[simp] theorem State.advance_poison (s : State) : (s.advance).poison = s.poison := rfl
@[simp] theorem State.advance_empty (s : State) : (s.advance).empty = s.empty := rfl
@[simp] theorem State.advance_relvec (s : State) : (s.advance).relvec = s.relvec := rfl
@[simp] theorem State.advance_harvest (s : State) : (s.advance).harvest = s.harvest := rfl
@[simp] theorem State.advance_retired (s : State) : (s.advance).retired = s.retired := rfl
@[simp] theorem State.advance_wcomp (s : State) : (s.advance).wcomp = s.wcomp := rfl
@[simp] theorem State.advance_bootStage (s : State) : (s.advance).bootStage = s.bootStage := rfl
@[simp] theorem State.advance_bootLock (s : State) : (s.advance).bootLock = s.bootLock := rfl
@[simp] theorem State.advance_mqbase (s : State) : (s.advance).mqbase = s.mqbase := rfl
@[simp] theorem State.advance_mqovf (s : State) : (s.advance).mqovf = s.mqovf := rfl
@[simp] theorem State.advance_herr (s : State) : (s.advance).herr = s.herr := rfl
@[simp] theorem State.advance_herraddr (s : State) : (s.advance).herraddr = s.herraddr := rfl
@[simp] theorem State.advance_mplim (s : State) : (s.advance).mplim = s.mplim := rfl
@[simp] theorem State.advance_mpnow (s : State) : (s.advance).mpnow = s.mpnow := rfl
@[simp] theorem State.advance_throt (s : State) : (s.advance).throt = s.throt := rfl
@[simp] theorem State.advance_hot (s : State) : (s.advance).hot = s.hot := rfl
@[simp] theorem State.advance_mcmds (s : State) : (s.advance).mcmds = s.mcmds := rfl
@[simp] theorem State.advance_links (s : State) : (s.advance).links = s.links := rfl
@[simp] theorem State.advance_errlog (s : State) : (s.advance).errlog = s.errlog := rfl
@[simp] theorem State.advance_linkWidth (s : State) : (s.advance).linkWidth = s.linkWidth := rfl
@[simp] theorem State.advance_linkRate (s : State) : (s.advance).linkRate = s.linkRate := rfl
@[simp] theorem State.advance_doe (s : State) : (s.advance).doe = s.doe := rfl
@[simp] theorem State.advance_hostRead (s : State) : (s.advance).hostRead = s.hostRead := rfl
@[simp] theorem State.advance_hostErr (s : State) : (s.advance).hostErr = s.hostErr := rfl
@[simp] theorem State.advance_outside (s : State) : (s.advance).outside = s.outside := rfl
@[simp] theorem State.advance_refusedStores (s : State) : (s.advance).refusedStores = s.refusedStores := rfl
@[simp] theorem State.advance_reds (s : State) : (s.advance).reds = s.reds := rfl
@[simp] theorem State.advance_acks (s : State) : (s.advance).acks = s.acks := rfl
@[simp] theorem State.advance_homeOps (s : State) : (s.advance).homeOps = s.homeOps := rfl
@[simp] theorem State.advance_parked (s : State) : (s.advance).parked = s.parked := rfl
@[simp] theorem State.advance_holdWakes (s : State) : (s.advance).holdWakes = s.holdWakes := rfl
@[simp] theorem State.advance_ldfeAns (s : State) : (s.advance).ldfeAns = s.ldfeAns := rfl
@[simp] theorem State.advance_fires (s : State) : (s.advance).fires = s.fires := rfl
@[simp] theorem State.advance_joinWakes (s : State) : (s.advance).joinWakes = s.joinWakes := rfl
@[simp] theorem State.advance_abandons (s : State) : (s.advance).abandons = s.abandons := rfl
@[simp] theorem State.advance_spawns (s : State) : (s.advance).spawns = s.spawns := rfl
@[simp] theorem State.advance_pushes (s : State) : (s.advance).pushes = s.pushes := rfl
@[simp] theorem State.advance_jobNotes (s : State) : (s.advance).jobNotes = s.jobNotes := rfl
@[simp] theorem State.advance_mxcans (s : State) : (s.advance).mxcans = s.mxcans := rfl
@[simp] theorem State.advance_locks (s : State) : (s.advance).locks = s.locks := rfl
@[simp] theorem State.advance_retires (s : State) : (s.advance).retires = s.retires := rfl
@[simp] theorem State.advance_tlbis (s : State) : (s.advance).tlbis = s.tlbis := rfl
@[simp] theorem State.advance_cur (s : State) : (s.advance).cur = s.cur := rfl
@[simp] theorem State.advance_seat (s : State) : (s.advance).seat = s.seat := rfl
@[simp] theorem State.advance_walked (s : State) : (s.advance).walked = s.walked := rfl
@[simp] theorem State.advance_sel (s : State) : (s.advance).sel = s.sel := rfl
@[simp] theorem State.advance_schedule (s : State) : (s.advance).schedule = s.schedule := rfl
@[simp] theorem State.advance_units (s : State) : (s.advance).units = s.units := rfl
@[simp] theorem State.advance_early (s : State) : (s.advance).early = s.early := rfl
@[simp] theorem State.advance_redo (s : State) : (s.advance).redo = s.redo := rfl
@[simp] theorem State.advance_fresh (s : State) : (s.advance).fresh = s.fresh := rfl
@[simp] theorem State.advance_ops (s : State) : (s.advance).ops = s.ops := rfl
@[simp] theorem State.advance_time (s : State) : (s.advance).time = s.time := rfl

@[simp] theorem State.finish_cols (s : State) (r : Row) : (s.finish r).cols = s.cols := rfl
@[simp] theorem State.finish_spans (s : State) (r : Row) : (s.finish r).spans = s.spans := rfl
@[simp] theorem State.finish_fields (s : State) (r : Row) : (s.finish r).fields = s.fields := rfl
@[simp] theorem State.finish_tens (s : State) (r : Row) : (s.finish r).tens = s.tens := rfl
@[simp] theorem State.finish_mem (s : State) (r : Row) : (s.finish r).mem = s.mem := rfl
@[simp] theorem State.finish_host (s : State) (r : Row) : (s.finish r).host = s.host := rfl
@[simp] theorem State.finish_poison (s : State) (r : Row) : (s.finish r).poison = s.poison := rfl
@[simp] theorem State.finish_empty (s : State) (r : Row) : (s.finish r).empty = s.empty := rfl
@[simp] theorem State.finish_relvec (s : State) (r : Row) : (s.finish r).relvec = s.relvec := rfl
@[simp] theorem State.finish_harvest (s : State) (r : Row) : (s.finish r).harvest = s.harvest := rfl
@[simp] theorem State.finish_retired (s : State) (r : Row) : (s.finish r).retired = s.retired := rfl
@[simp] theorem State.finish_wcomp (s : State) (r : Row) : (s.finish r).wcomp = s.wcomp := rfl
@[simp] theorem State.finish_bootStage (s : State) (r : Row) : (s.finish r).bootStage = s.bootStage := rfl
@[simp] theorem State.finish_bootLock (s : State) (r : Row) : (s.finish r).bootLock = s.bootLock := rfl
@[simp] theorem State.finish_mqbase (s : State) (r : Row) : (s.finish r).mqbase = s.mqbase := rfl
@[simp] theorem State.finish_mqovf (s : State) (r : Row) : (s.finish r).mqovf = s.mqovf := rfl
@[simp] theorem State.finish_herr (s : State) (r : Row) : (s.finish r).herr = s.herr := rfl
@[simp] theorem State.finish_herraddr (s : State) (r : Row) : (s.finish r).herraddr = s.herraddr := rfl
@[simp] theorem State.finish_mplim (s : State) (r : Row) : (s.finish r).mplim = s.mplim := rfl
@[simp] theorem State.finish_mpnow (s : State) (r : Row) : (s.finish r).mpnow = s.mpnow := rfl
@[simp] theorem State.finish_throt (s : State) (r : Row) : (s.finish r).throt = s.throt := rfl
@[simp] theorem State.finish_hot (s : State) (r : Row) : (s.finish r).hot = s.hot := rfl
@[simp] theorem State.finish_mcmds (s : State) (r : Row) : (s.finish r).mcmds = s.mcmds := rfl
@[simp] theorem State.finish_links (s : State) (r : Row) : (s.finish r).links = s.links := rfl
@[simp] theorem State.finish_errlog (s : State) (r : Row) : (s.finish r).errlog = s.errlog := rfl
@[simp] theorem State.finish_linkWidth (s : State) (r : Row) : (s.finish r).linkWidth = s.linkWidth := rfl
@[simp] theorem State.finish_linkRate (s : State) (r : Row) : (s.finish r).linkRate = s.linkRate := rfl
@[simp] theorem State.finish_doe (s : State) (r : Row) : (s.finish r).doe = s.doe := rfl
@[simp] theorem State.finish_hostRead (s : State) (r : Row) : (s.finish r).hostRead = s.hostRead := rfl
@[simp] theorem State.finish_hostErr (s : State) (r : Row) : (s.finish r).hostErr = s.hostErr := rfl
@[simp] theorem State.finish_outside (s : State) (r : Row) : (s.finish r).outside = s.outside := rfl
@[simp] theorem State.finish_refusedStores (s : State) (r : Row) : (s.finish r).refusedStores = s.refusedStores := rfl
@[simp] theorem State.finish_reds (s : State) (r : Row) : (s.finish r).reds = s.reds := rfl
@[simp] theorem State.finish_acks (s : State) (r : Row) : (s.finish r).acks = s.acks := rfl
@[simp] theorem State.finish_homeOps (s : State) (r : Row) : (s.finish r).homeOps = s.homeOps := rfl
@[simp] theorem State.finish_parked (s : State) (r : Row) : (s.finish r).parked = s.parked := rfl
@[simp] theorem State.finish_holdWakes (s : State) (r : Row) : (s.finish r).holdWakes = s.holdWakes := rfl
@[simp] theorem State.finish_ldfeAns (s : State) (r : Row) : (s.finish r).ldfeAns = s.ldfeAns := rfl
@[simp] theorem State.finish_fires (s : State) (r : Row) : (s.finish r).fires = s.fires := rfl
@[simp] theorem State.finish_joinWakes (s : State) (r : Row) : (s.finish r).joinWakes = s.joinWakes := rfl
@[simp] theorem State.finish_abandons (s : State) (r : Row) : (s.finish r).abandons = s.abandons := rfl
@[simp] theorem State.finish_spawns (s : State) (r : Row) : (s.finish r).spawns = s.spawns := rfl
@[simp] theorem State.finish_pushes (s : State) (r : Row) : (s.finish r).pushes = s.pushes := rfl
@[simp] theorem State.finish_jobNotes (s : State) (r : Row) : (s.finish r).jobNotes = s.jobNotes := rfl
@[simp] theorem State.finish_mxcans (s : State) (r : Row) : (s.finish r).mxcans = s.mxcans := rfl
@[simp] theorem State.finish_locks (s : State) (r : Row) : (s.finish r).locks = s.locks := rfl
@[simp] theorem State.finish_retires (s : State) (r : Row) : (s.finish r).retires = s.retires := rfl
@[simp] theorem State.finish_tlbis (s : State) (r : Row) : (s.finish r).tlbis = s.tlbis := rfl
@[simp] theorem State.finish_cur (s : State) (r : Row) : (s.finish r).cur = s.cur := rfl
@[simp] theorem State.finish_seat (s : State) (r : Row) : (s.finish r).seat = s.seat := rfl
@[simp] theorem State.finish_walked (s : State) (r : Row) : (s.finish r).walked = s.walked := rfl
@[simp] theorem State.finish_sel (s : State) (r : Row) : (s.finish r).sel = s.sel := rfl
@[simp] theorem State.finish_schedule (s : State) (r : Row) : (s.finish r).schedule = s.schedule := rfl
@[simp] theorem State.finish_units (s : State) (r : Row) : (s.finish r).units = s.units := rfl
@[simp] theorem State.finish_early (s : State) (r : Row) : (s.finish r).early = s.early := rfl
@[simp] theorem State.finish_redo (s : State) (r : Row) : (s.finish r).redo = s.redo := rfl
@[simp] theorem State.finish_fresh (s : State) (r : Row) : (s.finish r).fresh = s.fresh := rfl
@[simp] theorem State.finish_ops (s : State) (r : Row) : (s.finish r).ops = s.ops := rfl
@[simp] theorem State.finish_time (s : State) (r : Row) : (s.finish r).time = s.time := rfl

@[simp] theorem State.dropRun_rows (s : State) : (s.dropRun).rows = s.rows := rfl
@[simp] theorem State.dropRun_cols (s : State) : (s.dropRun).cols = s.cols := rfl
@[simp] theorem State.dropRun_spans (s : State) : (s.dropRun).spans = s.spans := rfl
@[simp] theorem State.dropRun_fields (s : State) : (s.dropRun).fields = s.fields := rfl
@[simp] theorem State.dropRun_tens (s : State) : (s.dropRun).tens = s.tens := rfl
@[simp] theorem State.dropRun_mem (s : State) : (s.dropRun).mem = s.mem := rfl
@[simp] theorem State.dropRun_host (s : State) : (s.dropRun).host = s.host := rfl
@[simp] theorem State.dropRun_poison (s : State) : (s.dropRun).poison = s.poison := rfl
@[simp] theorem State.dropRun_empty (s : State) : (s.dropRun).empty = s.empty := rfl
@[simp] theorem State.dropRun_relvec (s : State) : (s.dropRun).relvec = s.relvec := rfl
@[simp] theorem State.dropRun_harvest (s : State) : (s.dropRun).harvest = s.harvest := rfl
@[simp] theorem State.dropRun_retired (s : State) : (s.dropRun).retired = s.retired := rfl
@[simp] theorem State.dropRun_wcomp (s : State) : (s.dropRun).wcomp = s.wcomp := rfl
@[simp] theorem State.dropRun_bootStage (s : State) : (s.dropRun).bootStage = s.bootStage := rfl
@[simp] theorem State.dropRun_bootLock (s : State) : (s.dropRun).bootLock = s.bootLock := rfl
@[simp] theorem State.dropRun_mqbase (s : State) : (s.dropRun).mqbase = s.mqbase := rfl
@[simp] theorem State.dropRun_mqovf (s : State) : (s.dropRun).mqovf = s.mqovf := rfl
@[simp] theorem State.dropRun_herr (s : State) : (s.dropRun).herr = s.herr := rfl
@[simp] theorem State.dropRun_herraddr (s : State) : (s.dropRun).herraddr = s.herraddr := rfl
@[simp] theorem State.dropRun_mplim (s : State) : (s.dropRun).mplim = s.mplim := rfl
@[simp] theorem State.dropRun_mpnow (s : State) : (s.dropRun).mpnow = s.mpnow := rfl
@[simp] theorem State.dropRun_throt (s : State) : (s.dropRun).throt = s.throt := rfl
@[simp] theorem State.dropRun_hot (s : State) : (s.dropRun).hot = s.hot := rfl
@[simp] theorem State.dropRun_mcmds (s : State) : (s.dropRun).mcmds = s.mcmds := rfl
@[simp] theorem State.dropRun_links (s : State) : (s.dropRun).links = s.links := rfl
@[simp] theorem State.dropRun_errlog (s : State) : (s.dropRun).errlog = s.errlog := rfl
@[simp] theorem State.dropRun_linkWidth (s : State) : (s.dropRun).linkWidth = s.linkWidth := rfl
@[simp] theorem State.dropRun_linkRate (s : State) : (s.dropRun).linkRate = s.linkRate := rfl
@[simp] theorem State.dropRun_doe (s : State) : (s.dropRun).doe = s.doe := rfl
@[simp] theorem State.dropRun_hostRead (s : State) : (s.dropRun).hostRead = s.hostRead := rfl
@[simp] theorem State.dropRun_hostErr (s : State) : (s.dropRun).hostErr = s.hostErr := rfl
@[simp] theorem State.dropRun_outside (s : State) : (s.dropRun).outside = s.outside := rfl
@[simp] theorem State.dropRun_refusedStores (s : State) : (s.dropRun).refusedStores = s.refusedStores := rfl
@[simp] theorem State.dropRun_reds (s : State) : (s.dropRun).reds = s.reds := rfl
@[simp] theorem State.dropRun_acks (s : State) : (s.dropRun).acks = s.acks := rfl
@[simp] theorem State.dropRun_homeOps (s : State) : (s.dropRun).homeOps = s.homeOps := rfl
@[simp] theorem State.dropRun_parked (s : State) : (s.dropRun).parked = s.parked := rfl
@[simp] theorem State.dropRun_holdWakes (s : State) : (s.dropRun).holdWakes = s.holdWakes := rfl
@[simp] theorem State.dropRun_ldfeAns (s : State) : (s.dropRun).ldfeAns = s.ldfeAns := rfl
@[simp] theorem State.dropRun_fires (s : State) : (s.dropRun).fires = s.fires := rfl
@[simp] theorem State.dropRun_joinWakes (s : State) : (s.dropRun).joinWakes = s.joinWakes := rfl
@[simp] theorem State.dropRun_abandons (s : State) : (s.dropRun).abandons = s.abandons := rfl
@[simp] theorem State.dropRun_spawns (s : State) : (s.dropRun).spawns = s.spawns := rfl
@[simp] theorem State.dropRun_pushes (s : State) : (s.dropRun).pushes = s.pushes := rfl
@[simp] theorem State.dropRun_jobNotes (s : State) : (s.dropRun).jobNotes = s.jobNotes := rfl
@[simp] theorem State.dropRun_mxcans (s : State) : (s.dropRun).mxcans = s.mxcans := rfl
@[simp] theorem State.dropRun_locks (s : State) : (s.dropRun).locks = s.locks := rfl
@[simp] theorem State.dropRun_retires (s : State) : (s.dropRun).retires = s.retires := rfl
@[simp] theorem State.dropRun_tlbis (s : State) : (s.dropRun).tlbis = s.tlbis := rfl
@[simp] theorem State.dropRun_cur (s : State) : (s.dropRun).cur = s.cur := rfl
@[simp] theorem State.dropRun_seat (s : State) : (s.dropRun).seat = s.seat := rfl
@[simp] theorem State.dropRun_walked (s : State) : (s.dropRun).walked = s.walked := rfl
@[simp] theorem State.dropRun_sel (s : State) : (s.dropRun).sel = s.sel := rfl
@[simp] theorem State.dropRun_schedule (s : State) : (s.dropRun).schedule = s.schedule := rfl
@[simp] theorem State.dropRun_units (s : State) : (s.dropRun).units = s.units := rfl
@[simp] theorem State.dropRun_early (s : State) : (s.dropRun).early = s.early := rfl
@[simp] theorem State.dropRun_redo (s : State) : (s.dropRun).redo = s.redo := rfl
@[simp] theorem State.dropRun_fresh (s : State) : (s.dropRun).fresh = s.fresh := rfl
@[simp] theorem State.dropRun_ops (s : State) : (s.dropRun).ops = s.ops := rfl
@[simp] theorem State.dropRun_time (s : State) : (s.dropRun).time = s.time := rfl

@[simp] theorem State.abandonGroup_rows (s : State) : (s.abandonGroup).rows = s.rows := rfl
@[simp] theorem State.abandonGroup_cols (s : State) : (s.abandonGroup).cols = s.cols := rfl
@[simp] theorem State.abandonGroup_spans (s : State) : (s.abandonGroup).spans = s.spans := rfl
@[simp] theorem State.abandonGroup_fields (s : State) : (s.abandonGroup).fields = s.fields := rfl
@[simp] theorem State.abandonGroup_tens (s : State) : (s.abandonGroup).tens = s.tens := rfl
@[simp] theorem State.abandonGroup_mem (s : State) : (s.abandonGroup).mem = s.mem := rfl
@[simp] theorem State.abandonGroup_host (s : State) : (s.abandonGroup).host = s.host := rfl
@[simp] theorem State.abandonGroup_poison (s : State) : (s.abandonGroup).poison = s.poison := rfl
@[simp] theorem State.abandonGroup_empty (s : State) : (s.abandonGroup).empty = s.empty := rfl
@[simp] theorem State.abandonGroup_relvec (s : State) : (s.abandonGroup).relvec = s.relvec := rfl
@[simp] theorem State.abandonGroup_harvest (s : State) : (s.abandonGroup).harvest = s.harvest := rfl
@[simp] theorem State.abandonGroup_retired (s : State) : (s.abandonGroup).retired = s.retired := rfl
@[simp] theorem State.abandonGroup_wcomp (s : State) : (s.abandonGroup).wcomp = s.wcomp := rfl
@[simp] theorem State.abandonGroup_bootStage (s : State) : (s.abandonGroup).bootStage = s.bootStage := rfl
@[simp] theorem State.abandonGroup_bootLock (s : State) : (s.abandonGroup).bootLock = s.bootLock := rfl
@[simp] theorem State.abandonGroup_mqbase (s : State) : (s.abandonGroup).mqbase = s.mqbase := rfl
@[simp] theorem State.abandonGroup_mqovf (s : State) : (s.abandonGroup).mqovf = s.mqovf := rfl
@[simp] theorem State.abandonGroup_herr (s : State) : (s.abandonGroup).herr = s.herr := rfl
@[simp] theorem State.abandonGroup_herraddr (s : State) : (s.abandonGroup).herraddr = s.herraddr := rfl
@[simp] theorem State.abandonGroup_mplim (s : State) : (s.abandonGroup).mplim = s.mplim := rfl
@[simp] theorem State.abandonGroup_mpnow (s : State) : (s.abandonGroup).mpnow = s.mpnow := rfl
@[simp] theorem State.abandonGroup_throt (s : State) : (s.abandonGroup).throt = s.throt := rfl
@[simp] theorem State.abandonGroup_hot (s : State) : (s.abandonGroup).hot = s.hot := rfl
@[simp] theorem State.abandonGroup_mcmds (s : State) : (s.abandonGroup).mcmds = s.mcmds := rfl
@[simp] theorem State.abandonGroup_links (s : State) : (s.abandonGroup).links = s.links := rfl
@[simp] theorem State.abandonGroup_errlog (s : State) : (s.abandonGroup).errlog = s.errlog := rfl
@[simp] theorem State.abandonGroup_linkWidth (s : State) : (s.abandonGroup).linkWidth = s.linkWidth := rfl
@[simp] theorem State.abandonGroup_linkRate (s : State) : (s.abandonGroup).linkRate = s.linkRate := rfl
@[simp] theorem State.abandonGroup_doe (s : State) : (s.abandonGroup).doe = s.doe := rfl
@[simp] theorem State.abandonGroup_hostRead (s : State) : (s.abandonGroup).hostRead = s.hostRead := rfl
@[simp] theorem State.abandonGroup_hostErr (s : State) : (s.abandonGroup).hostErr = s.hostErr := rfl
@[simp] theorem State.abandonGroup_outside (s : State) : (s.abandonGroup).outside = s.outside := rfl
@[simp] theorem State.abandonGroup_refusedStores (s : State) : (s.abandonGroup).refusedStores = s.refusedStores := rfl
@[simp] theorem State.abandonGroup_reds (s : State) : (s.abandonGroup).reds = s.reds := rfl
@[simp] theorem State.abandonGroup_acks (s : State) : (s.abandonGroup).acks = s.acks := rfl
@[simp] theorem State.abandonGroup_homeOps (s : State) : (s.abandonGroup).homeOps = s.homeOps := rfl
@[simp] theorem State.abandonGroup_parked (s : State) : (s.abandonGroup).parked = s.parked := rfl
@[simp] theorem State.abandonGroup_holdWakes (s : State) : (s.abandonGroup).holdWakes = s.holdWakes := rfl
@[simp] theorem State.abandonGroup_ldfeAns (s : State) : (s.abandonGroup).ldfeAns = s.ldfeAns := rfl
@[simp] theorem State.abandonGroup_fires (s : State) : (s.abandonGroup).fires = s.fires := rfl
@[simp] theorem State.abandonGroup_joinWakes (s : State) : (s.abandonGroup).joinWakes = s.joinWakes := rfl
@[simp] theorem State.abandonGroup_abandons (s : State) : (s.abandonGroup).abandons = s.abandons := rfl
@[simp] theorem State.abandonGroup_spawns (s : State) : (s.abandonGroup).spawns = s.spawns := rfl
@[simp] theorem State.abandonGroup_pushes (s : State) : (s.abandonGroup).pushes = s.pushes := rfl
@[simp] theorem State.abandonGroup_jobNotes (s : State) : (s.abandonGroup).jobNotes = s.jobNotes := rfl
@[simp] theorem State.abandonGroup_mxcans (s : State) : (s.abandonGroup).mxcans = s.mxcans := rfl
@[simp] theorem State.abandonGroup_locks (s : State) : (s.abandonGroup).locks = s.locks := rfl
@[simp] theorem State.abandonGroup_retires (s : State) : (s.abandonGroup).retires = s.retires := rfl
@[simp] theorem State.abandonGroup_tlbis (s : State) : (s.abandonGroup).tlbis = s.tlbis := rfl
@[simp] theorem State.abandonGroup_cur (s : State) : (s.abandonGroup).cur = s.cur := rfl
@[simp] theorem State.abandonGroup_seat (s : State) : (s.abandonGroup).seat = s.seat := rfl
@[simp] theorem State.abandonGroup_walked (s : State) : (s.abandonGroup).walked = s.walked := rfl
@[simp] theorem State.abandonGroup_sel (s : State) : (s.abandonGroup).sel = s.sel := rfl
@[simp] theorem State.abandonGroup_schedule (s : State) : (s.abandonGroup).schedule = s.schedule := rfl
@[simp] theorem State.abandonGroup_units (s : State) : (s.abandonGroup).units = s.units := rfl
@[simp] theorem State.abandonGroup_early (s : State) : (s.abandonGroup).early = s.early := rfl
@[simp] theorem State.abandonGroup_fresh (s : State) : (s.abandonGroup).fresh = s.fresh := rfl
@[simp] theorem State.abandonGroup_ops (s : State) : (s.abandonGroup).ops = s.ops := rfl
@[simp] theorem State.abandonGroup_time (s : State) : (s.abandonGroup).time = s.time := rfl

@[simp] theorem State.goto_run (s : State) (pc : BitVec 32) : (s.goto pc).run = [] := rfl
@[simp] theorem State.advance_run (s : State) : s.advance.run = [] := rfl
@[simp] theorem State.finish_run (s : State) (r : Row) : (s.finish r).run = [] := rfl
@[simp] theorem State.dropRun_run (s : State) : s.dropRun.run = [] := rfl
@[simp] theorem State.abandonGroup_run (s : State) : s.abandonGroup.run = [] := rfl
@[simp] theorem State.abandonGroup_redo (s : State) : s.abandonGroup.redo = true := rfl

/-! ## Reading what was set -/

theorem RowKey.key_inj {j k : RowKey} (h : j.key = k.key) : j = k := by
  obtain ⟨a, b⟩ := j
  obtain ⟨c, d⟩ := k
  have hb := b.isLt
  have hd := d.isLt
  have e : a.toNat * 2 ^ 32 + b.toNat = c.toNat * 2 ^ 32 + d.toNat := h
  have e1 : a.toNat = c.toNat := by omega
  have e2 : b.toNat = d.toNat := by omega
  rw [BitVec.eq_of_toNat_eq e1, BitVec.eq_of_toNat_eq e2]

@[simp] theorem State.row_setRow_same (s : State) (k : RowKey) (r : Row) : (s.setRow k r).row k = r :=
  NMap.get_set_same _ _ _ _
theorem State.row_setRow_other (s : State) {j k : RowKey} (r : Row) (h : j ≠ k) : (s.setRow k r).row j = s.row j :=
  NMap.get_set_other _ _ _ (fun e => h (RowKey.key_inj e))
theorem State.row_setRow (s : State) (j k : RowKey) (r : Row) : (s.setRow k r).row j = if j = k then r else s.row j := by
  split
  · rename_i h; subst h; simp
  · rename_i h; exact State.row_setRow_other s r h
@[simp] theorem State.col_setCol_same (s : State) (i : Nat) (c : Column) : (s.setCol i c).col i = c :=
  NMap.get_set_same _ _ _ _
theorem State.col_setCol_other (s : State) {i j : Nat} (c : Column) (h : j ≠ i) : (s.setCol i c).col j = s.col j :=
  NMap.get_set_other _ _ _ h
@[simp] theorem State.span_setSpan_same (s : State) (i : Nat) (x : Span) : (s.setSpan i x).span i = x :=
  NMap.get_set_same _ _ _ _
theorem State.span_setSpan_other (s : State) {i j : Nat} (x : Span) (h : j ≠ i) : (s.setSpan i x).span j = s.span j :=
  NMap.get_set_other _ _ _ h
@[simp] theorem State.field_setField_same (s : State) (i : Nat) (x : Field) : (s.setField i x).field i = x :=
  NMap.get_set_same _ _ _ _
theorem State.field_setField_other (s : State) {i j : Nat} (x : Field) (h : j ≠ i) : (s.setField i x).field j = s.field j :=
  NMap.get_set_other _ _ _ h
@[simp] theorem State.ten_setTen_same (s : State) (t : BitVec 4) (x : Tenant) : (s.setTen t x).ten t = x :=
  NMap.get_set_same _ _ _ _
theorem State.ten_setTen_other (s : State) {t u : BitVec 4} (x : Tenant) (h : u ≠ t) : (s.setTen t x).ten u = s.ten u :=
  NMap.get_set_other _ _ _ (fun e => h (BitVec.eq_of_toNat_eq e))

@[simp] theorem State.row_setCol (s : State) (i : Nat) (c : Column) (k : RowKey) : (s.setCol i c).row k = s.row k := rfl
@[simp] theorem State.row_setSpan (s : State) (i : Nat) (x : Span) (k : RowKey) : (s.setSpan i x).row k = s.row k := rfl
@[simp] theorem State.row_setField (s : State) (i : Nat) (x : Field) (k : RowKey) : (s.setField i x).row k = s.row k := rfl
@[simp] theorem State.row_setTen (s : State) (t : BitVec 4) (x : Tenant) (k : RowKey) : (s.setTen t x).row k = s.row k := rfl
@[simp] theorem State.row_setExecutor (s : State) (i : Nat) (b : BitVec 3) (e : Exec) (k : RowKey) :
    (s.setExecutor i b e).row k = s.row k := rfl
@[simp] theorem State.col_setRow (s : State) (k : RowKey) (r : Row) (i : Nat) : (s.setRow k r).col i = s.col i := rfl
@[simp] theorem State.col_setSpan (s : State) (j : Nat) (x : Span) (i : Nat) : (s.setSpan j x).col i = s.col i := rfl
@[simp] theorem State.col_setField (s : State) (j : Nat) (x : Field) (i : Nat) : (s.setField j x).col i = s.col i := rfl
@[simp] theorem State.col_setTen (s : State) (t : BitVec 4) (x : Tenant) (i : Nat) : (s.setTen t x).col i = s.col i := rfl
@[simp] theorem State.span_setRow (s : State) (k : RowKey) (r : Row) (i : Nat) : (s.setRow k r).span i = s.span i := rfl
@[simp] theorem State.span_setCol (s : State) (j : Nat) (c : Column) (i : Nat) : (s.setCol j c).span i = s.span i := rfl
@[simp] theorem State.field_setRow (s : State) (k : RowKey) (r : Row) (i : Nat) : (s.setRow k r).field i = s.field i := rfl
@[simp] theorem State.field_setCol (s : State) (j : Nat) (c : Column) (i : Nat) : (s.setCol j c).field i = s.field i := rfl
@[simp] theorem State.ten_setRow (s : State) (k : RowKey) (r : Row) (t : BitVec 4) : (s.setRow k r).ten t = s.ten t := rfl
@[simp] theorem State.ten_setCol (s : State) (j : Nat) (c : Column) (t : BitVec 4) : (s.setCol j c).ten t = s.ten t := rfl

/-! ## The issuing row -/

@[simp] theorem State.me_setMe (s : State) (r : Row) : (s.setMe r).me = r := State.row_setRow_same s s.cur r
theorem State.row_setMe_other (s : State) (r : Row) {k : RowKey} (h : k ≠ s.cur) : (s.setMe r).row k = s.row k :=
  State.row_setRow_other s r h
@[simp] theorem State.me_goto (s : State) (pc : BitVec 32) : (s.goto pc).me = { s.me with pc := pc &&& ~~~3#32, inGroup := false } :=
  State.me_setMe s _
theorem State.row_goto_other (s : State) (pc : BitVec 32) {k : RowKey} (h : k ≠ s.cur) : (s.goto pc).row k = s.row k :=
  State.row_setMe_other s _ h
@[simp] theorem State.me_advance (s : State) : s.advance.me = { s.me with pc := s.after &&& ~~~3#32, inGroup := false } :=
  State.me_goto s _
theorem State.row_advance_other (s : State) {k : RowKey} (h : k ≠ s.cur) : s.advance.row k = s.row k :=
  State.row_goto_other s _ h
theorem State.me_finish (s : State) (r : Row) :
    (s.finish r).me = { r with pc := (r.pc + BitVec.ofNat 32 (4 * s.run.length) + 4) &&& ~~~3#32, inGroup := false } := by
  simp [State.finish, State.after, State.target, State.group]
theorem State.row_finish_other (s : State) (r : Row) {k : RowKey} (h : k ≠ s.cur) : (s.finish r).row k = s.row k := by
  rw [State.finish, State.row_advance_other _ (by simpa using h), State.row_setMe_other s r h]

/-! ## A row's updates, field by field -/

@[simp] theorem Row.wg_work (r : Row) (n : BitVec 6) (v : DWord) : (r.wg n v).work = r.work := by unfold Row.wg; split <;> rfl
@[simp] theorem Row.wg_priv (r : Row) (n : BitVec 6) (v : DWord) : (r.wg n v).priv = r.priv := by unfold Row.wg; split <;> rfl
@[simp] theorem Row.wg_pri (r : Row) (n : BitVec 6) (v : DWord) : (r.wg n v).pri = r.pri := by unfold Row.wg; split <;> rfl
@[simp] theorem Row.wg_st (r : Row) (n : BitVec 6) (v : DWord) : (r.wg n v).st = r.st := by unfold Row.wg; split <;> rfl
@[simp] theorem Row.wg_waiton (r : Row) (n : BitVec 6) (v : DWord) : (r.wg n v).waiton = r.waiton := by unfold Row.wg; split <;> rfl
@[simp] theorem Row.wg_pc (r : Row) (n : BitVec 6) (v : DWord) : (r.wg n v).pc = r.pc := by unfold Row.wg; split <;> rfl
@[simp] theorem Row.wg_newpc (r : Row) (n : BitVec 6) (v : DWord) : (r.wg n v).newpc = r.newpc := by unfold Row.wg; split <;> rfl
@[simp] theorem Row.wg_pred (r : Row) (n : BitVec 6) (v : DWord) : (r.wg n v).pred = r.pred := by unfold Row.wg; split <;> rfl
@[simp] theorem Row.wg_fmt (r : Row) (n : BitVec 6) (v : DWord) : (r.wg n v).fmt = r.fmt := by unfold Row.wg; split <;> rfl
@[simp] theorem Row.wg_exc (r : Row) (n : BitVec 6) (v : DWord) : (r.wg n v).exc = r.exc := by unfold Row.wg; split <;> rfl
@[simp] theorem Row.wg_prog (r : Row) (n : BitVec 6) (v : DWord) : (r.wg n v).prog = r.prog := by unfold Row.wg; split <;> rfl
@[simp] theorem Row.wg_epc (r : Row) (n : BitVec 6) (v : DWord) : (r.wg n v).epc = r.epc := by unfold Row.wg; split <;> rfl
@[simp] theorem Row.wg_cause (r : Row) (n : BitVec 6) (v : DWord) : (r.wg n v).cause = r.cause := by unfold Row.wg; split <;> rfl
@[simp] theorem Row.wg_bud (r : Row) (n : BitVec 6) (v : DWord) : (r.wg n v).bud = r.bud := by unfold Row.wg; split <;> rfl
@[simp] theorem Row.wg_pend (r : Row) (n : BitVec 6) (v : DWord) : (r.wg n v).pend = r.pend := by unfold Row.wg; split <;> rfl
@[simp] theorem Row.wg_mon (r : Row) (n : BitVec 6) (v : DWord) : (r.wg n v).mon = r.mon := by unfold Row.wg; split <;> rfl
@[simp] theorem Row.wg_monPa (r : Row) (n : BitVec 6) (v : DWord) : (r.wg n v).monPa = r.monPa := by unfold Row.wg; split <;> rfl
@[simp] theorem Row.wg_launch (r : Row) (n : BitVec 6) (v : DWord) : (r.wg n v).launch = r.launch := by unfold Row.wg; split <;> rfl
@[simp] theorem Row.wg_rowid (r : Row) (n : BitVec 6) (v : DWord) : (r.wg n v).rowid = r.rowid := by unfold Row.wg; split <;> rfl
@[simp] theorem Row.wg_lx (r : Row) (n : BitVec 6) (v : DWord) : (r.wg n v).lx = r.lx := by unfold Row.wg; split <;> rfl
@[simp] theorem Row.wg_ly (r : Row) (n : BitVec 6) (v : DWord) : (r.wg n v).ly = r.ly := by unfold Row.wg; split <;> rfl
@[simp] theorem Row.wg_gridw (r : Row) (n : BitVec 6) (v : DWord) : (r.wg n v).gridw = r.gridw := by unfold Row.wg; split <;> rfl
@[simp] theorem Row.wg_gridh (r : Row) (n : BitVec 6) (v : DWord) : (r.wg n v).gridh = r.gridh := by unfold Row.wg; split <;> rfl
@[simp] theorem Row.wg_ext0 (r : Row) (n : BitVec 6) (v : DWord) : (r.wg n v).ext0 = r.ext0 := by unfold Row.wg; split <;> rfl
@[simp] theorem Row.wg_ext1 (r : Row) (n : BitVec 6) (v : DWord) : (r.wg n v).ext1 = r.ext1 := by unfold Row.wg; split <;> rfl
@[simp] theorem Row.wg_base0 (r : Row) (n : BitVec 6) (v : DWord) : (r.wg n v).base0 = r.base0 := by unfold Row.wg; split <;> rfl
@[simp] theorem Row.wg_base1 (r : Row) (n : BitVec 6) (v : DWord) : (r.wg n v).base1 = r.base1 := by unfold Row.wg; split <;> rfl
@[simp] theorem Row.wg_timeout (r : Row) (n : BitVec 6) (v : DWord) : (r.wg n v).timeout = r.timeout := by unfold Row.wg; split <;> rfl
@[simp] theorem Row.wg_tailpc (r : Row) (n : BitVec 6) (v : DWord) : (r.wg n v).tailpc = r.tailpc := by unfold Row.wg; split <;> rfl
@[simp] theorem Row.wg_frec (r : Row) (n : BitVec 6) (v : DWord) : (r.wg n v).frec = r.frec := by unfold Row.wg; split <;> rfl
@[simp] theorem Row.wg_dv (r : Row) (n : BitVec 6) (v : DWord) : (r.wg n v).dv = r.dv := by unfold Row.wg; split <;> rfl
@[simp] theorem Row.wg_trapact (r : Row) (n : BitVec 6) (v : DWord) : (r.wg n v).trapact = r.trapact := by unfold Row.wg; split <;> rfl
@[simp] theorem Row.wg_replay (r : Row) (n : BitVec 6) (v : DWord) : (r.wg n v).replay = r.replay := by unfold Row.wg; split <;> rfl
@[simp] theorem Row.wg_replayDue (r : Row) (n : BitVec 6) (v : DWord) : (r.wg n v).replayDue = r.replayDue := by unfold Row.wg; split <;> rfl
@[simp] theorem Row.wg_early (r : Row) (n : BitVec 6) (v : DWord) : (r.wg n v).early = r.early := by unfold Row.wg; split <;> rfl
@[simp] theorem Row.wg_deferred (r : Row) (n : BitVec 6) (v : DWord) : (r.wg n v).deferred = r.deferred := by unfold Row.wg; split <;> rfl
@[simp] theorem Row.wg_join (r : Row) (n : BitVec 6) (v : DWord) : (r.wg n v).join = r.join := by unfold Row.wg; split <;> rfl
@[simp] theorem Row.wg_predid (r : Row) (n : BitVec 6) (v : DWord) : (r.wg n v).predid = r.predid := by unfold Row.wg; split <;> rfl
@[simp] theorem Row.wg_tickets (r : Row) (n : BitVec 6) (v : DWord) : (r.wg n v).tickets = r.tickets := by unfold Row.wg; split <;> rfl
@[simp] theorem Row.wg_countCol (r : Row) (n : BitVec 6) (v : DWord) : (r.wg n v).countCol = r.countCol := by unfold Row.wg; split <;> rfl
@[simp] theorem Row.wg_readyAt (r : Row) (n : BitVec 6) (v : DWord) : (r.wg n v).readyAt = r.readyAt := by unfold Row.wg; split <;> rfl
@[simp] theorem Row.wg_pass (r : Row) (n : BitVec 6) (v : DWord) : (r.wg n v).pass = r.pass := by unfold Row.wg; split <;> rfl
@[simp] theorem Row.wg_hold (r : Row) (n : BitVec 6) (v : DWord) : (r.wg n v).hold = r.hold := by unfold Row.wg; split <;> rfl
@[simp] theorem Row.wg_joinw (r : Row) (n : BitVec 6) (v : DWord) : (r.wg n v).joinw = r.joinw := by unfold Row.wg; split <;> rfl
@[simp] theorem Row.wg_jobWait (r : Row) (n : BitVec 6) (v : DWord) : (r.wg n v).jobWait = r.jobWait := by unfold Row.wg; split <;> rfl
@[simp] theorem Row.wg_fill (r : Row) (n : BitVec 6) (v : DWord) : (r.wg n v).fill = r.fill := by unfold Row.wg; split <;> rfl
@[simp] theorem Row.wg_deadline (r : Row) (n : BitVec 6) (v : DWord) : (r.wg n v).deadline = r.deadline := by unfold Row.wg; split <;> rfl
@[simp] theorem Row.wg_move (r : Row) (n : BitVec 6) (v : DWord) : (r.wg n v).move = r.move := by unfold Row.wg; split <;> rfl
@[simp] theorem Row.wg_await (r : Row) (n : BitVec 6) (v : DWord) : (r.wg n v).await = r.await := by unfold Row.wg; split <;> rfl
@[simp] theorem Row.wg_held (r : Row) (n : BitVec 6) (v : DWord) : (r.wg n v).held = r.held := by unfold Row.wg; split <;> rfl
@[simp] theorem Row.wg_stepping (r : Row) (n : BitVec 6) (v : DWord) : (r.wg n v).stepping = r.stepping := by unfold Row.wg; split <;> rfl
@[simp] theorem Row.wg_stepper (r : Row) (n : BitVec 6) (v : DWord) : (r.wg n v).stepper = r.stepper := by unfold Row.wg; split <;> rfl
@[simp] theorem Row.wg_stoppedByTenant (r : Row) (n : BitVec 6) (v : DWord) : (r.wg n v).stoppedByTenant = r.stoppedByTenant := by unfold Row.wg; split <;> rfl
@[simp] theorem Row.wg_bad (r : Row) (n : BitVec 6) (v : DWord) : (r.wg n v).bad = r.bad := by unfold Row.wg; split <;> rfl
@[simp] theorem Row.wg_run (r : Row) (n : BitVec 6) (v : DWord) : (r.wg n v).run = r.run := by unfold Row.wg; split <;> rfl
@[simp] theorem Row.wg_mid (r : Row) (n : BitVec 6) (v : DWord) : (r.wg n v).mid = r.mid := by unfold Row.wg; split <;> rfl
@[simp] theorem Row.wg_walked (r : Row) (n : BitVec 6) (v : DWord) : (r.wg n v).walked = r.walked := by unfold Row.wg; split <;> rfl
@[simp] theorem Row.wg_again (r : Row) (n : BitVec 6) (v : DWord) : (r.wg n v).again = r.again := by unfold Row.wg; split <;> rfl
@[simp] theorem Row.wg_gbase (r : Row) (n : BitVec 6) (v : DWord) : (r.wg n v).gbase = r.gbase := by unfold Row.wg; split <;> rfl
@[simp] theorem Row.wg_mxs (r : Row) (n : BitVec 6) (v : DWord) : (r.wg n v).mxs = r.mxs := by unfold Row.wg; split <;> rfl
@[simp] theorem Row.wg_ahead (r : Row) (n : BitVec 6) (v : DWord) : (r.wg n v).ahead = r.ahead := by unfold Row.wg; split <;> rfl
@[simp] theorem Row.wg_vecs (r : Row) (n : BitVec 6) (v : DWord) : (r.wg n v).vecs = r.vecs := by unfold Row.wg; split <;> rfl
@[simp] theorem Row.wg_inGroup (r : Row) (n : BitVec 6) (v : DWord) : (r.wg n v).inGroup = r.inGroup := by unfold Row.wg; split <;> rfl
@[simp] theorem Row.wg_issueAt (r : Row) (n : BitVec 6) (v : DWord) : (r.wg n v).issueAt = r.issueAt := by unfold Row.wg; split <;> rfl

@[simp] theorem Row.wp_g (r : Row) (n : BitVec 3) (b : Bool) : (r.wp n b).g = r.g := by unfold Row.wp; split <;> rfl
@[simp] theorem Row.wp_work (r : Row) (n : BitVec 3) (b : Bool) : (r.wp n b).work = r.work := by unfold Row.wp; split <;> rfl
@[simp] theorem Row.wp_priv (r : Row) (n : BitVec 3) (b : Bool) : (r.wp n b).priv = r.priv := by unfold Row.wp; split <;> rfl
@[simp] theorem Row.wp_pri (r : Row) (n : BitVec 3) (b : Bool) : (r.wp n b).pri = r.pri := by unfold Row.wp; split <;> rfl
@[simp] theorem Row.wp_st (r : Row) (n : BitVec 3) (b : Bool) : (r.wp n b).st = r.st := by unfold Row.wp; split <;> rfl
@[simp] theorem Row.wp_waiton (r : Row) (n : BitVec 3) (b : Bool) : (r.wp n b).waiton = r.waiton := by unfold Row.wp; split <;> rfl
@[simp] theorem Row.wp_pc (r : Row) (n : BitVec 3) (b : Bool) : (r.wp n b).pc = r.pc := by unfold Row.wp; split <;> rfl
@[simp] theorem Row.wp_newpc (r : Row) (n : BitVec 3) (b : Bool) : (r.wp n b).newpc = r.newpc := by unfold Row.wp; split <;> rfl
@[simp] theorem Row.wp_fmt (r : Row) (n : BitVec 3) (b : Bool) : (r.wp n b).fmt = r.fmt := by unfold Row.wp; split <;> rfl
@[simp] theorem Row.wp_exc (r : Row) (n : BitVec 3) (b : Bool) : (r.wp n b).exc = r.exc := by unfold Row.wp; split <;> rfl
@[simp] theorem Row.wp_prog (r : Row) (n : BitVec 3) (b : Bool) : (r.wp n b).prog = r.prog := by unfold Row.wp; split <;> rfl
@[simp] theorem Row.wp_epc (r : Row) (n : BitVec 3) (b : Bool) : (r.wp n b).epc = r.epc := by unfold Row.wp; split <;> rfl
@[simp] theorem Row.wp_cause (r : Row) (n : BitVec 3) (b : Bool) : (r.wp n b).cause = r.cause := by unfold Row.wp; split <;> rfl
@[simp] theorem Row.wp_bud (r : Row) (n : BitVec 3) (b : Bool) : (r.wp n b).bud = r.bud := by unfold Row.wp; split <;> rfl
@[simp] theorem Row.wp_pend (r : Row) (n : BitVec 3) (b : Bool) : (r.wp n b).pend = r.pend := by unfold Row.wp; split <;> rfl
@[simp] theorem Row.wp_mon (r : Row) (n : BitVec 3) (b : Bool) : (r.wp n b).mon = r.mon := by unfold Row.wp; split <;> rfl
@[simp] theorem Row.wp_monPa (r : Row) (n : BitVec 3) (b : Bool) : (r.wp n b).monPa = r.monPa := by unfold Row.wp; split <;> rfl
@[simp] theorem Row.wp_launch (r : Row) (n : BitVec 3) (b : Bool) : (r.wp n b).launch = r.launch := by unfold Row.wp; split <;> rfl
@[simp] theorem Row.wp_rowid (r : Row) (n : BitVec 3) (b : Bool) : (r.wp n b).rowid = r.rowid := by unfold Row.wp; split <;> rfl
@[simp] theorem Row.wp_lx (r : Row) (n : BitVec 3) (b : Bool) : (r.wp n b).lx = r.lx := by unfold Row.wp; split <;> rfl
@[simp] theorem Row.wp_ly (r : Row) (n : BitVec 3) (b : Bool) : (r.wp n b).ly = r.ly := by unfold Row.wp; split <;> rfl
@[simp] theorem Row.wp_gridw (r : Row) (n : BitVec 3) (b : Bool) : (r.wp n b).gridw = r.gridw := by unfold Row.wp; split <;> rfl
@[simp] theorem Row.wp_gridh (r : Row) (n : BitVec 3) (b : Bool) : (r.wp n b).gridh = r.gridh := by unfold Row.wp; split <;> rfl
@[simp] theorem Row.wp_ext0 (r : Row) (n : BitVec 3) (b : Bool) : (r.wp n b).ext0 = r.ext0 := by unfold Row.wp; split <;> rfl
@[simp] theorem Row.wp_ext1 (r : Row) (n : BitVec 3) (b : Bool) : (r.wp n b).ext1 = r.ext1 := by unfold Row.wp; split <;> rfl
@[simp] theorem Row.wp_base0 (r : Row) (n : BitVec 3) (b : Bool) : (r.wp n b).base0 = r.base0 := by unfold Row.wp; split <;> rfl
@[simp] theorem Row.wp_base1 (r : Row) (n : BitVec 3) (b : Bool) : (r.wp n b).base1 = r.base1 := by unfold Row.wp; split <;> rfl
@[simp] theorem Row.wp_timeout (r : Row) (n : BitVec 3) (b : Bool) : (r.wp n b).timeout = r.timeout := by unfold Row.wp; split <;> rfl
@[simp] theorem Row.wp_tailpc (r : Row) (n : BitVec 3) (b : Bool) : (r.wp n b).tailpc = r.tailpc := by unfold Row.wp; split <;> rfl
@[simp] theorem Row.wp_frec (r : Row) (n : BitVec 3) (b : Bool) : (r.wp n b).frec = r.frec := by unfold Row.wp; split <;> rfl
@[simp] theorem Row.wp_dv (r : Row) (n : BitVec 3) (b : Bool) : (r.wp n b).dv = r.dv := by unfold Row.wp; split <;> rfl
@[simp] theorem Row.wp_trapact (r : Row) (n : BitVec 3) (b : Bool) : (r.wp n b).trapact = r.trapact := by unfold Row.wp; split <;> rfl
@[simp] theorem Row.wp_replay (r : Row) (n : BitVec 3) (b : Bool) : (r.wp n b).replay = r.replay := by unfold Row.wp; split <;> rfl
@[simp] theorem Row.wp_replayDue (r : Row) (n : BitVec 3) (b : Bool) : (r.wp n b).replayDue = r.replayDue := by unfold Row.wp; split <;> rfl
@[simp] theorem Row.wp_early (r : Row) (n : BitVec 3) (b : Bool) : (r.wp n b).early = r.early := by unfold Row.wp; split <;> rfl
@[simp] theorem Row.wp_deferred (r : Row) (n : BitVec 3) (b : Bool) : (r.wp n b).deferred = r.deferred := by unfold Row.wp; split <;> rfl
@[simp] theorem Row.wp_join (r : Row) (n : BitVec 3) (b : Bool) : (r.wp n b).join = r.join := by unfold Row.wp; split <;> rfl
@[simp] theorem Row.wp_predid (r : Row) (n : BitVec 3) (b : Bool) : (r.wp n b).predid = r.predid := by unfold Row.wp; split <;> rfl
@[simp] theorem Row.wp_tickets (r : Row) (n : BitVec 3) (b : Bool) : (r.wp n b).tickets = r.tickets := by unfold Row.wp; split <;> rfl
@[simp] theorem Row.wp_countCol (r : Row) (n : BitVec 3) (b : Bool) : (r.wp n b).countCol = r.countCol := by unfold Row.wp; split <;> rfl
@[simp] theorem Row.wp_readyAt (r : Row) (n : BitVec 3) (b : Bool) : (r.wp n b).readyAt = r.readyAt := by unfold Row.wp; split <;> rfl
@[simp] theorem Row.wp_pass (r : Row) (n : BitVec 3) (b : Bool) : (r.wp n b).pass = r.pass := by unfold Row.wp; split <;> rfl
@[simp] theorem Row.wp_hold (r : Row) (n : BitVec 3) (b : Bool) : (r.wp n b).hold = r.hold := by unfold Row.wp; split <;> rfl
@[simp] theorem Row.wp_joinw (r : Row) (n : BitVec 3) (b : Bool) : (r.wp n b).joinw = r.joinw := by unfold Row.wp; split <;> rfl
@[simp] theorem Row.wp_jobWait (r : Row) (n : BitVec 3) (b : Bool) : (r.wp n b).jobWait = r.jobWait := by unfold Row.wp; split <;> rfl
@[simp] theorem Row.wp_fill (r : Row) (n : BitVec 3) (b : Bool) : (r.wp n b).fill = r.fill := by unfold Row.wp; split <;> rfl
@[simp] theorem Row.wp_deadline (r : Row) (n : BitVec 3) (b : Bool) : (r.wp n b).deadline = r.deadline := by unfold Row.wp; split <;> rfl
@[simp] theorem Row.wp_move (r : Row) (n : BitVec 3) (b : Bool) : (r.wp n b).move = r.move := by unfold Row.wp; split <;> rfl
@[simp] theorem Row.wp_await (r : Row) (n : BitVec 3) (b : Bool) : (r.wp n b).await = r.await := by unfold Row.wp; split <;> rfl
@[simp] theorem Row.wp_held (r : Row) (n : BitVec 3) (b : Bool) : (r.wp n b).held = r.held := by unfold Row.wp; split <;> rfl
@[simp] theorem Row.wp_stepping (r : Row) (n : BitVec 3) (b : Bool) : (r.wp n b).stepping = r.stepping := by unfold Row.wp; split <;> rfl
@[simp] theorem Row.wp_stepper (r : Row) (n : BitVec 3) (b : Bool) : (r.wp n b).stepper = r.stepper := by unfold Row.wp; split <;> rfl
@[simp] theorem Row.wp_stoppedByTenant (r : Row) (n : BitVec 3) (b : Bool) : (r.wp n b).stoppedByTenant = r.stoppedByTenant := by unfold Row.wp; split <;> rfl
@[simp] theorem Row.wp_bad (r : Row) (n : BitVec 3) (b : Bool) : (r.wp n b).bad = r.bad := by unfold Row.wp; split <;> rfl
@[simp] theorem Row.wp_run (r : Row) (n : BitVec 3) (b : Bool) : (r.wp n b).run = r.run := by unfold Row.wp; split <;> rfl
@[simp] theorem Row.wp_mid (r : Row) (n : BitVec 3) (b : Bool) : (r.wp n b).mid = r.mid := by unfold Row.wp; split <;> rfl
@[simp] theorem Row.wp_walked (r : Row) (n : BitVec 3) (b : Bool) : (r.wp n b).walked = r.walked := by unfold Row.wp; split <;> rfl
@[simp] theorem Row.wp_again (r : Row) (n : BitVec 3) (b : Bool) : (r.wp n b).again = r.again := by unfold Row.wp; split <;> rfl
@[simp] theorem Row.wp_gbase (r : Row) (n : BitVec 3) (b : Bool) : (r.wp n b).gbase = r.gbase := by unfold Row.wp; split <;> rfl
@[simp] theorem Row.wp_mxs (r : Row) (n : BitVec 3) (b : Bool) : (r.wp n b).mxs = r.mxs := by unfold Row.wp; split <;> rfl
@[simp] theorem Row.wp_ahead (r : Row) (n : BitVec 3) (b : Bool) : (r.wp n b).ahead = r.ahead := by unfold Row.wp; split <;> rfl
@[simp] theorem Row.wp_vecs (r : Row) (n : BitVec 3) (b : Bool) : (r.wp n b).vecs = r.vecs := by unfold Row.wp; split <;> rfl
@[simp] theorem Row.wp_inGroup (r : Row) (n : BitVec 3) (b : Bool) : (r.wp n b).inGroup = r.inGroup := by unfold Row.wp; split <;> rfl
@[simp] theorem Row.wp_issueAt (r : Row) (n : BitVec 3) (b : Bool) : (r.wp n b).issueAt = r.issueAt := by unfold Row.wp; split <;> rfl

@[simp] theorem Row.wv_work (r : Row) (n : BitVec 5) (v : VWord) : (r.wv n v).work = r.work := by unfold Row.wv; split <;> simp
@[simp] theorem Row.wv_priv (r : Row) (n : BitVec 5) (v : VWord) : (r.wv n v).priv = r.priv := by unfold Row.wv; split <;> simp
@[simp] theorem Row.wv_pri (r : Row) (n : BitVec 5) (v : VWord) : (r.wv n v).pri = r.pri := by unfold Row.wv; split <;> simp
@[simp] theorem Row.wv_st (r : Row) (n : BitVec 5) (v : VWord) : (r.wv n v).st = r.st := by unfold Row.wv; split <;> simp
@[simp] theorem Row.wv_waiton (r : Row) (n : BitVec 5) (v : VWord) : (r.wv n v).waiton = r.waiton := by unfold Row.wv; split <;> simp
@[simp] theorem Row.wv_pc (r : Row) (n : BitVec 5) (v : VWord) : (r.wv n v).pc = r.pc := by unfold Row.wv; split <;> simp
@[simp] theorem Row.wv_newpc (r : Row) (n : BitVec 5) (v : VWord) : (r.wv n v).newpc = r.newpc := by unfold Row.wv; split <;> simp
@[simp] theorem Row.wv_pred (r : Row) (n : BitVec 5) (v : VWord) : (r.wv n v).pred = r.pred := by unfold Row.wv; split <;> simp
@[simp] theorem Row.wv_fmt (r : Row) (n : BitVec 5) (v : VWord) : (r.wv n v).fmt = r.fmt := by unfold Row.wv; split <;> simp
@[simp] theorem Row.wv_exc (r : Row) (n : BitVec 5) (v : VWord) : (r.wv n v).exc = r.exc := by unfold Row.wv; split <;> simp
@[simp] theorem Row.wv_prog (r : Row) (n : BitVec 5) (v : VWord) : (r.wv n v).prog = r.prog := by unfold Row.wv; split <;> simp
@[simp] theorem Row.wv_epc (r : Row) (n : BitVec 5) (v : VWord) : (r.wv n v).epc = r.epc := by unfold Row.wv; split <;> simp
@[simp] theorem Row.wv_cause (r : Row) (n : BitVec 5) (v : VWord) : (r.wv n v).cause = r.cause := by unfold Row.wv; split <;> simp
@[simp] theorem Row.wv_bud (r : Row) (n : BitVec 5) (v : VWord) : (r.wv n v).bud = r.bud := by unfold Row.wv; split <;> simp
@[simp] theorem Row.wv_pend (r : Row) (n : BitVec 5) (v : VWord) : (r.wv n v).pend = r.pend := by unfold Row.wv; split <;> simp
@[simp] theorem Row.wv_mon (r : Row) (n : BitVec 5) (v : VWord) : (r.wv n v).mon = r.mon := by unfold Row.wv; split <;> simp
@[simp] theorem Row.wv_monPa (r : Row) (n : BitVec 5) (v : VWord) : (r.wv n v).monPa = r.monPa := by unfold Row.wv; split <;> simp
@[simp] theorem Row.wv_launch (r : Row) (n : BitVec 5) (v : VWord) : (r.wv n v).launch = r.launch := by unfold Row.wv; split <;> simp
@[simp] theorem Row.wv_rowid (r : Row) (n : BitVec 5) (v : VWord) : (r.wv n v).rowid = r.rowid := by unfold Row.wv; split <;> simp
@[simp] theorem Row.wv_lx (r : Row) (n : BitVec 5) (v : VWord) : (r.wv n v).lx = r.lx := by unfold Row.wv; split <;> simp
@[simp] theorem Row.wv_ly (r : Row) (n : BitVec 5) (v : VWord) : (r.wv n v).ly = r.ly := by unfold Row.wv; split <;> simp
@[simp] theorem Row.wv_gridw (r : Row) (n : BitVec 5) (v : VWord) : (r.wv n v).gridw = r.gridw := by unfold Row.wv; split <;> simp
@[simp] theorem Row.wv_gridh (r : Row) (n : BitVec 5) (v : VWord) : (r.wv n v).gridh = r.gridh := by unfold Row.wv; split <;> simp
@[simp] theorem Row.wv_ext0 (r : Row) (n : BitVec 5) (v : VWord) : (r.wv n v).ext0 = r.ext0 := by unfold Row.wv; split <;> simp
@[simp] theorem Row.wv_ext1 (r : Row) (n : BitVec 5) (v : VWord) : (r.wv n v).ext1 = r.ext1 := by unfold Row.wv; split <;> simp
@[simp] theorem Row.wv_base0 (r : Row) (n : BitVec 5) (v : VWord) : (r.wv n v).base0 = r.base0 := by unfold Row.wv; split <;> simp
@[simp] theorem Row.wv_base1 (r : Row) (n : BitVec 5) (v : VWord) : (r.wv n v).base1 = r.base1 := by unfold Row.wv; split <;> simp
@[simp] theorem Row.wv_timeout (r : Row) (n : BitVec 5) (v : VWord) : (r.wv n v).timeout = r.timeout := by unfold Row.wv; split <;> simp
@[simp] theorem Row.wv_tailpc (r : Row) (n : BitVec 5) (v : VWord) : (r.wv n v).tailpc = r.tailpc := by unfold Row.wv; split <;> simp
@[simp] theorem Row.wv_frec (r : Row) (n : BitVec 5) (v : VWord) : (r.wv n v).frec = r.frec := by unfold Row.wv; split <;> simp
@[simp] theorem Row.wv_dv (r : Row) (n : BitVec 5) (v : VWord) : (r.wv n v).dv = r.dv := by unfold Row.wv; split <;> simp
@[simp] theorem Row.wv_trapact (r : Row) (n : BitVec 5) (v : VWord) : (r.wv n v).trapact = r.trapact := by unfold Row.wv; split <;> simp
@[simp] theorem Row.wv_replay (r : Row) (n : BitVec 5) (v : VWord) : (r.wv n v).replay = r.replay := by unfold Row.wv; split <;> simp
@[simp] theorem Row.wv_replayDue (r : Row) (n : BitVec 5) (v : VWord) : (r.wv n v).replayDue = r.replayDue := by unfold Row.wv; split <;> simp
@[simp] theorem Row.wv_early (r : Row) (n : BitVec 5) (v : VWord) : (r.wv n v).early = r.early := by unfold Row.wv; split <;> simp
@[simp] theorem Row.wv_deferred (r : Row) (n : BitVec 5) (v : VWord) : (r.wv n v).deferred = r.deferred := by unfold Row.wv; split <;> simp
@[simp] theorem Row.wv_join (r : Row) (n : BitVec 5) (v : VWord) : (r.wv n v).join = r.join := by unfold Row.wv; split <;> simp
@[simp] theorem Row.wv_predid (r : Row) (n : BitVec 5) (v : VWord) : (r.wv n v).predid = r.predid := by unfold Row.wv; split <;> simp
@[simp] theorem Row.wv_tickets (r : Row) (n : BitVec 5) (v : VWord) : (r.wv n v).tickets = r.tickets := by unfold Row.wv; split <;> simp
@[simp] theorem Row.wv_countCol (r : Row) (n : BitVec 5) (v : VWord) : (r.wv n v).countCol = r.countCol := by unfold Row.wv; split <;> simp
@[simp] theorem Row.wv_readyAt (r : Row) (n : BitVec 5) (v : VWord) : (r.wv n v).readyAt = r.readyAt := by unfold Row.wv; split <;> simp
@[simp] theorem Row.wv_pass (r : Row) (n : BitVec 5) (v : VWord) : (r.wv n v).pass = r.pass := by unfold Row.wv; split <;> simp
@[simp] theorem Row.wv_hold (r : Row) (n : BitVec 5) (v : VWord) : (r.wv n v).hold = r.hold := by unfold Row.wv; split <;> simp
@[simp] theorem Row.wv_joinw (r : Row) (n : BitVec 5) (v : VWord) : (r.wv n v).joinw = r.joinw := by unfold Row.wv; split <;> simp
@[simp] theorem Row.wv_jobWait (r : Row) (n : BitVec 5) (v : VWord) : (r.wv n v).jobWait = r.jobWait := by unfold Row.wv; split <;> simp
@[simp] theorem Row.wv_fill (r : Row) (n : BitVec 5) (v : VWord) : (r.wv n v).fill = r.fill := by unfold Row.wv; split <;> simp
@[simp] theorem Row.wv_deadline (r : Row) (n : BitVec 5) (v : VWord) : (r.wv n v).deadline = r.deadline := by unfold Row.wv; split <;> simp
@[simp] theorem Row.wv_move (r : Row) (n : BitVec 5) (v : VWord) : (r.wv n v).move = r.move := by unfold Row.wv; split <;> simp
@[simp] theorem Row.wv_await (r : Row) (n : BitVec 5) (v : VWord) : (r.wv n v).await = r.await := by unfold Row.wv; split <;> simp
@[simp] theorem Row.wv_held (r : Row) (n : BitVec 5) (v : VWord) : (r.wv n v).held = r.held := by unfold Row.wv; split <;> simp
@[simp] theorem Row.wv_stepping (r : Row) (n : BitVec 5) (v : VWord) : (r.wv n v).stepping = r.stepping := by unfold Row.wv; split <;> simp
@[simp] theorem Row.wv_stepper (r : Row) (n : BitVec 5) (v : VWord) : (r.wv n v).stepper = r.stepper := by unfold Row.wv; split <;> simp
@[simp] theorem Row.wv_stoppedByTenant (r : Row) (n : BitVec 5) (v : VWord) : (r.wv n v).stoppedByTenant = r.stoppedByTenant := by unfold Row.wv; split <;> simp
@[simp] theorem Row.wv_bad (r : Row) (n : BitVec 5) (v : VWord) : (r.wv n v).bad = r.bad := by unfold Row.wv; split <;> simp
@[simp] theorem Row.wv_run (r : Row) (n : BitVec 5) (v : VWord) : (r.wv n v).run = r.run := by unfold Row.wv; split <;> simp
@[simp] theorem Row.wv_mid (r : Row) (n : BitVec 5) (v : VWord) : (r.wv n v).mid = r.mid := by unfold Row.wv; split <;> simp
@[simp] theorem Row.wv_walked (r : Row) (n : BitVec 5) (v : VWord) : (r.wv n v).walked = r.walked := by unfold Row.wv; split <;> simp
@[simp] theorem Row.wv_again (r : Row) (n : BitVec 5) (v : VWord) : (r.wv n v).again = r.again := by unfold Row.wv; split <;> simp
@[simp] theorem Row.wv_gbase (r : Row) (n : BitVec 5) (v : VWord) : (r.wv n v).gbase = r.gbase := by unfold Row.wv; split <;> simp
@[simp] theorem Row.wv_mxs (r : Row) (n : BitVec 5) (v : VWord) : (r.wv n v).mxs = r.mxs := by unfold Row.wv; split <;> simp
@[simp] theorem Row.wv_ahead (r : Row) (n : BitVec 5) (v : VWord) : (r.wv n v).ahead = r.ahead := by unfold Row.wv; split <;> simp
@[simp] theorem Row.wv_vecs (r : Row) (n : BitVec 5) (v : VWord) : (r.wv n v).vecs = r.vecs := by unfold Row.wv; split <;> simp
@[simp] theorem Row.wv_inGroup (r : Row) (n : BitVec 5) (v : VWord) : (r.wv n v).inGroup = r.inGroup := by unfold Row.wv; split <;> simp
@[simp] theorem Row.wv_issueAt (r : Row) (n : BitVec 5) (v : VWord) : (r.wv n v).issueAt = r.issueAt := by unfold Row.wv; split <;> simp

@[simp] theorem Row.raise_g (r : Row) (f : BitVec 6) : (r.raise f).g = r.g := rfl
@[simp] theorem Row.raise_work (r : Row) (f : BitVec 6) : (r.raise f).work = r.work := rfl
@[simp] theorem Row.raise_priv (r : Row) (f : BitVec 6) : (r.raise f).priv = r.priv := rfl
@[simp] theorem Row.raise_pri (r : Row) (f : BitVec 6) : (r.raise f).pri = r.pri := rfl
@[simp] theorem Row.raise_st (r : Row) (f : BitVec 6) : (r.raise f).st = r.st := rfl
@[simp] theorem Row.raise_waiton (r : Row) (f : BitVec 6) : (r.raise f).waiton = r.waiton := rfl
@[simp] theorem Row.raise_pc (r : Row) (f : BitVec 6) : (r.raise f).pc = r.pc := rfl
@[simp] theorem Row.raise_newpc (r : Row) (f : BitVec 6) : (r.raise f).newpc = r.newpc := rfl
@[simp] theorem Row.raise_pred (r : Row) (f : BitVec 6) : (r.raise f).pred = r.pred := rfl
@[simp] theorem Row.raise_fmt (r : Row) (f : BitVec 6) : (r.raise f).fmt = r.fmt := rfl
@[simp] theorem Row.raise_prog (r : Row) (f : BitVec 6) : (r.raise f).prog = r.prog := rfl
@[simp] theorem Row.raise_epc (r : Row) (f : BitVec 6) : (r.raise f).epc = r.epc := rfl
@[simp] theorem Row.raise_cause (r : Row) (f : BitVec 6) : (r.raise f).cause = r.cause := rfl
@[simp] theorem Row.raise_bud (r : Row) (f : BitVec 6) : (r.raise f).bud = r.bud := rfl
@[simp] theorem Row.raise_pend (r : Row) (f : BitVec 6) : (r.raise f).pend = r.pend := rfl
@[simp] theorem Row.raise_mon (r : Row) (f : BitVec 6) : (r.raise f).mon = r.mon := rfl
@[simp] theorem Row.raise_monPa (r : Row) (f : BitVec 6) : (r.raise f).monPa = r.monPa := rfl
@[simp] theorem Row.raise_launch (r : Row) (f : BitVec 6) : (r.raise f).launch = r.launch := rfl
@[simp] theorem Row.raise_rowid (r : Row) (f : BitVec 6) : (r.raise f).rowid = r.rowid := rfl
@[simp] theorem Row.raise_lx (r : Row) (f : BitVec 6) : (r.raise f).lx = r.lx := rfl
@[simp] theorem Row.raise_ly (r : Row) (f : BitVec 6) : (r.raise f).ly = r.ly := rfl
@[simp] theorem Row.raise_gridw (r : Row) (f : BitVec 6) : (r.raise f).gridw = r.gridw := rfl
@[simp] theorem Row.raise_gridh (r : Row) (f : BitVec 6) : (r.raise f).gridh = r.gridh := rfl
@[simp] theorem Row.raise_ext0 (r : Row) (f : BitVec 6) : (r.raise f).ext0 = r.ext0 := rfl
@[simp] theorem Row.raise_ext1 (r : Row) (f : BitVec 6) : (r.raise f).ext1 = r.ext1 := rfl
@[simp] theorem Row.raise_base0 (r : Row) (f : BitVec 6) : (r.raise f).base0 = r.base0 := rfl
@[simp] theorem Row.raise_base1 (r : Row) (f : BitVec 6) : (r.raise f).base1 = r.base1 := rfl
@[simp] theorem Row.raise_timeout (r : Row) (f : BitVec 6) : (r.raise f).timeout = r.timeout := rfl
@[simp] theorem Row.raise_tailpc (r : Row) (f : BitVec 6) : (r.raise f).tailpc = r.tailpc := rfl
@[simp] theorem Row.raise_frec (r : Row) (f : BitVec 6) : (r.raise f).frec = r.frec := rfl
@[simp] theorem Row.raise_dv (r : Row) (f : BitVec 6) : (r.raise f).dv = r.dv := rfl
@[simp] theorem Row.raise_trapact (r : Row) (f : BitVec 6) : (r.raise f).trapact = r.trapact := rfl
@[simp] theorem Row.raise_replay (r : Row) (f : BitVec 6) : (r.raise f).replay = r.replay := rfl
@[simp] theorem Row.raise_replayDue (r : Row) (f : BitVec 6) : (r.raise f).replayDue = r.replayDue := rfl
@[simp] theorem Row.raise_early (r : Row) (f : BitVec 6) : (r.raise f).early = r.early := rfl
@[simp] theorem Row.raise_deferred (r : Row) (f : BitVec 6) : (r.raise f).deferred = r.deferred := rfl
@[simp] theorem Row.raise_join (r : Row) (f : BitVec 6) : (r.raise f).join = r.join := rfl
@[simp] theorem Row.raise_predid (r : Row) (f : BitVec 6) : (r.raise f).predid = r.predid := rfl
@[simp] theorem Row.raise_tickets (r : Row) (f : BitVec 6) : (r.raise f).tickets = r.tickets := rfl
@[simp] theorem Row.raise_countCol (r : Row) (f : BitVec 6) : (r.raise f).countCol = r.countCol := rfl
@[simp] theorem Row.raise_readyAt (r : Row) (f : BitVec 6) : (r.raise f).readyAt = r.readyAt := rfl
@[simp] theorem Row.raise_pass (r : Row) (f : BitVec 6) : (r.raise f).pass = r.pass := rfl
@[simp] theorem Row.raise_hold (r : Row) (f : BitVec 6) : (r.raise f).hold = r.hold := rfl
@[simp] theorem Row.raise_joinw (r : Row) (f : BitVec 6) : (r.raise f).joinw = r.joinw := rfl
@[simp] theorem Row.raise_jobWait (r : Row) (f : BitVec 6) : (r.raise f).jobWait = r.jobWait := rfl
@[simp] theorem Row.raise_fill (r : Row) (f : BitVec 6) : (r.raise f).fill = r.fill := rfl
@[simp] theorem Row.raise_deadline (r : Row) (f : BitVec 6) : (r.raise f).deadline = r.deadline := rfl
@[simp] theorem Row.raise_move (r : Row) (f : BitVec 6) : (r.raise f).move = r.move := rfl
@[simp] theorem Row.raise_await (r : Row) (f : BitVec 6) : (r.raise f).await = r.await := rfl
@[simp] theorem Row.raise_held (r : Row) (f : BitVec 6) : (r.raise f).held = r.held := rfl
@[simp] theorem Row.raise_stepping (r : Row) (f : BitVec 6) : (r.raise f).stepping = r.stepping := rfl
@[simp] theorem Row.raise_stepper (r : Row) (f : BitVec 6) : (r.raise f).stepper = r.stepper := rfl
@[simp] theorem Row.raise_stoppedByTenant (r : Row) (f : BitVec 6) : (r.raise f).stoppedByTenant = r.stoppedByTenant := rfl
@[simp] theorem Row.raise_bad (r : Row) (f : BitVec 6) : (r.raise f).bad = r.bad := rfl
@[simp] theorem Row.raise_run (r : Row) (f : BitVec 6) : (r.raise f).run = r.run := rfl
@[simp] theorem Row.raise_mid (r : Row) (f : BitVec 6) : (r.raise f).mid = r.mid := rfl
@[simp] theorem Row.raise_walked (r : Row) (f : BitVec 6) : (r.raise f).walked = r.walked := rfl
@[simp] theorem Row.raise_again (r : Row) (f : BitVec 6) : (r.raise f).again = r.again := rfl
@[simp] theorem Row.raise_gbase (r : Row) (f : BitVec 6) : (r.raise f).gbase = r.gbase := rfl
@[simp] theorem Row.raise_mxs (r : Row) (f : BitVec 6) : (r.raise f).mxs = r.mxs := rfl
@[simp] theorem Row.raise_ahead (r : Row) (f : BitVec 6) : (r.raise f).ahead = r.ahead := rfl
@[simp] theorem Row.raise_vecs (r : Row) (f : BitVec 6) : (r.raise f).vecs = r.vecs := rfl
@[simp] theorem Row.raise_inGroup (r : Row) (f : BitVec 6) : (r.raise f).inGroup = r.inGroup := rfl
@[simp] theorem Row.raise_issueAt (r : Row) (f : BitVec 6) : (r.raise f).issueAt = r.issueAt := rfl
@[simp] theorem Row.raise_exc (r : Row) (f : BitVec 6) : (r.raise f).exc = r.exc ||| f := rfl

/-! ## Reading registers after writing -/

/-- g n read after g d was written: g0 reads 0 and takes no write (R85). -/
theorem Row.rg_wg (r : Row) (d n : BitVec 6) (v : DWord) : (r.wg d v).rg n = if n = d ∧ d ≠ 0 then v else r.rg n := by
  by_cases hd : d = 0
  · subst hd
    rw [if_neg (fun e => e.2 rfl)]
    rfl
  · have e : (r.wg d v).g = r.g.set d.toNat v := by
      unfold Row.wg
      rw [if_neg (by simpa using hd)]
    by_cases hn : n = 0
    · subst hn
      rw [if_neg (fun e => hd e.1.symm)]
      rfl
    · have hb : (n == 0) = false := by simpa using hn
      unfold Row.rg Row.graw
      simp only [hb, Bool.false_eq_true, if_false, e, Vector.getElem_set]
      by_cases h : n = d
      · subst h
        rw [if_pos rfl, if_pos ⟨rfl, hd⟩]
      · rw [if_neg (fun e => h (BitVec.eq_of_toNat_eq e.symm)), if_neg (fun e => h e.1)]

/-- g0 reads 0 (R85). -/
@[simp] theorem Row.rg_zero (r : Row) : r.rg 0 = 0 := rfl

/-- p0 reads 1 (R86). -/
@[simp] theorem Row.rp_zero (r : Row) : r.rp 0 = true := rfl

/-- v0 reads 0 (R85). -/
@[simp] theorem Row.rv_zero (r : Row) : r.rv 0 = 0 := rfl

end Sys2Proof.Machine
end

