-- ==== Sys2Proof/Laws/Memory.lean ====
section
/-! SUPPORT. What the memory system may change when it moves bytes between caches and homes: one relation, and one lemma per
operation that says the operation stays within it. -/

namespace Sys2Proof.Machine

/-- From s to t only caches, TLBs, the tags of span caches, departure numbers, DRAM with its poison and release vectors, and the
firings and wakes on their way have changed; and DRAM has kept its canonical form. -/
structure CacheMoves (s t : State) : Prop where
  rest : { t with cols := s.cols, spans := s.spans, fields := s.fields, mem := s.mem, poison := s.poison, relvec := s.relvec,
                  fires := s.fires, joinWakes := s.joinWakes } = s
  col : ∀ i, { t.col i with cache := (s.col i).cache, tlb := (s.col i).tlb } = s.col i
  span : ∀ i, { t.span i with lines := (s.span i).lines } = s.span i
  field : ∀ i, { t.field i with dep := (s.field i).dep, outst := (s.field i).outst } = s.field i
  form : s.mem.wf = true → t.mem.wf = true

namespace CacheMoves

variable {s t u : State}

theorem refl (s : State) : CacheMoves s s := ⟨rfl, fun _ => rfl, fun _ => rfl, fun _ => rfl, id⟩

theorem trans (a : CacheMoves s t) (b : CacheMoves t u) : CacheMoves s u where
  rest := by
    have := a.rest; rw [← b.rest] at this; exact this
  col i := by
    have := a.col i; rw [← b.col i] at this; exact this
  span i := by
    have := a.span i; rw [← b.span i] at this; exact this
  field i := by
    have := a.field i; rw [← b.field i] at this; exact this
  form h := b.form (a.form h)

theorem rows (a : CacheMoves s t) : t.rows = s.rows := (congrArg State.rows a.rest :)
theorem tens (a : CacheMoves s t) : t.tens = s.tens := (congrArg State.tens a.rest :)
theorem host (a : CacheMoves s t) : t.host = s.host := (congrArg State.host a.rest :)
theorem row (a : CacheMoves s t) (k : RowKey) : t.row k = s.row k := by simp only [State.row, a.rows]
theorem ten (a : CacheMoves s t) (k : BitVec 4) : t.ten k = s.ten k := by simp only [State.ten, a.tens]
theorem cur (a : CacheMoves s t) : t.cur = s.cur := (congrArg State.cur a.rest :)
theorem seat (a : CacheMoves s t) : t.seat = s.seat := (congrArg State.seat a.rest :)
theorem run (a : CacheMoves s t) : t.run = s.run := (congrArg State.run a.rest :)
theorem time (a : CacheMoves s t) : t.time = s.time := (congrArg State.time a.rest :)
theorem me (a : CacheMoves s t) : t.me = s.me := by simp only [State.me, a.row, a.cur]
theorem here (a : CacheMoves s t) : t.here = s.here := by simp only [State.here, a.seat]
theorem execs (a : CacheMoves s t) (i : Nat) : (t.col i).execs = (s.col i).execs := (congrArg Column.execs (a.col i) :)
theorem executor (a : CacheMoves s t) (i : Nat) (b : BitVec 3) : t.executor i b = s.executor i b := by
  simp only [State.executor, a.execs]
theorem seated (a : CacheMoves s t) : t.seated = s.seated := by
  simp only [State.seated, a.executor, a.here, a.seat, a.cur, a.me]

/-- Changes of the state that no field outside the relation sees. -/
theorem of_mem (m : Memory) (p : List Nat) (r : NMap (Vector (BitVec 32) 12)) (f : List Fire) (j : List RowKey)
    (h : s.mem.wf = true → m.wf = true) :
    CacheMoves s { s with mem := m, poison := p, relvec := r, fires := f, joinWakes := j } :=
  ⟨rfl, fun _ => rfl, fun _ => rfl, fun _ => rfl, h⟩

theorem of_col (i : Nat) (c : Column) (h : { c with cache := (s.col i).cache, tlb := (s.col i).tlb } = s.col i) :
    CacheMoves s (s.setCol i c) where
  rest := rfl
  col j := by
    by_cases e : j = i
    · subst e; rw [State.col_setCol_same]; exact h
    · rw [State.col_setCol_other _ _ e]
  span _ := rfl
  field _ := rfl
  form := id

theorem of_span (i : Nat) (x : Span) (h : { x with lines := (s.span i).lines } = s.span i) : CacheMoves s (s.setSpan i x) where
  rest := rfl
  col _ := rfl
  span j := by
    by_cases e : j = i
    · subst e; rw [State.span_setSpan_same]; exact h
    · rw [State.span_setSpan_other _ _ e]
  field _ := rfl
  form := id

theorem of_field (i : Nat) (x : Field) (h : { x with dep := (s.field i).dep, outst := (s.field i).outst } = s.field i) :
    CacheMoves s (s.setField i x) where
  rest := rfl
  col _ := rfl
  span _ := rfl
  field j := by
    by_cases e : j = i
    · subst e; rw [State.field_setField_same]; exact h
    · rw [State.field_setField_other _ _ e]
  form := id

/-- A change of one column's cache or TLB after changes within the relation. -/
theorem then_col (a : CacheMoves s t) (i : Nat) (c : Column)
    (h : { c with cache := (t.col i).cache, tlb := (t.col i).tlb } = t.col i) : CacheMoves s (t.setCol i c) :=
  a.trans (of_col i c h)

/-- A change of one line of a column's cache after changes within the relation. -/
theorem then_line (a : CacheMoves s t) (i line : Nat) (f : CLine → CLine) :
    CacheMoves s (match (t.col i).line line with | none => t | some l => t.setCol i ((t.col i).setLine (f l))) := by
  split
  · exact a
  · exact a.then_col i _ rfl

/-- A fold of operations that stay within the relation stays within it. -/
theorem foldl {α : Type} (f : State → α → State) (h : ∀ s x, CacheMoves s (f s x)) (l : List α) (s : State) :
    CacheMoves s (l.foldl f s) := by
  induction l generalizing s with
  | nil => exact refl s
  | cons x l ih => exact (h s x).trans (ih (f s x))

/-- The result of a bind, where both parts stay within the relation. -/
theorem bind {α β : Type} {x : Res α} {f : α → State → Res β} {v : β}
    (hx : ∀ a u, x = .ok a u → CacheMoves s u) (hf : ∀ a u, x = .ok a u → f a u = .ok v t → CacheMoves u t)
    (h : x.bind f = .ok v t) : CacheMoves s t := by
  cases x with
  | ok a u => exact (hx a u rfl).trans (hf a u rfl h)
  | fault e => simp [Res.bind] at h
  | wait a b => simp [Res.bind] at h
  | stall => simp [Res.bind] at h
  | miss va => simp [Res.bind] at h
  | move n => simp [Res.bind] at h

end CacheMoves

/-! ## The operations -/

theorem State.fireLine_moves (s : State) (line : Nat) : CacheMoves s (s.fireLine line) := .of_mem _ _ _ _ _ id

theorem State.wakeJoins_moves (s : State) (a n : Nat) : CacheMoves s (s.wakeJoins a n) := .of_mem _ _ _ _ _ id

theorem State.touchSpan_moves (s : State) (pa : Nat) (write : Bool) : CacheMoves s (s.touchSpan pa write) := by
  unfold State.touchSpan
  dsimp only
  split <;> exact .of_span _ _ rfl

theorem State.keepLine_moves (s : State) (pa : Nat) (k : Keep) : CacheMoves s (s.keepLine pa k) := by
  unfold State.keepLine
  dsimp only
  split <;> exact .of_span _ _ rfl

theorem State.touchHeld_moves (s : State) (pa : Nat) : CacheMoves s (s.touchHeld pa) := by
  unfold State.touchHeld
  split
  · exact State.touchSpan_moves s _ _
  · exact .refl s

theorem State.carry_moves (s : State) (pa n : Nat) (v : Vector (BitVec 32) 12) : CacheMoves s (s.carry pa n v) := by
  refine CacheMoves.foldl _ (fun u w => ?_) _ s
  split
  · exact .of_mem _ _ _ _ _ id
  · exact .refl u

theorem State.homeWrite_moves (s : State) (pa : Nat) (data : List Byte) (plain : Bool) : CacheMoves s (s.homeWrite pa data plain) := by
  unfold State.homeWrite
  refine (CacheMoves.trans (CacheMoves.trans (CacheMoves.trans ?_ (State.fireLine_moves _ _)) (State.wakeJoins_moves _ _ _))
    (State.touchSpan_moves _ _ _))
  exact .of_mem _ _ _ _ _ (Memory.foldl_write_wf _ _ _)

theorem State.depart_moves (s : State) (f g : Nat) (done : Bool) : CacheMoves s (s.depart f g done).1 := by
  unfold State.depart
  split
  · exact .refl s
  · exact .of_field _ _ rfl

theorem State.performed_moves (s : State) (num : Option (BitVec 4 × BitVec 32)) : CacheMoves s (s.performed num) := by
  unfold State.performed
  split
  · exact .refl s
  · exact .of_field _ _ rfl

theorem State.writeBackSector_moves (s was : State) (site line : Nat) (l : CLine) (k : Nat) :
    CacheMoves s (s.writeBackSector was site line l k) := by
  have h : ∀ (m : Memory) (p : List Nat) (r : NMap (Vector (BitVec 32) 12)), (s.mem.wf = true → m.wf = true) →
      CacheMoves s ((((((l.dirtyOf k).foldl (fun s x => s.wakeJoins (256 * line + x.1) 1)
        (({ s with mem := m, poison := p, relvec := r } : State).fireLine line)).touchSpan (256 * line) true).keepLine
        (256 * line) ⟨false, l.prio⟩).depart (fieldOfSite site) (homeField (256 * line)) true).1) := fun m p r h =>
    (CacheMoves.of_mem _ _ _ _ _ h).trans ((State.fireLine_moves _ _).trans
      ((CacheMoves.foldl _ (fun u x => State.wakeJoins_moves u _ _) _ _).trans
        ((State.touchSpan_moves _ _ _).trans ((State.keepLine_moves _ _ _).trans (State.depart_moves _ _ _ true)))))
  unfold State.writeBackSector
  split
  · exact .refl s
  · dsimp only
    split
    · exact (h _ _ _ (Memory.foldl_write_wf _ _ _)).trans (.of_mem _ _ _ _ _ id)
    · exact h _ _ _ (Memory.foldl_write_wf _ _ _)

theorem State.cleanNear_moves (s : State) (site line : Nat) : CacheMoves s (s.cleanNear site line) := by
  unfold State.cleanNear
  split
  · exact .refl s
  · split
    · exact .refl s
    · exact (CacheMoves.foldl _ (fun s k => State.writeBackSector_moves s _ _ _ _ _) _ _).trans (.of_col _ _ rfl)

theorem State.flushNear_moves (s : State) (site line : Nat) : CacheMoves s (s.flushNear site line) := by
  unfold State.flushNear
  split
  · exact .refl s
  · exact (State.cleanNear_moves s site line).trans (.of_col _ _ rfl)

theorem State.recall_moves (s : State) (line : Nat) (but : Option Nat) : CacheMoves s (s.recall line but) :=
  CacheMoves.foldl _ (fun s i => State.flushNear_moves s i line) _ s

theorem State.merge_moves (s : State) (line : Nat) (but : Option Nat) : CacheMoves s (s.merge line but) :=
  CacheMoves.foldl _ (fun s i => State.cleanNear_moves s i line) _ s

theorem State.cleanLine_moves (s : State) (site line : Nat) : CacheMoves s (s.cleanLine site line) := by
  unfold State.cleanLine
  split
  · exact .refl s
  · split
    · exact .refl s
    · split
      · exact State.cleanNear_moves s _ _
      · exact (State.recall_moves s _ _).trans (State.cleanNear_moves _ _ _)

theorem State.flushLine_moves (s : State) (site line : Nat) : CacheMoves s (s.flushLine site line) := by
  unfold State.flushLine
  split
  · exact .refl s
  · exact (State.cleanLine_moves s site line).trans (.of_col _ _ rfl)

theorem State.releaseFar_moves (s : State) (site : Nat) : CacheMoves s (s.releaseFar site) :=
  CacheMoves.foldl _ (fun s l => State.cleanLine_moves s site l) _ s

theorem State.acquireFar_moves (s : State) (site : Nat) : CacheMoves s (s.acquireFar site) :=
  CacheMoves.foldl _ (fun s l => State.flushLine_moves s site l) _ s

theorem State.allocLine_moves (s : State) (site line prio : Nat) : CacheMoves s (s.allocLine site line prio) := by
  unfold State.allocLine
  dsimp only
  split
  · exact .of_col _ _ rfl
  · refine CacheMoves.then_col ?_ _ _ rfl
    split
    · exact .refl s
    · split
      · exact State.flushLine_moves s _ _
      · exact .refl s

theorem State.homeReady_moves (s : State) (pa : Nat) (but : Option Nat) : CacheMoves s (s.homeReady pa but) := by
  unfold State.homeReady
  dsimp only
  split
  · exact State.merge_moves s _ _
  · exact (State.merge_moves s _ _).trans (CacheMoves.foldl _ (fun s l => State.merge_moves s l none) _ _)

theorem State.fillSector_moves (s : State) (site line prio k : Nat) : CacheMoves s (s.fillSector site line prio k) := by
  have h := (((State.homeReady_moves s (256 * line) (some site)).trans (State.touchSpan_moves _ (256 * line) false)).trans
    (State.keepLine_moves _ (256 * line) ⟨false, prio⟩)).trans (State.allocLine_moves _ site line prio)
  unfold State.fillSector
  dsimp only
  revert h
  generalize (((s.homeReady (256 * line) (some site)).touchSpan (256 * line) false).keepLine (256 * line) ⟨false, prio⟩).allocLine
    site line prio = u
  intro h
  exact h.then_line site line (fun l => l.fill k (u.homeBytes (256 * line + 32 * k) 32))

theorem State.storeHome_moves (s : State) (site pa : Nat) (data : List Byte) (k : Keep) :
    CacheMoves s (s.storeHome site pa data k) := by
  unfold State.storeHome
  refine CacheMoves.trans (State.recall_moves s (pa / 256) (some site)) (CacheMoves.trans (CacheMoves.trans ?_
    (State.homeWrite_moves _ pa data true)) (State.keepLine_moves _ pa k))
  split
  · exact .refl _
  · exact .of_col _ _ rfl

theorem State.storeOut_moves (s : State) (site pa : Nat) (data : List Byte) (k : Keep) : CacheMoves s (s.storeOut site pa data k) :=
  (State.storeHome_moves s site pa data k).trans (State.depart_moves _ _ _ true)

theorem State.storeCached_moves (s : State) (site prio pa : Nat) (data : List Byte) : CacheMoves s (s.storeCached site prio pa data) := by
  have near : ∀ b : Bool, CacheMoves s (if b then ((s.recall (pa / 256) (some site)).fireLine (pa / 256)).wakeJoins pa data.length else s) := by
    intro b
    cases b
    · exact .refl s
    · exact (State.recall_moves s _ _).trans ((State.fireLine_moves _ _).trans (State.wakeJoins_moves _ _ _))
  exact ((near (homeField pa == fieldOfSite site)).trans (State.allocLine_moves _ site (pa / 256) prio)).then_line site (pa / 256)
    (fun l => { l with data := _, dirty := _, bad := _ })

/-- A release that is applied to DRAM at its home moves bytes there and leaves its vector. -/
theorem State.applyRelease_moves (s : State) (k : RowKey) (site pa : Nat) (attr : Attr) (h : CacheHint) (data : List Byte)
    (v : Vector (BitVec 32) 12) (out : Bool) : CacheMoves s (s.applyRelease k site (.dram pa) attr h data (some v) out) := by
  unfold State.applyRelease
  dsimp only
  refine CacheMoves.trans (State.flushLine_moves s site (pa / 256)) (CacheMoves.trans ?_ (State.carry_moves _ _ _ _))
  split
  · exact State.storeOut_moves _ _ _ _ _
  · exact State.storeHome_moves _ _ _ _ _

theorem State.coreWrite_moves (s : State) (pa : Nat) (data : List Byte) : CacheMoves s (s.coreWrite pa data) :=
  (State.recall_moves s _ _).trans (State.homeWrite_moves _ _ _ _)

theorem State.deviceWrite_moves (s : State) (pa : Nat) (data : List Byte) : CacheMoves s (s.deviceWrite pa data) :=
  (State.recall_moves s _ _).trans ((CacheMoves.of_mem _ _ _ _ _ (Memory.writeBytes_wf _ _)).trans
    ((State.fireLine_moves _ _).trans ((State.wakeJoins_moves _ _ _).trans (State.touchSpan_moves _ _ _))))

theorem State.setTlock_moves (s : State) (pa : Nat) (v : BitVec 32) : CacheMoves s (s.setTlock pa v) :=
  (State.recall_moves s _ _).trans ((CacheMoves.of_mem _ _ _ _ _ (Memory.writeBytes_wf _ _)).trans
    ((State.fireLine_moves _ _).trans ((State.wakeJoins_moves _ _ _).trans (State.touchHeld_moves _ _))))

theorem State.loadCached_moves {s t : State} {site prio pa n : Nat} {bs : List Byte}
    (h : s.loadCached site prio pa n = .ok bs t) : CacheMoves s t := by
  have fill : ∀ b : Bool, CacheMoves s (if b then s.allocLine site (pa / 256) prio else s.fillSector site (pa / 256) prio (pa % 256 / 32)) := by
    intro b
    split
    · exact State.allocLine_moves s _ _ _
    · exact State.fillSector_moves s _ _ _ _
  have read : ∀ (b : Bool) (u : State), CacheMoves s u → (match (u.col site).line (pa / 256) with
      | none => .stall
      | some l => if l.badAt (pa % 256 / 32) then .fault (Flt.ecc 4 false) else .ok (l.data.readBytes (pa % 256) n) u :
      Res (List Byte)) = .ok bs t → CacheMoves s t := by
    intro b u hu h
    split at h
    · cases h
    · split at h
      · cases h
      · obtain ⟨-, rfl⟩ := Res.ok.inj h
        exact hu
  have key : ∀ b : Bool, (if (!b && (s.homeReady pa (some site)).homeBad (32 * (pa / 32)) 32) = true then .fault (Flt.ecc 2 false) else
      let u := if b then s.allocLine site (pa / 256) prio else s.fillSector site (pa / 256) prio (pa % 256 / 32)
      match (u.col site).line (pa / 256) with
      | none => .stall
      | some l => if l.badAt (pa % 256 / 32) then .fault (Flt.ecc 4 false) else .ok (l.data.readBytes (pa % 256) n) u :
      Res (List Byte)) = .ok bs t → CacheMoves s t := by
    intro b h
    split at h
    · cases h
    · have hm := fill b
      revert h hm
      generalize (if b then s.allocLine site (pa / 256) prio else s.fillSector site (pa / 256) prio (pa % 256 / 32)) = u
      intro h hm
      exact read b u hm h
  unfold State.loadCached at h
  exact key _ h

theorem State.loadHome_moves {s t : State} {site pa n : Nat} {k : Keep} {bs : List Byte}
    (h : s.loadHome site pa n k = .ok bs t) : CacheMoves s t := by
  unfold State.loadHome at h
  dsimp only at h
  split at h
  · cases h
  · obtain ⟨-, rfl⟩ := Res.ok.inj h
    exact (State.flushLine_moves s _ _).trans ((State.homeReady_moves _ _ _).trans ((State.touchSpan_moves _ _ _).trans
      (State.keepLine_moves _ _ _)))

theorem State.translate_moves {s t : State} {w : Who} {write : Bool} {va : DWord} {x : Nat × Attr}
    (h : s.translate w write va = .ok x t) : CacheMoves s t := by
  have use : ∀ (e : TlbEntry) (u : State), (if ((write && !e.attr.w) || (e.attr.sup && !w.sup)) = true then .fault (Flt.page 2 va write)
      else .ok (e.frame + va48 va % 2 ^ e.lg, e.attr) u : Res (Nat × Attr)) = .ok x t → t = u := by
    intro e u h
    split at h
    · cases h
    · exact (Res.ok.inj h).2.symm
  unfold State.translate at h
  dsimp only at h
  split at h
  · cases h
  · split at h
    · rw [use _ _ h]; exact .refl s
    · split at h
      · cases h
      · split at h
        · split at h <;> cases h
        · split at h
          · cases h
          · rw [use _ _ h]; exact .of_col _ _ rfl

theorem State.spanCheck_moves {s t : State} {w : Who} {l : Loc} {write : Bool} {x : Unit}
    (h : s.spanCheck w l write = .ok x t) : CacheMoves s t := by
  unfold State.spanCheck at h
  cases l with
  | spanScratch o =>
    have key : ∀ (ways : Nat) (growing : Bool), (if (!s.spanOf (spanOfSite w.site) w.t) = true then .fault ⟨0x06, 0, 0, write, 0⟩
        else if o < ways * 2 ^ 20 then
          (if bit (s.span (spanOfSite w.site)).waking (15 - o / 2 ^ 20) = true then .stall else .ok () s)
        else if growing = true then .stall else .fault ⟨0x06, 0, 0, write, 0⟩ : Res Unit) = .ok x t → CacheMoves s t := by
      intro ways growing h
      split at h
      · cases h
      · split at h
        · split at h
          · cases h
          · obtain ⟨-, rfl⟩ := Res.ok.inj h
            exact .refl _
        · split at h <;> cases h
    exact key _ _ h
  | _ => obtain ⟨-, rfl⟩ := Res.ok.inj h; exact .refl _

theorem State.check_moves {s t : State} {w : Who} {use : Use} {va : DWord} {al : Nat} {x : Loc × Attr}
    (h : s.check w use va al = .ok x t) : CacheMoves s t := by
  unfold State.check at h
  split at h
  · cases h
  · refine CacheMoves.bind (fun a u e => State.translate_moves e) (fun a u _ e => ?_) h
    dsimp only at e
    split at e
    · cases e
    · split at e
      · cases e
      · exact CacheMoves.bind (fun a u e => State.spanCheck_moves e) (fun a u _ e => by cases e; exact .refl _) e

theorem State.access_moves {s t : State} {w : Who} {use : Use} {va : DWord} {al : Nat} {x : Loc × Attr}
    (h : s.access w use va al = .ok x t) : CacheMoves s t := by
  unfold State.access at h
  refine CacheMoves.bind (fun a u e => State.check_moves e) (fun a u _ e => ?_) h
  dsimp only at e
  split at e
  · split at e
    · cases e
    · cases e; exact .refl _
  · cases e; exact .refl _

end Sys2Proof.Machine
end

