-- ==== Sys2Proof/Laws/Ops.lean ====
section
/-! SUPPORT. What the shared operations over registers, rows, slots and faults can do, said once for each. -/

namespace Sys2Proof.Machine

/-! ## Registers (R85, R86) -/

@[simp] theorem Row.wg_zero (r : Row) (v : DWord) : r.wg 0 v = r := rfl
@[simp] theorem Row.wp_zero (r : Row) (b : Bool) : r.wp 0 b = r := rfl
@[simp] theorem Row.wv_zero (r : Row) (v : VWord) : r.wv 0 v = r := rfl

/-- A g register other than g0 reads what was written last. -/
theorem Row.rg_wg_same (r : Row) {n : BitVec 6} (v : DWord) (h : n ≠ 0) : (r.wg n v).rg n = v := by
  have e : (n == 0) = false := by simpa using h
  simp only [Row.rg, Row.wg, Row.graw, e, Bool.false_eq_true, if_false]
  exact Vector.getElem_set_self _

/-- A write of one g register leaves the others alone. -/
theorem Row.rg_wg_other (r : Row) {n m : BitVec 6} (v : DWord) (h : m ≠ n) : (r.wg n v).rg m = r.rg m := by
  have e : n.toNat ≠ m.toNat := fun e => h (BitVec.eq_of_toNat_eq e.symm)
  unfold Row.wg Row.rg
  split
  · rfl
  · simp only [Row.graw]
    split
    · rfl
    · exact Vector.getElem_set_ne n.isLt m.isLt e

/-- A write of a g register changes nothing but the registers. -/
theorem Row.wg_rest (r : Row) (n : BitVec 6) (v : DWord) : { r.wg n v with g := r.g } = r := by
  unfold Row.wg; split <;> rfl

/-- A write of a v register changes nothing but the registers. -/
theorem Row.wv_rest (r : Row) (n : BitVec 5) (v : VWord) : { r.wv n v with g := r.g } = r := by
  unfold Row.wv
  split
  · rfl
  · have h := Row.wg_rest (r.wg (vLow n) (bits v 0 64)) (vHigh n) (bits v 64 64)
    have h' := Row.wg_rest r (vLow n) (bits v 0 64)
    rw [← h] at h'
    exact h'

/-- A predicate other than p0 reads what was written last, and the others are as they were. -/
theorem Row.rp_wp (r : Row) (b : Bool) : ∀ n m : BitVec 3, n ≠ 0 → (r.wp n b).rp m = if m = n then b else r.rp m := by
  have key : ∀ (x : BitVec 8) (b : Bool) (n m : BitVec 3), n ≠ 0 →
      (m == 0 || bit (setBit x n.toNat b) m.toNat) = if m = n then b else (m == 0 || bit x m.toNat) := by
    decide +kernel
  intro n m h
  have e : (n == 0) = false := by simpa using h
  simp only [Row.rp, Row.wp, e]
  exact key r.pred b n m h

/-! ## The ends of a group -/

theorem State.goto_only (s : State) (pc : BitVec 32) : { (s.goto pc).setMe s.me with run := s.run, rows := s.rows } = s := rfl

@[simp] theorem State.goto_me (s : State) (pc : BitVec 32) : (s.goto pc).me = { s.me with pc := pc &&& ~~~3#32, inGroup := false } := by
  simp [State.me, State.goto, State.setMe, State.row, State.setRow]

@[simp] theorem State.ends_ok {α : Type} (s t : State) (v : α) (f : α → State → State) : s.ends (.ok v t) f = f v t := rfl
@[simp] theorem State.ends_fault {α : Type} (s : State) (e : Flt) (f : α → State → State) : s.ends (.fault e) f = s.raise e := rfl
@[simp] theorem State.ends_stall {α : Type} (s : State) (f : α → State → State) : s.ends .stall f = s.abandonGroup := rfl

/-! ## Rows and slots (R245, R250) -/

theorem OnlyRowAt.setRow (s : State) (k : RowKey) (r : Row) : OnlyRowAt s (s.setRow k r) k r :=
  ⟨State.row_setRow_same s k r, fun _ h => State.row_setRow_other s r h, rfl⟩

/-- A row that becomes READY changes in its state and its readiness time, and nothing else changes (R245, R250). -/
theorem State.makeReady_only (s : State) (k : RowKey) :
    OnlyRowAt s (s.makeReady k) k { s.row k with st := .ready, readyAt := s.time } := .setRow s k _

/-- A wake-up readies a waiting row and leaves every other row alone (R245). -/
theorem State.wakeRow_cases (s : State) (k : RowKey) :
    ((s.row k).st = .waiting ∧ s.wakeRow k = s.makeReady k) ∨ ((s.row k).st ≠ .waiting ∧ s.wakeRow k = s) := by
  unfold State.wakeRow
  split
  · rename_i h; exact .inl ⟨by simpa using h, rfl⟩
  · rename_i h; exact .inr ⟨by simpa using h, rfl⟩

/-- From s to t at most the slots and bind records of executors have changed. -/
structure SlotsOnly (s t : State) : Prop where
  rest : { t with cols := s.cols } = s
  col : ∀ i, { t.col i with execs := (s.col i).execs } = s.col i

theorem SlotsOnly.refl (s : State) : SlotsOnly s s := ⟨rfl, fun _ => rfl⟩

theorem SlotsOnly.trans {s t u : State} (a : SlotsOnly s t) (b : SlotsOnly t u) : SlotsOnly s u where
  rest := by
    have := a.rest; rw [← b.rest] at this; exact this
  col i := by
    have := a.col i; rw [← b.col i] at this; exact this

theorem State.setExecutor_slots (s : State) (site : Nat) (b : BitVec 3) (e : Exec) : SlotsOnly s (s.setExecutor site b e) where
  rest := rfl
  col i := by
    unfold State.setExecutor
    by_cases e : i = site
    · subst e; dsimp only; rw [State.col_setCol_same]
    · dsimp only; rw [State.col_setCol_other _ _ e]

theorem State.modSlot_slots (s : State) (k : RowKey) (f : Slot → Slot) : SlotsOnly s (s.modSlot k f) := by
  unfold State.modSlot
  dsimp only
  split
  · exact .refl s
  · split
    · exact .refl s
    · exact State.setExecutor_slots _ _ _ _

/-- The beginning of a close changes slots only (R245). -/
theorem State.beginClose_slots (s : State) (k : RowKey) : SlotsOnly s (s.beginClose k) := State.modSlot_slots s k _

theorem State.countBound_slots (s : State) (k : RowKey) (up : Bool) : SlotsOnly s (s.countBound k up) := by
  unfold State.countBound State.countBoundOf
  dsimp only
  split
  · exact .refl s
  · exact State.setExecutor_slots _ _ _ _

/-- The beginning of a quantum, its gang's with it, changes slots and bind records only (R252, R256). -/
theorem State.startQuantum_slots (s : State) (site : BitVec 10) (bank : BitVec 3) (k : RowKey) : SlotsOnly s (s.startQuantum site bank k) := by
  unfold State.startQuantum
  dsimp only
  split
  · split
    · exact State.setExecutor_slots _ _ _ _
    · exact .refl s
  · exact .refl s

theorem State.restartQuantum_slots (s : State) (site : BitVec 10) (bank : BitVec 3) (l : List (BitVec 3)) (k : RowKey) :
    SlotsOnly s (s.restartQuantum site bank l k) := State.setExecutor_slots _ _ _ _

theorem SlotsOnly.row {s t : State} (h : SlotsOnly s t) (k : RowKey) : t.row k = s.row k := by
  have e : t.rows = s.rows := (congrArg State.rows h.rest :)
  simp only [State.row, e]

/-- A row that waits has its state and WAITON changed and PC on its group; its close begins, and the hints are gone (R245). -/
theorem State.waitRow_me (s : State) (r : Row) (on : BitVec 32) :
    (s.waitRow r on).row s.cur = { r with st := .waiting, waiton := on } := by
  unfold State.waitRow State.dropRun
  exact (SlotsOnly.row (State.beginClose_slots (s.setMe { r with st := .waiting, waiton := on }) s.cur) s.cur).trans
    (State.row_setRow_same s s.cur _)

/-! ## Commands (R90) -/

/-- A command to a row that moves is held (R258). -/
theorem State.command_moving {s : State} {k : RowKey} (c : Cmd) (h : (s.row k).st = .moving) :
    s.command k c = s.setRow k { s.row k with held := (s.row k).held ++ [c] } := by
  unfold State.command
  dsimp only
  split <;> simp_all

/-- KILL of a row that has not begun, or has ended, comes to nothing (R90). -/
theorem State.kill_idle {s : State} {k : RowKey} (h : (s.row k).st = .free ∨ (s.row k).st = .retired) : s.command k .kill = s := by
  unfold State.command
  dsimp only
  split <;> simp_all

/-! ## Faults (R263) -/

/-- Everything that taking a fault can come to: the record store is waited for and the group left as it was; the fault is
posted, its record stored or not; or it is trapped in the row, its record stored. -/
theorem State.takeFault_cases (s : State) (k : RowKey) (i : FaultInfo) :
    s.takeFault k i = s.abandonGroup ∨
    (∃ bs, s.takeFault k i = (s.postFault k i bs).dropRun) ∨
    (∃ (t : State) (bs : List Byte), s.posts k i = true ∧ s.takeFault k i = (t.postFault k i bs).dropRun) ∨
    (∃ t : State, s.posts k i = false ∧ s.takeFault k i = (t.setRow k ((t.row k).trap i ((s.ten k.t).vector i.code))).dropRun) := by
  unfold State.takeFault State.takeFault?
  dsimp only
  split
  · exact .inl rfl
  · exact .inr (.inl ⟨_, rfl⟩)
  · rename_i t _
    split
    · rename_i h; exact .inr (.inr (.inl ⟨t, _, h, rfl⟩))
    · rename_i h; exact .inr (.inr (.inr ⟨t, by simpa using h, rfl⟩))

/-- A posted fault leaves the row FAULTED with PC on CPC (R263). -/
theorem State.postFault_row (s : State) (k : RowKey) (i : FaultInfo) (rec : List Byte) :
    ((s.postFault k i rec).row k).st = .faulted ∧ ((s.postFault k i rec).row k).pc = i.cpc &&& ~~~3#32 := by
  unfold State.postFault State.fieldEvent State.abandonPlaces
  dsimp only
  constructor
  · exact congrArg Row.st (State.row_setRow_same _ k _)
  · exact congrArg Row.pc (State.row_setRow_same _ k _)

/-- A trap is taken with CTL.PRIV unchanged (R263). -/
theorem Row.trap_priv (r : Row) (i : FaultInfo) (vec : BitVec 32) : (r.trap i vec).priv = r.priv := rfl

/-! ## Waiting for a page walk (R178) -/

/-- An access that waits for a walk changes its span's walks and their queue only. -/
theorem State.waitWalk_only (s : State) (w : Who) (va : Nat) : ∃ walks queue,
    s.waitWalk w va = s.setSpan (spanOfSite w.site) { s.span (spanOfSite w.site) with walks := walks, walkq := queue } ∨ s.waitWalk w va = s := by
  unfold State.waitWalk
  dsimp only
  split
  · exact ⟨[], [], .inr rfl⟩
  · split
    · split
      · exact ⟨[], [], .inr rfl⟩
      · exact ⟨_, _, .inl rfl⟩
    · split
      · exact ⟨_, _, .inl rfl⟩
      · exact ⟨[], [], .inr rfl⟩

/-- What has its answer leaves the queue of its span only. -/
theorem State.leaveQueue_only (s : State) (w : Who) : ∃ queue,
    s.leaveQueue w = s.setSpan (spanOfSite w.site) { s.span (spanOfSite w.site) with walkq := queue } ∨ s.leaveQueue w = s := by
  unfold State.leaveQueue
  dsimp only
  split
  · exact ⟨[], .inr rfl⟩
  · split
    · exact ⟨_, .inl rfl⟩
    · exact ⟨[], .inr rfl⟩

theorem State.waitWalk_rows (s : State) (w : Who) (va : Nat) : (s.waitWalk w va).rows = s.rows := by
  obtain ⟨_, _, h | h⟩ := s.waitWalk_only w va
  · rw [h]; rfl
  · rw [h]

/-! ## Checks of an access (R301) -/

/-- A check that passes found the address aligned. -/
theorem State.check_aligned {s t : State} {w : Who} {use : Use} {va : DWord} {al : Nat} {x : Loc × Attr}
    (h : s.check w use va al = .ok x t) : aligned va.toNat al = true := by
  unfold State.check at h
  split at h
  · cases h
  · rename_i e; simpa using e

end Sys2Proof.Machine
end

