-- ==== Sys2Proof/Laws/PerInstr.lean ====
section
/-! SUPPORT. One law for each instruction: where a word has a guard, its encoding holds it in bits [2:0] (R47). -/

namespace Sys2Proof.Laws

/-- Bits of a word that a part places above do not see that part. -/
theorem bits_low (a : Word) {n lo k : Nat} (v : BitVec n) (h : k ≤ lo) : bits (a ||| place lo v) 0 k = bits a 0 k := by
  apply BitVec.eq_of_getLsbD_eq
  intro i hi
  simp [bits, place, hi, Nat.lt_of_lt_of_le hi h]

/-- The guard stands in the low bits. -/
theorem bits_guard (a : Word) (p : BitVec 3) (h : bits a 0 3 = 0) : bits (a ||| place 0 p) 0 3 = p := by
  apply BitVec.eq_of_getLsbD_eq
  intro i hi
  have e : a.getLsbD i = false := by
    have := congrArg (fun x => x.getLsbD i) h
    simpa [bits, BitVec.getLsbD_extractLsb', hi] using this
  have : i < 32 := by omega
  simp only [bits, place, BitVec.getLsbD_extractLsb', hi, BitVec.getLsbD_or, Nat.zero_add, e, BitVec.shiftLeft_zero,
    BitVec.getLsbD_setWidth, this, decide_true, Bool.true_and, Bool.false_or]

/-- The guard of an instruction is what bits [2:0] of its encoding hold (R47). -/
def Guard.Statement (i : Instr) : Prop := ∀ p, i.isWord = true → Machine.guardOf i = some p → bits (encode i) 0 3 = p

theorem Guard.cachex e v w l : Guard.Statement (.cachex e v w l) := nofun
theorem Guard.scopex g : Guard.Statement (.scopex g) := nofun
theorem Guard.prefx o c g : Guard.Statement (.prefx o c g) := nofun
theorem Guard.ignoredHint k x : Guard.Statement (.ignoredHint k x) := nofun
theorem Guard.addD d a b p : Guard.Statement (.addD d a b p) := by
  rintro _ - ⟨⟩; exact bits_guard _ _ (by rw [bits_low _ _ (by decide), bits_low _ _ (by decide), bits_low _ _ (by decide)]; rfl)
theorem Guard.addW d a b p : Guard.Statement (.addW d a b p) := by
  rintro _ - ⟨⟩; exact bits_guard _ _ (by rw [bits_low _ _ (by decide), bits_low _ _ (by decide), bits_low _ _ (by decide)]; rfl)
theorem Guard.subD d a b p : Guard.Statement (.subD d a b p) := by
  rintro _ - ⟨⟩; exact bits_guard _ _ (by rw [bits_low _ _ (by decide), bits_low _ _ (by decide), bits_low _ _ (by decide)]; rfl)
theorem Guard.subW d a b p : Guard.Statement (.subW d a b p) := by
  rintro _ - ⟨⟩; exact bits_guard _ _ (by rw [bits_low _ _ (by decide), bits_low _ _ (by decide), bits_low _ _ (by decide)]; rfl)
theorem Guard.mulD d a b p : Guard.Statement (.mulD d a b p) := by
  rintro _ - ⟨⟩; exact bits_guard _ _ (by rw [bits_low _ _ (by decide), bits_low _ _ (by decide), bits_low _ _ (by decide)]; rfl)
theorem Guard.mulW d a b p : Guard.Statement (.mulW d a b p) := by
  rintro _ - ⟨⟩; exact bits_guard _ _ (by rw [bits_low _ _ (by decide), bits_low _ _ (by decide), bits_low _ _ (by decide)]; rfl)
theorem Guard.mulh d a b p : Guard.Statement (.mulh d a b p) := by
  rintro _ - ⟨⟩; exact bits_guard _ _ (by rw [bits_low _ _ (by decide), bits_low _ _ (by decide), bits_low _ _ (by decide)]; rfl)
theorem Guard.mulhn d a b p : Guard.Statement (.mulhn d a b p) := by
  rintro _ - ⟨⟩; exact bits_guard _ _ (by rw [bits_low _ _ (by decide), bits_low _ _ (by decide), bits_low _ _ (by decide)]; rfl)
theorem Guard.divD d a b p : Guard.Statement (.divD d a b p) := by
  rintro _ - ⟨⟩; exact bits_guard _ _ (by rw [bits_low _ _ (by decide), bits_low _ _ (by decide), bits_low _ _ (by decide)]; rfl)
theorem Guard.divW d a b p : Guard.Statement (.divW d a b p) := by
  rintro _ - ⟨⟩; exact bits_guard _ _ (by rw [bits_low _ _ (by decide), bits_low _ _ (by decide), bits_low _ _ (by decide)]; rfl)
theorem Guard.divnD d a b p : Guard.Statement (.divnD d a b p) := by
  rintro _ - ⟨⟩; exact bits_guard _ _ (by rw [bits_low _ _ (by decide), bits_low _ _ (by decide), bits_low _ _ (by decide)]; rfl)
theorem Guard.divnW d a b p : Guard.Statement (.divnW d a b p) := by
  rintro _ - ⟨⟩; exact bits_guard _ _ (by rw [bits_low _ _ (by decide), bits_low _ _ (by decide), bits_low _ _ (by decide)]; rfl)
theorem Guard.remD d a b p : Guard.Statement (.remD d a b p) := by
  rintro _ - ⟨⟩; exact bits_guard _ _ (by rw [bits_low _ _ (by decide), bits_low _ _ (by decide), bits_low _ _ (by decide)]; rfl)
theorem Guard.remW d a b p : Guard.Statement (.remW d a b p) := by
  rintro _ - ⟨⟩; exact bits_guard _ _ (by rw [bits_low _ _ (by decide), bits_low _ _ (by decide), bits_low _ _ (by decide)]; rfl)
theorem Guard.remnD d a b p : Guard.Statement (.remnD d a b p) := by
  rintro _ - ⟨⟩; exact bits_guard _ _ (by rw [bits_low _ _ (by decide), bits_low _ _ (by decide), bits_low _ _ (by decide)]; rfl)
theorem Guard.remnW d a b p : Guard.Statement (.remnW d a b p) := by
  rintro _ - ⟨⟩; exact bits_guard _ _ (by rw [bits_low _ _ (by decide), bits_low _ _ (by decide), bits_low _ _ (by decide)]; rfl)
theorem Guard.min d a b p : Guard.Statement (.min d a b p) := by
  rintro _ - ⟨⟩; exact bits_guard _ _ (by rw [bits_low _ _ (by decide), bits_low _ _ (by decide), bits_low _ _ (by decide)]; rfl)
theorem Guard.max d a b p : Guard.Statement (.max d a b p) := by
  rintro _ - ⟨⟩; exact bits_guard _ _ (by rw [bits_low _ _ (by decide), bits_low _ _ (by decide), bits_low _ _ (by decide)]; rfl)
theorem Guard.minn d a b p : Guard.Statement (.minn d a b p) := by
  rintro _ - ⟨⟩; exact bits_guard _ _ (by rw [bits_low _ _ (by decide), bits_low _ _ (by decide), bits_low _ _ (by decide)]; rfl)
theorem Guard.maxn d a b p : Guard.Statement (.maxn d a b p) := by
  rintro _ - ⟨⟩; exact bits_guard _ _ (by rw [bits_low _ _ (by decide), bits_low _ _ (by decide), bits_low _ _ (by decide)]; rfl)
theorem Guard.and d a b p : Guard.Statement (.and d a b p) := by
  rintro _ - ⟨⟩; exact bits_guard _ _ (by rw [bits_low _ _ (by decide), bits_low _ _ (by decide), bits_low _ _ (by decide)]; rfl)
theorem Guard.or d a b p : Guard.Statement (.or d a b p) := by
  rintro _ - ⟨⟩; exact bits_guard _ _ (by rw [bits_low _ _ (by decide), bits_low _ _ (by decide), bits_low _ _ (by decide)]; rfl)
theorem Guard.xor d a b p : Guard.Statement (.xor d a b p) := by
  rintro _ - ⟨⟩; exact bits_guard _ _ (by rw [bits_low _ _ (by decide), bits_low _ _ (by decide), bits_low _ _ (by decide)]; rfl)
theorem Guard.andn d a b p : Guard.Statement (.andn d a b p) := by
  rintro _ - ⟨⟩; exact bits_guard _ _ (by rw [bits_low _ _ (by decide), bits_low _ _ (by decide), bits_low _ _ (by decide)]; rfl)
theorem Guard.shl d a b p : Guard.Statement (.shl d a b p) := by
  rintro _ - ⟨⟩; exact bits_guard _ _ (by rw [bits_low _ _ (by decide), bits_low _ _ (by decide), bits_low _ _ (by decide)]; rfl)
theorem Guard.shr d a b p : Guard.Statement (.shr d a b p) := by
  rintro _ - ⟨⟩; exact bits_guard _ _ (by rw [bits_low _ _ (by decide), bits_low _ _ (by decide), bits_low _ _ (by decide)]; rfl)
theorem Guard.sra d a b p : Guard.Statement (.sra d a b p) := by
  rintro _ - ⟨⟩; exact bits_guard _ _ (by rw [bits_low _ _ (by decide), bits_low _ _ (by decide), bits_low _ _ (by decide)]; rfl)
theorem Guard.rot d a b p : Guard.Statement (.rot d a b p) := by
  rintro _ - ⟨⟩; exact bits_guard _ _ (by rw [bits_low _ _ (by decide), bits_low _ _ (by decide), bits_low _ _ (by decide)]; rfl)
theorem Guard.bext d a b p : Guard.Statement (.bext d a b p) := by
  rintro _ - ⟨⟩; exact bits_guard _ _ (by rw [bits_low _ _ (by decide), bits_low _ _ (by decide), bits_low _ _ (by decide)]; rfl)
theorem Guard.bins d a b p : Guard.Statement (.bins d a b p) := by
  rintro _ - ⟨⟩; exact bits_guard _ _ (by rw [bits_low _ _ (by decide), bits_low _ _ (by decide), bits_low _ _ (by decide)]; rfl)
theorem Guard.sel d a b p : Guard.Statement (.sel d a b p) := by
  rintro _ - ⟨⟩; exact bits_guard _ _ (by rw [bits_low _ _ (by decide), bits_low _ _ (by decide), bits_low _ _ (by decide)]; rfl)
theorem Guard.absD d a p : Guard.Statement (.absD d a p) := by
  rintro _ - ⟨⟩; exact bits_guard _ _ (by rw [bits_low _ _ (by decide), bits_low _ _ (by decide)]; rfl)
theorem Guard.absW d a p : Guard.Statement (.absW d a p) := by
  rintro _ - ⟨⟩; exact bits_guard _ _ (by rw [bits_low _ _ (by decide), bits_low _ _ (by decide)]; rfl)
theorem Guard.clzD d a p : Guard.Statement (.clzD d a p) := by
  rintro _ - ⟨⟩; exact bits_guard _ _ (by rw [bits_low _ _ (by decide), bits_low _ _ (by decide)]; rfl)
theorem Guard.clzW d a p : Guard.Statement (.clzW d a p) := by
  rintro _ - ⟨⟩; exact bits_guard _ _ (by rw [bits_low _ _ (by decide), bits_low _ _ (by decide)]; rfl)
theorem Guard.popcD d a p : Guard.Statement (.popcD d a p) := by
  rintro _ - ⟨⟩; exact bits_guard _ _ (by rw [bits_low _ _ (by decide), bits_low _ _ (by decide)]; rfl)
theorem Guard.popcW d a p : Guard.Statement (.popcW d a p) := by
  rintro _ - ⟨⟩; exact bits_guard _ _ (by rw [bits_low _ _ (by decide), bits_low _ _ (by decide)]; rfl)
theorem Guard.addi d a im p : Guard.Statement (.addi d a im p) := by
  rintro _ - ⟨⟩; exact bits_guard _ _ (by rw [bits_low _ _ (by decide), bits_low _ _ (by decide), bits_low _ _ (by decide)]; rfl)
theorem Guard.andi d a im p : Guard.Statement (.andi d a im p) := by
  rintro _ - ⟨⟩; exact bits_guard _ _ (by rw [bits_low _ _ (by decide), bits_low _ _ (by decide), bits_low _ _ (by decide)]; rfl)
theorem Guard.ori d a im p : Guard.Statement (.ori d a im p) := by
  rintro _ - ⟨⟩; exact bits_guard _ _ (by rw [bits_low _ _ (by decide), bits_low _ _ (by decide), bits_low _ _ (by decide)]; rfl)
theorem Guard.xori d a im p : Guard.Statement (.xori d a im p) := by
  rintro _ - ⟨⟩; exact bits_guard _ _ (by rw [bits_low _ _ (by decide), bits_low _ _ (by decide), bits_low _ _ (by decide)]; rfl)
theorem Guard.shli d a w c p : Guard.Statement (.shli d a w c p) := by
  rintro _ - ⟨⟩; exact bits_guard _ _ (by rw [bits_low _ _ (by decide), bits_low _ _ (by decide), bits_low _ _ (by decide), bits_low _ _ (by decide)]; rfl)
theorem Guard.shri d a w c p : Guard.Statement (.shri d a w c p) := by
  rintro _ - ⟨⟩; exact bits_guard _ _ (by rw [bits_low _ _ (by decide), bits_low _ _ (by decide), bits_low _ _ (by decide), bits_low _ _ (by decide)]; rfl)
theorem Guard.srai d a w c p : Guard.Statement (.srai d a w c p) := by
  rintro _ - ⟨⟩; exact bits_guard _ _ (by rw [bits_low _ _ (by decide), bits_low _ _ (by decide), bits_low _ _ (by decide), bits_low _ _ (by decide)]; rfl)
theorem Guard.roti d a w c p : Guard.Statement (.roti d a w c p) := by
  rintro _ - ⟨⟩; exact bits_guard _ _ (by rw [bits_low _ _ (by decide), bits_low _ _ (by decide), bits_low _ _ (by decide), bits_low _ _ (by decide)]; rfl)
theorem Guard.cmp d c a b w p : Guard.Statement (.cmp d c a b w p) := by
  rintro _ - ⟨⟩; exact bits_guard _ _ (by rw [bits_low _ _ (by decide), bits_low _ _ (by decide), bits_low _ _ (by decide), bits_low _ _ (by decide), bits_low _ _ (by decide)]; rfl)
theorem Guard.cmpi d c a im p : Guard.Statement (.cmpi d c a im p) := by
  rintro _ - ⟨⟩; exact bits_guard _ _ (by rw [bits_low _ _ (by decide), bits_low _ _ (by decide), bits_low _ _ (by decide), bits_low _ _ (by decide)]; rfl)
theorem Guard.pand d a b p : Guard.Statement (.pand d a b p) := by
  rintro _ - ⟨⟩; exact bits_guard _ _ (by rw [bits_low _ _ (by decide), bits_low _ _ (by decide), bits_low _ _ (by decide)]; rfl)
theorem Guard.por d a b p : Guard.Statement (.por d a b p) := by
  rintro _ - ⟨⟩; exact bits_guard _ _ (by rw [bits_low _ _ (by decide), bits_low _ _ (by decide), bits_low _ _ (by decide)]; rfl)
theorem Guard.pxor d a b p : Guard.Statement (.pxor d a b p) := by
  rintro _ - ⟨⟩; exact bits_guard _ _ (by rw [bits_low _ _ (by decide), bits_low _ _ (by decide), bits_low _ _ (by decide)]; rfl)
theorem Guard.pnot d a p : Guard.Statement (.pnot d a p) := by
  rintro _ - ⟨⟩; exact bits_guard _ _ (by rw [bits_low _ _ (by decide), bits_low _ _ (by decide)]; rfl)
theorem Guard.pmov d a p : Guard.Statement (.pmov d a p) := by
  rintro _ - ⟨⟩; exact bits_guard _ _ (by rw [bits_low _ _ (by decide), bits_low _ _ (by decide)]; rfl)
theorem Guard.movi d im p : Guard.Statement (.movi d im p) := by
  rintro _ - ⟨⟩; exact bits_guard _ _ (by rw [bits_low _ _ (by decide), bits_low _ _ (by decide)]; rfl)
theorem Guard.br g d : Guard.Statement (.br g d) := nofun
theorem Guard.brn g d : Guard.Statement (.brn g d) := nofun
theorem Guard.call g d : Guard.Statement (.call g d) := nofun
theorem Guard.calln g d : Guard.Statement (.calln g d) := nofun
theorem Guard.jr d a p : Guard.Statement (.jr d a p) := by
  rintro _ - ⟨⟩; exact bits_guard _ _ (by rw [bits_low _ _ (by decide), bits_low _ _ (by decide)]; rfl)
theorem Guard.ret p : Guard.Statement (.ret p) := by
  rintro _ - ⟨⟩; exact bits_guard _ _ rfl
theorem Guard.loop c im p : Guard.Statement (.loop c im p) := by
  rintro _ - ⟨⟩; exact bits_guard _ _ (by rw [bits_low _ _ (by decide), bits_low _ _ (by decide)]; rfl)
theorem Guard.ldb t a im p : Guard.Statement (.ldb t a im p) := by
  rintro _ - ⟨⟩; exact bits_guard _ _ (by rw [bits_low _ _ (by decide), bits_low _ _ (by decide), bits_low _ _ (by decide)]; rfl)
theorem Guard.ldh t a im p : Guard.Statement (.ldh t a im p) := by
  rintro _ - ⟨⟩; exact bits_guard _ _ (by rw [bits_low _ _ (by decide), bits_low _ _ (by decide), bits_low _ _ (by decide)]; rfl)
theorem Guard.ldw t a im p : Guard.Statement (.ldw t a im p) := by
  rintro _ - ⟨⟩; exact bits_guard _ _ (by rw [bits_low _ _ (by decide), bits_low _ _ (by decide), bits_low _ _ (by decide)]; rfl)
theorem Guard.ldd t a im p : Guard.Statement (.ldd t a im p) := by
  rintro _ - ⟨⟩; exact bits_guard _ _ (by rw [bits_low _ _ (by decide), bits_low _ _ (by decide), bits_low _ _ (by decide)]; rfl)
theorem Guard.stb t a im p : Guard.Statement (.stb t a im p) := by
  rintro _ - ⟨⟩; exact bits_guard _ _ (by rw [bits_low _ _ (by decide), bits_low _ _ (by decide), bits_low _ _ (by decide)]; rfl)
theorem Guard.sth t a im p : Guard.Statement (.sth t a im p) := by
  rintro _ - ⟨⟩; exact bits_guard _ _ (by rw [bits_low _ _ (by decide), bits_low _ _ (by decide), bits_low _ _ (by decide)]; rfl)
theorem Guard.stw t a im p : Guard.Statement (.stw t a im p) := by
  rintro _ - ⟨⟩; exact bits_guard _ _ (by rw [bits_low _ _ (by decide), bits_low _ _ (by decide), bits_low _ _ (by decide)]; rfl)
theorem Guard.std t a im p : Guard.Statement (.std t a im p) := by
  rintro _ - ⟨⟩; exact bits_guard _ _ (by rw [bits_low _ _ (by decide), bits_low _ _ (by decide), bits_low _ _ (by decide)]; rfl)
theorem Guard.ldv t a im p : Guard.Statement (.ldv t a im p) := by
  rintro _ - ⟨⟩; exact bits_guard _ _ (by rw [bits_low _ _ (by decide), bits_low _ _ (by decide), bits_low _ _ (by decide)]; rfl)
theorem Guard.stv t a im p : Guard.Statement (.stv t a im p) := by
  rintro _ - ⟨⟩; exact bits_guard _ _ (by rw [bits_low _ _ (by decide), bits_low _ _ (by decide), bits_low _ _ (by decide)]; rfl)
theorem Guard.ldxH d a v p : Guard.Statement (.ldxH d a v p) := by
  rintro _ - ⟨⟩; exact bits_guard _ _ (by rw [bits_low _ _ (by decide), bits_low _ _ (by decide), bits_low _ _ (by decide)]; rfl)
theorem Guard.ldxW d a v p : Guard.Statement (.ldxW d a v p) := by
  rintro _ - ⟨⟩; exact bits_guard _ _ (by rw [bits_low _ _ (by decide), bits_low _ _ (by decide), bits_low _ _ (by decide)]; rfl)
theorem Guard.ldxD d a v p : Guard.Statement (.ldxD d a v p) := by
  rintro _ - ⟨⟩; exact bits_guard _ _ (by rw [bits_low _ _ (by decide), bits_low _ _ (by decide), bits_low _ _ (by decide)]; rfl)
theorem Guard.stxH g a v p : Guard.Statement (.stxH g a v p) := by
  rintro _ - ⟨⟩; exact bits_guard _ _ (by rw [bits_low _ _ (by decide), bits_low _ _ (by decide), bits_low _ _ (by decide)]; rfl)
theorem Guard.stxW g a v p : Guard.Statement (.stxW g a v p) := by
  rintro _ - ⟨⟩; exact bits_guard _ _ (by rw [bits_low _ _ (by decide), bits_low _ _ (by decide), bits_low _ _ (by decide)]; rfl)
theorem Guard.stxD g a v p : Guard.Statement (.stxD g a v p) := by
  rintro _ - ⟨⟩; exact bits_guard _ _ (by rw [bits_low _ _ (by decide), bits_low _ _ (by decide), bits_low _ _ (by decide)]; rfl)
theorem Guard.ldblk w a n p : Guard.Statement (.ldblk w a n p) := by
  rintro _ - ⟨⟩; exact bits_guard _ _ (by rw [bits_low _ _ (by decide), bits_low _ _ (by decide), bits_low _ _ (by decide)]; rfl)
theorem Guard.stblk w a n p : Guard.Statement (.stblk w a n p) := by
  rintro _ - ⟨⟩; exact bits_guard _ _ (by rw [bits_low _ _ (by decide), bits_low _ _ (by decide), bits_low _ _ (by decide)]; rfl)
theorem Guard.ldbs d a b p : Guard.Statement (.ldbs d a b p) := by
  rintro _ - ⟨⟩; exact bits_guard _ _ (by rw [bits_low _ _ (by decide), bits_low _ _ (by decide), bits_low _ _ (by decide)]; rfl)
theorem Guard.ldhs d a b p : Guard.Statement (.ldhs d a b p) := by
  rintro _ - ⟨⟩; exact bits_guard _ _ (by rw [bits_low _ _ (by decide), bits_low _ _ (by decide), bits_low _ _ (by decide)]; rfl)
theorem Guard.ldws d a b p : Guard.Statement (.ldws d a b p) := by
  rintro _ - ⟨⟩; exact bits_guard _ _ (by rw [bits_low _ _ (by decide), bits_low _ _ (by decide), bits_low _ _ (by decide)]; rfl)
theorem Guard.lwd d o p : Guard.Statement (.lwd d o p) := by
  rintro _ - ⟨⟩; exact bits_guard _ _ (by rw [bits_low _ _ (by decide), bits_low _ _ (by decide)]; rfl)
theorem Guard.swd d o p : Guard.Statement (.swd d o p) := by
  rintro _ - ⟨⟩; exact bits_guard _ _ (by rw [bits_low _ _ (by decide), bits_low _ _ (by decide)]; rfl)
theorem Guard.aadd d a o w p : Guard.Statement (.aadd d a o w p) := by
  rintro _ - ⟨⟩; exact bits_guard _ _ (by rw [bits_low _ _ (by decide), bits_low _ _ (by decide), bits_low _ _ (by decide), bits_low _ _ (by decide)]; rfl)
theorem Guard.amin d a o w p : Guard.Statement (.amin d a o w p) := by
  rintro _ - ⟨⟩; exact bits_guard _ _ (by rw [bits_low _ _ (by decide), bits_low _ _ (by decide), bits_low _ _ (by decide), bits_low _ _ (by decide)]; rfl)
theorem Guard.amax d a o w p : Guard.Statement (.amax d a o w p) := by
  rintro _ - ⟨⟩; exact bits_guard _ _ (by rw [bits_low _ _ (by decide), bits_low _ _ (by decide), bits_low _ _ (by decide), bits_low _ _ (by decide)]; rfl)
theorem Guard.aand d a o w p : Guard.Statement (.aand d a o w p) := by
  rintro _ - ⟨⟩; exact bits_guard _ _ (by rw [bits_low _ _ (by decide), bits_low _ _ (by decide), bits_low _ _ (by decide), bits_low _ _ (by decide)]; rfl)
theorem Guard.aor d a o w p : Guard.Statement (.aor d a o w p) := by
  rintro _ - ⟨⟩; exact bits_guard _ _ (by rw [bits_low _ _ (by decide), bits_low _ _ (by decide), bits_low _ _ (by decide), bits_low _ _ (by decide)]; rfl)
theorem Guard.axor d a o w p : Guard.Statement (.axor d a o w p) := by
  rintro _ - ⟨⟩; exact bits_guard _ _ (by rw [bits_low _ _ (by decide), bits_low _ _ (by decide), bits_low _ _ (by decide), bits_low _ _ (by decide)]; rfl)
theorem Guard.aswap d a o w p : Guard.Statement (.aswap d a o w p) := by
  rintro _ - ⟨⟩; exact bits_guard _ _ (by rw [bits_low _ _ (by decide), bits_low _ _ (by decide), bits_low _ _ (by decide), bits_low _ _ (by decide)]; rfl)
theorem Guard.acas d a o w p : Guard.Statement (.acas d a o w p) := by
  rintro _ - ⟨⟩; exact bits_guard _ _ (by rw [bits_low _ _ (by decide), bits_low _ _ (by decide), bits_low _ _ (by decide), bits_low _ _ (by decide)]; rfl)
theorem Guard.afadd d a o w p : Guard.Statement (.afadd d a o w p) := by
  rintro _ - ⟨⟩; exact bits_guard _ _ (by rw [bits_low _ _ (by decide), bits_low _ _ (by decide), bits_low _ _ (by decide), bits_low _ _ (by decide)]; rfl)
theorem Guard.qadd r a g w p : Guard.Statement (.qadd r a g w p) := by
  rintro _ - ⟨⟩; exact bits_guard _ _ (by rw [bits_low _ _ (by decide), bits_low _ _ (by decide), bits_low _ _ (by decide), bits_low _ _ (by decide)]; rfl)
theorem Guard.qmin r a g w p : Guard.Statement (.qmin r a g w p) := by
  rintro _ - ⟨⟩; exact bits_guard _ _ (by rw [bits_low _ _ (by decide), bits_low _ _ (by decide), bits_low _ _ (by decide), bits_low _ _ (by decide)]; rfl)
theorem Guard.qmax r a g w p : Guard.Statement (.qmax r a g w p) := by
  rintro _ - ⟨⟩; exact bits_guard _ _ (by rw [bits_low _ _ (by decide), bits_low _ _ (by decide), bits_low _ _ (by decide), bits_low _ _ (by decide)]; rfl)
theorem Guard.qand r a g w p : Guard.Statement (.qand r a g w p) := by
  rintro _ - ⟨⟩; exact bits_guard _ _ (by rw [bits_low _ _ (by decide), bits_low _ _ (by decide), bits_low _ _ (by decide), bits_low _ _ (by decide)]; rfl)
theorem Guard.qior r a g w p : Guard.Statement (.qior r a g w p) := by
  rintro _ - ⟨⟩; exact bits_guard _ _ (by rw [bits_low _ _ (by decide), bits_low _ _ (by decide), bits_low _ _ (by decide), bits_low _ _ (by decide)]; rfl)
theorem Guard.qxor r a g w p : Guard.Statement (.qxor r a g w p) := by
  rintro _ - ⟨⟩; exact bits_guard _ _ (by rw [bits_low _ _ (by decide), bits_low _ _ (by decide), bits_low _ _ (by decide), bits_low _ _ (by decide)]; rfl)
theorem Guard.qfadd r a g w p : Guard.Statement (.qfadd r a g w p) := by
  rintro _ - ⟨⟩; exact bits_guard _ _ (by rw [bits_low _ _ (by decide), bits_low _ _ (by decide), bits_low _ _ (by decide), bits_low _ _ (by decide)]; rfl)
theorem Guard.qbf16add r a g p : Guard.Statement (.qbf16add r a g p) := by
  rintro _ - ⟨⟩; exact bits_guard _ _ (by rw [bits_low _ _ (by decide), bits_low _ _ (by decide), bits_low _ _ (by decide)]; rfl)
theorem Guard.qaddx v r a im w p : Guard.Statement (.qaddx v r a im w p) := by
  rintro _ - ⟨⟩; exact bits_guard _ _ (by rw [bits_low _ _ (by decide), bits_low _ _ (by decide), bits_low _ _ (by decide), bits_low _ _ (by decide), bits_low _ _ (by decide)]; rfl)
theorem Guard.qminx v r a im w p : Guard.Statement (.qminx v r a im w p) := by
  rintro _ - ⟨⟩; exact bits_guard _ _ (by rw [bits_low _ _ (by decide), bits_low _ _ (by decide), bits_low _ _ (by decide), bits_low _ _ (by decide), bits_low _ _ (by decide)]; rfl)
theorem Guard.qmaxx v r a im w p : Guard.Statement (.qmaxx v r a im w p) := by
  rintro _ - ⟨⟩; exact bits_guard _ _ (by rw [bits_low _ _ (by decide), bits_low _ _ (by decide), bits_low _ _ (by decide), bits_low _ _ (by decide), bits_low _ _ (by decide)]; rfl)
theorem Guard.qandx v r a im w p : Guard.Statement (.qandx v r a im w p) := by
  rintro _ - ⟨⟩; exact bits_guard _ _ (by rw [bits_low _ _ (by decide), bits_low _ _ (by decide), bits_low _ _ (by decide), bits_low _ _ (by decide), bits_low _ _ (by decide)]; rfl)
theorem Guard.qiorx v r a im w p : Guard.Statement (.qiorx v r a im w p) := by
  rintro _ - ⟨⟩; exact bits_guard _ _ (by rw [bits_low _ _ (by decide), bits_low _ _ (by decide), bits_low _ _ (by decide), bits_low _ _ (by decide), bits_low _ _ (by decide)]; rfl)
theorem Guard.qxorx v r a im w p : Guard.Statement (.qxorx v r a im w p) := by
  rintro _ - ⟨⟩; exact bits_guard _ _ (by rw [bits_low _ _ (by decide), bits_low _ _ (by decide), bits_low _ _ (by decide), bits_low _ _ (by decide), bits_low _ _ (by decide)]; rfl)
theorem Guard.qfaddx v r a im w p : Guard.Statement (.qfaddx v r a im w p) := by
  rintro _ - ⟨⟩; exact bits_guard _ _ (by rw [bits_low _ _ (by decide), bits_low _ _ (by decide), bits_low _ _ (by decide), bits_low _ _ (by decide), bits_low _ _ (by decide)]; rfl)
theorem Guard.qbf16addx v r a im p : Guard.Statement (.qbf16addx v r a im p) := by
  rintro _ - ⟨⟩; exact bits_guard _ _ (by rw [bits_low _ _ (by decide), bits_low _ _ (by decide), bits_low _ _ (by decide), bits_low _ _ (by decide)]; rfl)
theorem Guard.ldfe d a q p : Guard.Statement (.ldfe d a q p) := by
  rintro _ - ⟨⟩; exact bits_guard _ _ (by rw [bits_low _ _ (by decide), bits_low _ _ (by decide), bits_low _ _ (by decide)]; rfl)
theorem Guard.ldf d a q p : Guard.Statement (.ldf d a q p) := by
  rintro _ - ⟨⟩; exact bits_guard _ _ (by rw [bits_low _ _ (by decide), bits_low _ _ (by decide), bits_low _ _ (by decide)]; rfl)
theorem Guard.stfe d a q p : Guard.Statement (.stfe d a q p) := by
  rintro _ - ⟨⟩; exact bits_guard _ _ (by rw [bits_low _ _ (by decide), bits_low _ _ (by decide), bits_low _ _ (by decide)]; rfl)
theorem Guard.sete a p : Guard.Statement (.sete a p) := by
  rintro _ - ⟨⟩; exact bits_guard _ _ (by rw [bits_low _ _ (by decide)]; rfl)
theorem Guard.fence g p : Guard.Statement (.fence g p) := by
  rintro _ - ⟨⟩; exact bits_guard _ _ (by rw [bits_low _ _ (by decide)]; rfl)
theorem Guard.ldaD d a p : Guard.Statement (.ldaD d a p) := by
  rintro _ - ⟨⟩; exact bits_guard _ _ (by rw [bits_low _ _ (by decide), bits_low _ _ (by decide)]; rfl)
theorem Guard.ldaW d a p : Guard.Statement (.ldaW d a p) := by
  rintro _ - ⟨⟩; exact bits_guard _ _ (by rw [bits_low _ _ (by decide), bits_low _ _ (by decide)]; rfl)
theorem Guard.stlD d a p : Guard.Statement (.stlD d a p) := by
  rintro _ - ⟨⟩; exact bits_guard _ _ (by rw [bits_low _ _ (by decide), bits_low _ _ (by decide)]; rfl)
theorem Guard.stlW d a p : Guard.Statement (.stlW d a p) := by
  rintro _ - ⟨⟩; exact bits_guard _ _ (by rw [bits_low _ _ (by decide), bits_low _ _ (by decide)]; rfl)
theorem Guard.yield p : Guard.Statement (.yield p) := by
  rintro _ - ⟨⟩; exact bits_guard _ _ rfl
theorem Guard.close p : Guard.Statement (.close p) := by
  rintro _ - ⟨⟩; exact bits_guard _ _ rfl
theorem Guard.halt p : Guard.Statement (.halt p) := by
  rintro _ - ⟨⟩; exact bits_guard _ _ rfl
theorem Guard.arm q a p : Guard.Statement (.arm q a p) := by
  rintro _ - ⟨⟩; exact bits_guard _ _ (by rw [bits_low _ _ (by decide), bits_low _ _ (by decide)]; rfl)
theorem Guard.disarm k p : Guard.Statement (.disarm k p) := by
  rintro _ - ⟨⟩; exact bits_guard _ _ (by rw [bits_low _ _ (by decide)]; rfl)
theorem Guard.waitm p : Guard.Statement (.waitm p) := by
  rintro _ - ⟨⟩; exact bits_guard _ _ rfl
theorem Guard.spawn q c j p : Guard.Statement (.spawn q c j p) := by
  rintro _ - ⟨⟩; exact bits_guard _ _ (by rw [bits_low _ _ (by decide), bits_low _ _ (by decide), bits_low _ _ (by decide)]; rfl)
theorem Guard.migr a p : Guard.Statement (.migr a p) := by
  rintro _ - ⟨⟩; exact bits_guard _ _ (by rw [bits_low _ _ (by decide)]; rfl)
theorem Guard.stepx d r p : Guard.Statement (.stepx d r p) := by
  rintro _ - ⟨⟩; exact bits_guard _ _ (by rw [bits_low _ _ (by decide), bits_low _ _ (by decide)]; rfl)
theorem Guard.qpush g c q l p : Guard.Statement (.qpush g c q l p) := by
  rintro _ - ⟨⟩; exact bits_guard _ _ (by rw [bits_low _ _ (by decide), bits_low _ _ (by decide), bits_low _ _ (by decide), bits_low _ _ (by decide)]; rfl)
theorem Guard.qpushc g c q l p : Guard.Statement (.qpushc g c q l p) := by
  rintro _ - ⟨⟩; exact bits_guard _ _ (by rw [bits_low _ _ (by decide), bits_low _ _ (by decide), bits_low _ _ (by decide), bits_low _ _ (by decide)]; rfl)
theorem Guard.qpop d c q p : Guard.Statement (.qpop d c q p) := by
  rintro _ - ⟨⟩; exact bits_guard _ _ (by rw [bits_low _ _ (by decide), bits_low _ _ (by decide), bits_low _ _ (by decide)]; rfl)
theorem Guard.qpeek d c q p : Guard.Statement (.qpeek d c q p) := by
  rintro _ - ⟨⟩; exact bits_guard _ _ (by rw [bits_low _ _ (by decide), bits_low _ _ (by decide), bits_low _ _ (by decide)]; rfl)
theorem Guard.qcnt d c p : Guard.Statement (.qcnt d c p) := by
  rintro _ - ⟨⟩; exact bits_guard _ _ (by rw [bits_low _ _ (by decide), bits_low _ _ (by decide)]; rfl)
theorem Guard.tailret p : Guard.Statement (.tailret p) := by
  rintro _ - ⟨⟩; exact bits_guard _ _ rfl
theorem Guard.send q a p : Guard.Statement (.send q a p) := by
  rintro _ - ⟨⟩; exact bits_guard _ _ (by rw [bits_low _ _ (by decide), bits_low _ _ (by decide)]; rfl)
theorem Guard.sendq q a p : Guard.Statement (.sendq q a p) := by
  rintro _ - ⟨⟩; exact bits_guard _ _ (by rw [bits_low _ _ (by decide), bits_low _ _ (by decide)]; rfl)
theorem Guard.halo q a p : Guard.Statement (.halo q a p) := by
  rintro _ - ⟨⟩; exact bits_guard _ _ (by rw [bits_low _ _ (by decide), bits_low _ _ (by decide)]; rfl)
theorem Guard.wmk k v p : Guard.Statement (.wmk k v p) := by
  rintro _ - ⟨⟩; exact bits_guard _ _ (by rw [bits_low _ _ (by decide), bits_low _ _ (by decide)]; rfl)
theorem Guard.hclaim d a q p : Guard.Statement (.hclaim d a q p) := by
  rintro _ - ⟨⟩; exact bits_guard _ _ (by rw [bits_low _ _ (by decide), bits_low _ _ (by decide), bits_low _ _ (by decide)]; rfl)
theorem Guard.hwait h p : Guard.Statement (.hwait h p) := by
  rintro _ - ⟨⟩; exact bits_guard _ _ (by rw [bits_low _ _ (by decide)]; rfl)
theorem Guard.htest q h p : Guard.Statement (.htest q h p) := by
  rintro _ - ⟨⟩; exact bits_guard _ _ (by rw [bits_low _ _ (by decide), bits_low _ _ (by decide)]; rfl)
theorem Guard.kwalk q a b p : Guard.Statement (.kwalk q a b p) := by
  rintro _ - ⟨⟩; exact bits_guard _ _ (by rw [bits_low _ _ (by decide), bits_low _ _ (by decide), bits_low _ _ (by decide)]; rfl)
theorem Guard.kapnd q a b p : Guard.Statement (.kapnd q a b p) := by
  rintro _ - ⟨⟩; exact bits_guard _ _ (by rw [bits_low _ _ (by decide), bits_low _ _ (by decide), bits_low _ _ (by decide)]; rfl)
theorem Guard.ksum q a b p : Guard.Statement (.ksum q a b p) := by
  rintro _ - ⟨⟩; exact bits_guard _ _ (by rw [bits_low _ _ (by decide), bits_low _ _ (by decide), bits_low _ _ (by decide)]; rfl)
theorem Guard.mxq d a q p : Guard.Statement (.mxq d a q p) := by
  rintro _ - ⟨⟩; exact bits_guard _ _ (by rw [bits_low _ _ (by decide), bits_low _ _ (by decide), bits_low _ _ (by decide)]; rfl)
theorem Guard.mxs d a q p : Guard.Statement (.mxs d a q p) := by
  rintro _ - ⟨⟩; exact bits_guard _ _ (by rw [bits_low _ _ (by decide), bits_low _ _ (by decide), bits_low _ _ (by decide)]; rfl)
theorem Guard.mxw d j p : Guard.Statement (.mxw d j p) := by
  rintro _ - ⟨⟩; exact bits_guard _ _ (by rw [bits_low _ _ (by decide), bits_low _ _ (by decide)]; rfl)
theorem Guard.mxt d j q p : Guard.Statement (.mxt d j q p) := by
  rintro _ - ⟨⟩; exact bits_guard _ _ (by rw [bits_low _ _ (by decide), bits_low _ _ (by decide), bits_low _ _ (by decide)]; rfl)
theorem Guard.mxcan j q p : Guard.Statement (.mxcan j q p) := by
  rintro _ - ⟨⟩; exact bits_guard _ _ (by rw [bits_low _ _ (by decide), bits_low _ _ (by decide)]; rfl)
theorem Guard.gnext q a p : Guard.Statement (.gnext q a p) := by
  rintro _ - ⟨⟩; exact bits_guard _ _ (by rw [bits_low _ _ (by decide), bits_low _ _ (by decide)]; rfl)
theorem Guard.gdone q a p : Guard.Statement (.gdone q a p) := by
  rintro _ - ⟨⟩; exact bits_guard _ _ (by rw [bits_low _ _ (by decide), bits_low _ _ (by decide)]; rfl)
theorem Guard.launch d a q p : Guard.Statement (.launch d a q p) := by
  rintro _ - ⟨⟩; exact bits_guard _ _ (by rw [bits_low _ _ (by decide), bits_low _ _ (by decide), bits_low _ _ (by decide)]; rfl)
theorem Guard.lhint p : Guard.Statement (.lhint p) := by
  rintro _ - ⟨⟩; exact bits_guard _ _ rfl
theorem Guard.waitp g p : Guard.Statement (.waitp g p) := by
  rintro _ - ⟨⟩; exact bits_guard _ _ (by rw [bits_low _ _ (by decide)]; rfl)
theorem Guard.cancel d im l p : Guard.Statement (.cancel d im l p) := by
  rintro _ - ⟨⟩; exact bits_guard _ _ (by rw [bits_low _ _ (by decide), bits_low _ _ (by decide), bits_low _ _ (by decide)]; rfl)
theorem Guard.joinw j t p : Guard.Statement (.joinw j t p) := by
  rintro _ - ⟨⟩; exact bits_guard _ _ (by rw [bits_low _ _ (by decide), bits_low _ _ (by decide)]; rfl)
theorem Guard.vadd d a b t p : Guard.Statement (.vadd d a b t p) := by
  rintro _ - ⟨⟩; exact bits_guard _ _ (by rw [bits_low _ _ (by decide), bits_low _ _ (by decide), bits_low _ _ (by decide), bits_low _ _ (by decide)]; rfl)
theorem Guard.vsub d a b t p : Guard.Statement (.vsub d a b t p) := by
  rintro _ - ⟨⟩; exact bits_guard _ _ (by rw [bits_low _ _ (by decide), bits_low _ _ (by decide), bits_low _ _ (by decide), bits_low _ _ (by decide)]; rfl)
theorem Guard.vmul d a b t p : Guard.Statement (.vmul d a b t p) := by
  rintro _ - ⟨⟩; exact bits_guard _ _ (by rw [bits_low _ _ (by decide), bits_low _ _ (by decide), bits_low _ _ (by decide), bits_low _ _ (by decide)]; rfl)
theorem Guard.vfma d a b t p : Guard.Statement (.vfma d a b t p) := by
  rintro _ - ⟨⟩; exact bits_guard _ _ (by rw [bits_low _ _ (by decide), bits_low _ _ (by decide), bits_low _ _ (by decide), bits_low _ _ (by decide)]; rfl)
theorem Guard.vfms d a b t p : Guard.Statement (.vfms d a b t p) := by
  rintro _ - ⟨⟩; exact bits_guard _ _ (by rw [bits_low _ _ (by decide), bits_low _ _ (by decide), bits_low _ _ (by decide), bits_low _ _ (by decide)]; rfl)
theorem Guard.vmin d a b t p : Guard.Statement (.vmin d a b t p) := by
  rintro _ - ⟨⟩; exact bits_guard _ _ (by rw [bits_low _ _ (by decide), bits_low _ _ (by decide), bits_low _ _ (by decide), bits_low _ _ (by decide)]; rfl)
theorem Guard.vmax d a b t p : Guard.Statement (.vmax d a b t p) := by
  rintro _ - ⟨⟩; exact bits_guard _ _ (by rw [bits_low _ _ (by decide), bits_low _ _ (by decide), bits_low _ _ (by decide), bits_low _ _ (by decide)]; rfl)
theorem Guard.vabs d a t p : Guard.Statement (.vabs d a t p) := by
  rintro _ - ⟨⟩; exact bits_guard _ _ (by rw [bits_low _ _ (by decide), bits_low _ _ (by decide), bits_low _ _ (by decide)]; rfl)
theorem Guard.vneg d a t p : Guard.Statement (.vneg d a t p) := by
  rintro _ - ⟨⟩; exact bits_guard _ _ (by rw [bits_low _ _ (by decide), bits_low _ _ (by decide), bits_low _ _ (by decide)]; rfl)
theorem Guard.vdot2 d a b t p : Guard.Statement (.vdot2 d a b t p) := by
  rintro _ - ⟨⟩; exact bits_guard _ _ (by rw [bits_low _ _ (by decide), bits_low _ _ (by decide), bits_low _ _ (by decide), bits_low _ _ (by decide)]; rfl)
theorem Guard.vdot4 d a b p : Guard.Statement (.vdot4 d a b p) := by
  rintro _ - ⟨⟩; exact bits_guard _ _ (by rw [bits_low _ _ (by decide), bits_low _ _ (by decide), bits_low _ _ (by decide)]; rfl)
theorem Guard.viadd d a b t p : Guard.Statement (.viadd d a b t p) := by
  rintro _ - ⟨⟩; exact bits_guard _ _ (by rw [bits_low _ _ (by decide), bits_low _ _ (by decide), bits_low _ _ (by decide), bits_low _ _ (by decide)]; rfl)
theorem Guard.visub d a b t p : Guard.Statement (.visub d a b t p) := by
  rintro _ - ⟨⟩; exact bits_guard _ _ (by rw [bits_low _ _ (by decide), bits_low _ _ (by decide), bits_low _ _ (by decide), bits_low _ _ (by decide)]; rfl)
theorem Guard.vimul d a b t p : Guard.Statement (.vimul d a b t p) := by
  rintro _ - ⟨⟩; exact bits_guard _ _ (by rw [bits_low _ _ (by decide), bits_low _ _ (by decide), bits_low _ _ (by decide), bits_low _ _ (by decide)]; rfl)
theorem Guard.viadds d a b t p : Guard.Statement (.viadds d a b t p) := by
  rintro _ - ⟨⟩; exact bits_guard _ _ (by rw [bits_low _ _ (by decide), bits_low _ _ (by decide), bits_low _ _ (by decide), bits_low _ _ (by decide)]; rfl)
theorem Guard.visubs d a b t p : Guard.Statement (.visubs d a b t p) := by
  rintro _ - ⟨⟩; exact bits_guard _ _ (by rw [bits_low _ _ (by decide), bits_low _ _ (by decide), bits_low _ _ (by decide), bits_low _ _ (by decide)]; rfl)
theorem Guard.vimuls d a b t p : Guard.Statement (.vimuls d a b t p) := by
  rintro _ - ⟨⟩; exact bits_guard _ _ (by rw [bits_low _ _ (by decide), bits_low _ _ (by decide), bits_low _ _ (by decide), bits_low _ _ (by decide)]; rfl)
theorem Guard.vshl d a b t p : Guard.Statement (.vshl d a b t p) := by
  rintro _ - ⟨⟩; exact bits_guard _ _ (by rw [bits_low _ _ (by decide), bits_low _ _ (by decide), bits_low _ _ (by decide), bits_low _ _ (by decide)]; rfl)
theorem Guard.vshr d a b t p : Guard.Statement (.vshr d a b t p) := by
  rintro _ - ⟨⟩; exact bits_guard _ _ (by rw [bits_low _ _ (by decide), bits_low _ _ (by decide), bits_low _ _ (by decide), bits_low _ _ (by decide)]; rfl)
theorem Guard.vand d a b t p : Guard.Statement (.vand d a b t p) := by
  rintro _ - ⟨⟩; exact bits_guard _ _ (by rw [bits_low _ _ (by decide), bits_low _ _ (by decide), bits_low _ _ (by decide), bits_low _ _ (by decide)]; rfl)
theorem Guard.vor d a b t p : Guard.Statement (.vor d a b t p) := by
  rintro _ - ⟨⟩; exact bits_guard _ _ (by rw [bits_low _ _ (by decide), bits_low _ _ (by decide), bits_low _ _ (by decide), bits_low _ _ (by decide)]; rfl)
theorem Guard.vxor d a b t p : Guard.Statement (.vxor d a b t p) := by
  rintro _ - ⟨⟩; exact bits_guard _ _ (by rw [bits_low _ _ (by decide), bits_low _ _ (by decide), bits_low _ _ (by decide), bits_low _ _ (by decide)]; rfl)
theorem Guard.vnadd d a b p : Guard.Statement (.vnadd d a b p) := by
  rintro _ - ⟨⟩; exact bits_guard _ _ (by rw [bits_low _ _ (by decide), bits_low _ _ (by decide), bits_low _ _ (by decide)]; rfl)
theorem Guard.vnsub d a b p : Guard.Statement (.vnsub d a b p) := by
  rintro _ - ⟨⟩; exact bits_guard _ _ (by rw [bits_low _ _ (by decide), bits_low _ _ (by decide), bits_low _ _ (by decide)]; rfl)
theorem Guard.vnmul d a b p : Guard.Statement (.vnmul d a b p) := by
  rintro _ - ⟨⟩; exact bits_guard _ _ (by rw [bits_low _ _ (by decide), bits_low _ _ (by decide), bits_low _ _ (by decide)]; rfl)
theorem Guard.vnfma d a b p : Guard.Statement (.vnfma d a b p) := by
  rintro _ - ⟨⟩; exact bits_guard _ _ (by rw [bits_low _ _ (by decide), bits_low _ _ (by decide), bits_low _ _ (by decide)]; rfl)
theorem Guard.vnmax d a b p : Guard.Statement (.vnmax d a b p) := by
  rintro _ - ⟨⟩; exact bits_guard _ _ (by rw [bits_low _ _ (by decide), bits_low _ _ (by decide), bits_low _ _ (by decide)]; rfl)
theorem Guard.vndot d a b k p : Guard.Statement (.vndot d a b k p) := by
  rintro _ - ⟨⟩; exact bits_guard _ _ (by rw [bits_low _ _ (by decide), bits_low _ _ (by decide), bits_low _ _ (by decide), bits_low _ _ (by decide)]; rfl)
theorem Guard.vquant d a k p : Guard.Statement (.vquant d a k p) := by
  rintro _ - ⟨⟩; exact bits_guard _ _ (by rw [bits_low _ _ (by decide), bits_low _ _ (by decide), bits_low _ _ (by decide)]; rfl)
theorem Guard.vbaq d a b k p : Guard.Statement (.vbaq d a b k p) := by
  rintro _ - ⟨⟩; exact bits_guard _ _ (by rw [bits_low _ _ (by decide), bits_low _ _ (by decide), bits_low _ _ (by decide), bits_low _ _ (by decide)]; rfl)
theorem Guard.vcvt d a r x y p : Guard.Statement (.vcvt d a r x y p) := by
  rintro _ - ⟨⟩; exact bits_guard _ _ (by rw [bits_low _ _ (by decide), bits_low _ _ (by decide), bits_low _ _ (by decide), bits_low _ _ (by decide), bits_low _ _ (by decide)]; rfl)
theorem Guard.vshuf d a b w p : Guard.Statement (.vshuf d a b w p) := by
  rintro _ - ⟨⟩; exact bits_guard _ _ (by rw [bits_low _ _ (by decide), bits_low _ _ (by decide), bits_low _ _ (by decide), bits_low _ _ (by decide)]; rfl)
theorem Guard.vbcast d g w p : Guard.Statement (.vbcast d g w p) := by
  rintro _ - ⟨⟩; exact bits_guard _ _ (by rw [bits_low _ _ (by decide), bits_low _ _ (by decide), bits_low _ _ (by decide)]; rfl)
theorem Guard.vext d im g w p : Guard.Statement (.vext d im g w p) := by
  rintro _ - ⟨⟩; exact bits_guard _ _ (by rw [bits_low _ _ (by decide), bits_low _ _ (by decide), bits_low _ _ (by decide), bits_low _ _ (by decide)]; rfl)
theorem Guard.vins d g im w p : Guard.Statement (.vins d g im w p) := by
  rintro _ - ⟨⟩; exact bits_guard _ _ (by rw [bits_low _ _ (by decide), bits_low _ _ (by decide), bits_low _ _ (by decide), bits_low _ _ (by decide)]; rfl)
theorem Guard.vselv d a b p : Guard.Statement (.vselv d a b p) := by
  rintro _ - ⟨⟩; exact bits_guard _ _ (by rw [bits_low _ _ (by decide), bits_low _ _ (by decide), bits_low _ _ (by decide)]; rfl)
theorem Guard.vrsum d a m t p : Guard.Statement (.vrsum d a m t p) := by
  rintro _ - ⟨⟩; exact bits_guard _ _ (by rw [bits_low _ _ (by decide), bits_low _ _ (by decide), bits_low _ _ (by decide), bits_low _ _ (by decide)]; rfl)
theorem Guard.vrmax d a m t p : Guard.Statement (.vrmax d a m t p) := by
  rintro _ - ⟨⟩; exact bits_guard _ _ (by rw [bits_low _ _ (by decide), bits_low _ _ (by decide), bits_low _ _ (by decide), bits_low _ _ (by decide)]; rfl)
theorem Guard.vrmin d a m t p : Guard.Statement (.vrmin d a m t p) := by
  rintro _ - ⟨⟩; exact bits_guard _ _ (by rw [bits_low _ _ (by decide), bits_low _ _ (by decide), bits_low _ _ (by decide), bits_low _ _ (by decide)]; rfl)
theorem Guard.vexp2 d a t p : Guard.Statement (.vexp2 d a t p) := by
  rintro _ - ⟨⟩; exact bits_guard _ _ (by rw [bits_low _ _ (by decide), bits_low _ _ (by decide), bits_low _ _ (by decide)]; rfl)
theorem Guard.vlog2 d a t p : Guard.Statement (.vlog2 d a t p) := by
  rintro _ - ⟨⟩; exact bits_guard _ _ (by rw [bits_low _ _ (by decide), bits_low _ _ (by decide), bits_low _ _ (by decide)]; rfl)
theorem Guard.vrcp d a t p : Guard.Statement (.vrcp d a t p) := by
  rintro _ - ⟨⟩; exact bits_guard _ _ (by rw [bits_low _ _ (by decide), bits_low _ _ (by decide), bits_low _ _ (by decide)]; rfl)
theorem Guard.vrsq d a t p : Guard.Statement (.vrsq d a t p) := by
  rintro _ - ⟨⟩; exact bits_guard _ _ (by rw [bits_low _ _ (by decide), bits_low _ _ (by decide), bits_low _ _ (by decide)]; rfl)
theorem Guard.vsin d a t p : Guard.Statement (.vsin d a t p) := by
  rintro _ - ⟨⟩; exact bits_guard _ _ (by rw [bits_low _ _ (by decide), bits_low _ _ (by decide), bits_low _ _ (by decide)]; rfl)
theorem Guard.vtanh d a t p : Guard.Statement (.vtanh d a t p) := by
  rintro _ - ⟨⟩; exact bits_guard _ _ (by rw [bits_low _ _ (by decide), bits_low _ _ (by decide), bits_low _ _ (by decide)]; rfl)
theorem Guard.vsig d a t p : Guard.Statement (.vsig d a t p) := by
  rintro _ - ⟨⟩; exact bits_guard _ _ (by rw [bits_low _ _ (by decide), bits_low _ _ (by decide), bits_low _ _ (by decide)]; rfl)
theorem Guard.vcmp d a b c t p : Guard.Statement (.vcmp d a b c t p) := by
  rintro _ - ⟨⟩; exact bits_guard _ _ (by rw [bits_low _ _ (by decide), bits_low _ _ (by decide), bits_low _ _ (by decide), bits_low _ _ (by decide), bits_low _ _ (by decide)]; rfl)
theorem Guard.vany q a b c t p : Guard.Statement (.vany q a b c t p) := by
  rintro _ - ⟨⟩; exact bits_guard _ _ (by rw [bits_low _ _ (by decide), bits_low _ _ (by decide), bits_low _ _ (by decide), bits_low _ _ (by decide), bits_low _ _ (by decide)]; rfl)
theorem Guard.vall q a b c t p : Guard.Statement (.vall q a b c t p) := by
  rintro _ - ⟨⟩; exact bits_guard _ _ (by rw [bits_low _ _ (by decide), bits_low _ _ (by decide), bits_low _ _ (by decide), bits_low _ _ (by decide), bits_low _ _ (by decide)]; rfl)
theorem Guard.fadd d a b w p : Guard.Statement (.fadd d a b w p) := by
  rintro _ - ⟨⟩; exact bits_guard _ _ (by rw [bits_low _ _ (by decide), bits_low _ _ (by decide), bits_low _ _ (by decide), bits_low _ _ (by decide)]; rfl)
theorem Guard.fsub d a b w p : Guard.Statement (.fsub d a b w p) := by
  rintro _ - ⟨⟩; exact bits_guard _ _ (by rw [bits_low _ _ (by decide), bits_low _ _ (by decide), bits_low _ _ (by decide), bits_low _ _ (by decide)]; rfl)
theorem Guard.fmul d a b w p : Guard.Statement (.fmul d a b w p) := by
  rintro _ - ⟨⟩; exact bits_guard _ _ (by rw [bits_low _ _ (by decide), bits_low _ _ (by decide), bits_low _ _ (by decide), bits_low _ _ (by decide)]; rfl)
theorem Guard.ffma d a b w p : Guard.Statement (.ffma d a b w p) := by
  rintro _ - ⟨⟩; exact bits_guard _ _ (by rw [bits_low _ _ (by decide), bits_low _ _ (by decide), bits_low _ _ (by decide), bits_low _ _ (by decide)]; rfl)
theorem Guard.fdiv d a b w p : Guard.Statement (.fdiv d a b w p) := by
  rintro _ - ⟨⟩; exact bits_guard _ _ (by rw [bits_low _ _ (by decide), bits_low _ _ (by decide), bits_low _ _ (by decide), bits_low _ _ (by decide)]; rfl)
theorem Guard.fsqrt d a w p : Guard.Statement (.fsqrt d a w p) := by
  rintro _ - ⟨⟩; exact bits_guard _ _ (by rw [bits_low _ _ (by decide), bits_low _ _ (by decide), bits_low _ _ (by decide)]; rfl)
theorem Guard.fmin d a b w p : Guard.Statement (.fmin d a b w p) := by
  rintro _ - ⟨⟩; exact bits_guard _ _ (by rw [bits_low _ _ (by decide), bits_low _ _ (by decide), bits_low _ _ (by decide), bits_low _ _ (by decide)]; rfl)
theorem Guard.fmax d a b w p : Guard.Statement (.fmax d a b w p) := by
  rintro _ - ⟨⟩; exact bits_guard _ _ (by rw [bits_low _ _ (by decide), bits_low _ _ (by decide), bits_low _ _ (by decide), bits_low _ _ (by decide)]; rfl)
theorem Guard.fcvt d a x y p : Guard.Statement (.fcvt d a x y p) := by
  rintro _ - ⟨⟩; exact bits_guard _ _ (by rw [bits_low _ _ (by decide), bits_low _ _ (by decide), bits_low _ _ (by decide), bits_low _ _ (by decide)]; rfl)
theorem Guard.fcmpeq q a b w p : Guard.Statement (.fcmpeq q a b w p) := by
  rintro _ - ⟨⟩; exact bits_guard _ _ (by rw [bits_low _ _ (by decide), bits_low _ _ (by decide), bits_low _ _ (by decide), bits_low _ _ (by decide)]; rfl)
theorem Guard.fcmplt q a b w p : Guard.Statement (.fcmplt q a b w p) := by
  rintro _ - ⟨⟩; exact bits_guard _ _ (by rw [bits_low _ _ (by decide), bits_low _ _ (by decide), bits_low _ _ (by decide), bits_low _ _ (by decide)]; rfl)
theorem Guard.fcmple q a b w p : Guard.Statement (.fcmple q a b w p) := by
  rintro _ - ⟨⟩; exact bits_guard _ _ (by rw [bits_low _ _ (by decide), bits_low _ _ (by decide), bits_low _ _ (by decide), bits_low _ _ (by decide)]; rfl)
theorem Guard.trap e p : Guard.Statement (.trap e p) := by
  rintro _ - ⟨⟩; exact bits_guard _ _ (by rw [bits_low _ _ (by decide)]; rfl)
theorem Guard.eret p : Guard.Statement (.eret p) := by
  rintro _ - ⟨⟩; exact bits_guard _ _ rfl
theorem Guard.bkpt p : Guard.Statement (.bkpt p) := by
  rintro _ - ⟨⟩; exact bits_guard _ _ rfl
theorem Guard.srr d r p : Guard.Statement (.srr d r p) := by
  rintro _ - ⟨⟩; exact bits_guard _ _ (by rw [bits_low _ _ (by decide), bits_low _ _ (by decide)]; rfl)
theorem Guard.srw d r p : Guard.Statement (.srw d r p) := by
  rintro _ - ⟨⟩; exact bits_guard _ _ (by rw [bits_low _ _ (by decide), bits_low _ _ (by decide)]; rfl)
theorem Guard.srs d r p : Guard.Statement (.srs d r p) := by
  rintro _ - ⟨⟩; exact bits_guard _ _ (by rw [bits_low _ _ (by decide), bits_low _ _ (by decide)]; rfl)
theorem Guard.src d r p : Guard.Statement (.src d r p) := by
  rintro _ - ⟨⟩; exact bits_guard _ _ (by rw [bits_low _ _ (by decide), bits_low _ _ (by decide)]; rfl)
theorem Guard.cflush a l p : Guard.Statement (.cflush a l p) := by
  rintro _ - ⟨⟩; exact bits_guard _ _ (by rw [bits_low _ _ (by decide), bits_low _ _ (by decide)]; rfl)
theorem Guard.cinv a p : Guard.Statement (.cinv a p) := by
  rintro _ - ⟨⟩; exact bits_guard _ _ (by rw [bits_low _ _ (by decide)]; rfl)
theorem Guard.czero a p : Guard.Statement (.czero a p) := by
  rintro _ - ⟨⟩; exact bits_guard _ _ (by rw [bits_low _ _ (by decide)]; rfl)
theorem Guard.tlbi a g p : Guard.Statement (.tlbi a g p) := by
  rintro _ - ⟨⟩; exact bits_guard _ _ (by rw [bits_low _ _ (by decide), bits_low _ _ (by decide)]; rfl)
theorem Guard.tlbiAll g p : Guard.Statement (.tlbiAll g p) := by
  rintro _ - ⟨⟩; exact bits_guard _ _ (by rw [bits_low _ _ (by decide)]; rfl)
theorem Guard.xbset g p : Guard.Statement (.xbset g p) := by
  rintro _ - ⟨⟩; exact bits_guard _ _ (by rw [bits_low _ _ (by decide)]; rfl)
theorem Guard.wayset q g p : Guard.Statement (.wayset q g p) := by
  rintro _ - ⟨⟩; exact bits_guard _ _ (by rw [bits_low _ _ (by decide), bits_low _ _ (by decide)]; rfl)
theorem Guard.wfx d t p : Guard.Statement (.wfx d t p) := by
  rintro _ - ⟨⟩; exact bits_guard _ _ (by rw [bits_low _ _ (by decide), bits_low _ _ (by decide)]; rfl)
theorem Guard.feat d w p : Guard.Statement (.feat d w p) := by
  rintro _ - ⟨⟩; exact bits_guard _ _ (by rw [bits_low _ _ (by decide), bits_low _ _ (by decide)]; rfl)
theorem Guard.topo d g p : Guard.Statement (.topo d g p) := by
  rintro _ - ⟨⟩; exact bits_guard _ _ (by rw [bits_low _ _ (by decide), bits_low _ _ (by decide)]; rfl)
theorem Guard.idr d g p : Guard.Statement (.idr d g p) := by
  rintro _ - ⟨⟩; exact bits_guard _ _ (by rw [bits_low _ _ (by decide), bits_low _ _ (by decide)]; rfl)
theorem Guard.time d p : Guard.Statement (.time d p) := by
  rintro _ - ⟨⟩; exact bits_guard _ _ (by rw [bits_low _ _ (by decide)]; rfl)
theorem Guard.immx e : Guard.Statement (.immx e) := nofun
theorem Guard.rndx m : Guard.Statement (.rndx m) := nofun
theorem Guard.hmove f q h r p : Guard.Statement (.hmove f q h r p) := by
  rintro _ - ⟨⟩; exact bits_guard _ _ (by rw [bits_low _ _ (by decide), bits_low _ _ (by decide), bits_low _ _ (by decide)]; split <;> rfl)
theorem Guard.hend f h p : Guard.Statement (.hend f h p) := by
  rintro _ - ⟨⟩; exact bits_guard _ _ (by rw [bits_low _ _ (by decide)]; split <;> rfl)
theorem Guard.hinfo d h p : Guard.Statement (.hinfo d h p) := by
  rintro _ - ⟨⟩; exact bits_guard _ _ (by rw [bits_low _ _ (by decide), bits_low _ _ (by decide)]; rfl)
theorem Guard.kstat f a p : Guard.Statement (.kstat f a p) := by
  rintro _ - ⟨⟩; exact bits_guard _ _ (by rw [bits_low _ _ (by decide)]; split <;> rfl)
theorem Guard.start : Guard.Statement .start := nofun
theorem Guard.stop : Guard.Statement .stop := nofun
theorem Guard.redirect : Guard.Statement .redirect := nofun
theorem Guard.kill : Guard.Statement .kill := nofun
theorem Guard.step : Guard.Statement .step := nofun
theorem Guard.outsideStore : Guard.Statement .outsideStore := nofun
theorem Guard.controlWindowRefusal : Guard.Statement .controlWindowRefusal := nofun
theorem Guard.activation : Guard.Statement .activation := nofun
theorem Guard.activationComplete : Guard.Statement .activationComplete := nofun
theorem Guard.rowCloseComplete : Guard.Statement .rowCloseComplete := nofun
theorem Guard.quantumExpiry : Guard.Statement .quantumExpiry := nofun
theorem Guard.preEmption : Guard.Statement .preEmption := nofun
theorem Guard.budgetRefill : Guard.Statement .budgetRefill := nofun
theorem Guard.budgetClosure : Guard.Statement .budgetClosure := nofun
theorem Guard.windowSumClear : Guard.Statement .windowSumClear := nofun
theorem Guard.deferredStoreFault : Guard.Statement .deferredStoreFault := nofun
theorem Guard.faultQueueAppend : Guard.Statement .faultQueueAppend := nofun
theorem Guard.faultRingHeadReread : Guard.Statement .faultRingHeadReread := nofun
theorem Guard.pageWalkComplete : Guard.Statement .pageWalkComplete := nofun
theorem Guard.tlbiComplete : Guard.Statement .tlbiComplete := nofun
theorem Guard.reductionPerform : Guard.Statement .reductionPerform := nofun
theorem Guard.reductionAck : Guard.Statement .reductionAck := nofun
theorem Guard.homeOperation : Guard.Statement .homeOperation := nofun
theorem Guard.performanceNotice : Guard.Statement .performanceNotice := nofun
theorem Guard.parkedReleaseApply : Guard.Statement .parkedReleaseApply := nofun
theorem Guard.writeBack : Guard.Statement .writeBack := nofun
theorem Guard.ldfeAnswerWake : Guard.Statement .ldfeAnswerWake := nofun
theorem Guard.wake : Guard.Statement .wake := nofun
theorem Guard.monitorFire : Guard.Statement .monitorFire := nofun
theorem Guard.joinwWake : Guard.Statement .joinwWake := nofun
theorem Guard.wfxDeadline : Guard.Statement .wfxDeadline := nofun
theorem Guard.windowFillWake : Guard.Statement .windowFillWake := nofun
theorem Guard.waitpWake : Guard.Statement .waitpWake := nofun
theorem Guard.placeAbandonment : Guard.Statement .placeAbandonment := nofun
theorem Guard.spawnMessageArrival : Guard.Statement .spawnMessageArrival := nofun
theorem Guard.spawnServe : Guard.Statement .spawnServe := nofun
theorem Guard.migrationPlacement : Guard.Statement .migrationPlacement := nofun
theorem Guard.launchPlacement : Guard.Statement .launchPlacement := nofun
theorem Guard.launchRowStart : Guard.Statement .launchRowStart := nofun
theorem Guard.successorIssue : Guard.Statement .successorIssue := nofun
theorem Guard.retirementCount : Guard.Statement .retirementCount := nofun
theorem Guard.columnReport : Guard.Statement .columnReport := nofun
theorem Guard.fieldReport : Guard.Statement .fieldReport := nofun
theorem Guard.neighbourPushArrival : Guard.Statement .neighbourPushArrival := nofun
theorem Guard.sectorArrival : Guard.Statement .sectorArrival := nofun
theorem Guard.haloArrival : Guard.Statement .haloArrival := nofun
theorem Guard.metadataArrival : Guard.Statement .metadataArrival := nofun
theorem Guard.targetAcknowledgement : Guard.Statement .targetAcknowledgement := nofun
theorem Guard.jobStart : Guard.Statement .jobStart := nofun
theorem Guard.tileComplete : Guard.Statement .tileComplete := nofun
theorem Guard.jobCompletion : Guard.Statement .jobCompletion := nofun
theorem Guard.completionNotice : Guard.Statement .completionNotice := nofun
theorem Guard.operandFault : Guard.Statement .operandFault := nofun
theorem Guard.mxcanAtColumn : Guard.Statement .mxcanAtColumn := nofun
theorem Guard.tlockGrant : Guard.Statement .tlockGrant := nofun
theorem Guard.walkerRequestComplete : Guard.Statement .walkerRequestComplete := nofun
theorem Guard.walkerRequestStart : Guard.Statement .walkerRequestStart := nofun
theorem Guard.gatewayBlockArrival : Guard.Statement .gatewayBlockArrival := nofun
theorem Guard.peerQueued : Guard.Statement .peerQueued := nofun
theorem Guard.pairingComplete : Guard.Statement .pairingComplete := nofun
theorem Guard.linkFailure : Guard.Statement .linkFailure := nofun
theorem Guard.wpartTransitionComplete : Guard.Statement .wpartTransitionComplete := nofun
theorem Guard.wayWakeComplete : Guard.Statement .wayWakeComplete := nofun
theorem Guard.correctedError : Guard.Statement .correctedError := nofun
theorem Guard.cecntExpiry : Guard.Statement .cecntExpiry := nofun
theorem Guard.columnRetirement : Guard.Statement .columnRetirement := nofun
theorem Guard.testerWindow : Guard.Statement .testerWindow := nofun
theorem Guard.fieldEventPost : Guard.Statement .fieldEventPost := nofun
theorem Guard.thermalSensor : Guard.Statement .thermalSensor := nofun
theorem Guard.mplim : Guard.Statement .mplim := nofun
theorem Guard.vctlReset : Guard.Statement .vctlReset := nofun
theorem Guard.vctlStop : Guard.Statement .vctlStop := nofun
theorem Guard.vctlStart : Guard.Statement .vctlStart := nofun
theorem Guard.tenantStopDrain : Guard.Statement .tenantStopDrain := nofun
theorem Guard.tenantResetDrain : Guard.Statement .tenantResetDrain := nofun
theorem Guard.functionLevelReset : Guard.Statement .functionLevelReset := nofun
theorem Guard.cqbell : Guard.Statement .cqbell := nofun
theorem Guard.hostLaunch : Guard.Statement .hostLaunch := nofun
theorem Guard.hostCancel : Guard.Statement .hostCancel := nofun
theorem Guard.counter : Guard.Statement .counter := nofun
theorem Guard.seal : Guard.Statement .seal := nofun
theorem Guard.load : Guard.Statement .load := nofun
theorem Guard.mqbell : Guard.Statement .mqbell := nofun
theorem Guard.create : Guard.Statement .create := nofun
theorem Guard.repart : Guard.Statement .repart := nofun
theorem Guard.swapout : Guard.Statement .swapout := nofun
theorem Guard.swapin : Guard.Statement .swapin := nofun
theorem Guard.remove : Guard.Statement .remove := nofun
theorem Guard.hostwin : Guard.Statement .hostwin := nofun
theorem Guard.pair : Guard.Statement .pair := nofun
theorem Guard.unpair : Guard.Statement .unpair := nofun
theorem Guard.reinstate : Guard.Statement .reinstate := nofun
theorem Guard.hostHdmAccess : Guard.Statement .hostHdmAccess := nofun
theorem Guard.doeSpdmRequest : Guard.Statement .doeSpdmRequest := nofun
theorem Guard.registerWrite : Guard.Statement .registerWrite := nofun
theorem Guard.powerUp : Guard.Statement .powerUp := nofun
theorem Guard.illegalEncoding : Guard.Statement .illegalEncoding := nofun
theorem Guard.kilnTranslationComplete : Guard.Statement .kilnTranslationComplete := nofun
theorem Guard.pairingEnd : Guard.Statement .pairingEnd := nofun
theorem Guard.hostLinkTraining : Guard.Statement .hostLinkTraining := nofun

end Sys2Proof.Laws
end

