-- ==== Sys2Proof/Laws/Word.lean ====
section
/-! SUPPORT. What a guarded word does, and that an instruction which only changes the issuing row changes nothing else. -/

namespace Sys2Proof.Machine

/-- A word whose guard is 1 has its effect (R47). -/
theorem word_executes {s : State} {p : BitVec 3} (h : Executes s p) (f : State → State) : word s p f = .next (f s) := by
  simp [word, State.guarded, h.1, h.2]

/-- A word whose guard is 0 ends its group with no effect (R47). -/
theorem word_skips {s : State} {p : BitVec 3} (h : Skips s p) (f : State → State) : word s p f = .next s.advance := by
  simp [word, State.guarded, h.1, h.2]

/-- A word without a guard has its effect (R47). -/
theorem wordAlways_executes {s : State} (h : s.seated = true) (f : State → State) : wordAlways s f = .next (f s) := by
  simp [wordAlways, h]

/-- A word outside a seat is no instruction of a row. -/
theorem word_unseated {s : State} (h : s.seated = false) (p : BitVec 3) (f : State → State) : word s p f = .fault .noOpenRow := by
  simp [word, h]

/-- The same without a guard. -/
theorem wordAlways_unseated {s : State} (h : s.seated = false) (f : State → State) :
    wordAlways s f = .fault .noOpenRow := by
  simp [wordAlways, h]

/-- `goto` changes the issuing row's PC and consumes the hints, and nothing else. -/
theorem onlyRow_goto (s : State) (r : Row) (pc : BitVec 32) :
    ((s.setMe r).goto pc).me = { r with pc := pc &&& ~~~3#32, inGroup := false } ∧ (∀ k, k ≠ s.cur → ((s.setMe r).goto pc).row k = s.row k) ∧
      ((s.setMe r).goto pc).run = [] ∧ (∀ a, ((s.setMe r).goto pc).mem.read a = s.mem.read a) ∧
      { (s.setMe r).goto pc with rows := s.rows, run := s.run } = s := by
  refine ⟨by simp, fun k h => ?_, rfl, fun _ => rfl, rfl⟩
  rw [State.row_goto_other _ _ (by simpa using h), State.row_setMe_other s r h]

/-- `finish` changes the issuing row's record and nothing else. -/
theorem onlyRow_finish (s : State) (r : Row) (h : r.pc = s.me.pc) : OnlyRow s (s.finish r) r := by
  have e : (s.setMe r).after = s.after := by simp [State.after, State.target, State.group, h]
  have g := onlyRow_goto s r s.after
  unfold OnlyRow State.finish State.advance
  rw [e]
  exact g

/-- `advance` changes PC and nothing else. -/
theorem onlyRow_advance (s : State) : OnlyRow s s.advance s.me := by
  refine ⟨by simp, fun k h => State.row_advance_other s h, rfl, fun _ => rfl, rfl⟩

/-- A word that finishes with a record sets it. -/
theorem sets_finish {s : State} {i : Instr} {r : Row} (e : exec i s = .next (s.finish r)) (h : r.pc = s.me.pc) : Sets s i r :=
  ⟨_, e, onlyRow_finish s r h⟩

/-- A word that only advances passes. -/
theorem passes_advance {s : State} {i : Instr} (e : exec i s = .next s.advance) : Passes s i := ⟨_, e, onlyRow_advance s⟩

end Sys2Proof.Machine
end

