-- ==== Sys2Proof/Tests/Slice0.lean ====
section
/-! SUPPORT. Tests: terms that are no instructions, words that the spec writes out, single steps whose results the spec works out, and a
witness for the hypotheses of each statement. -/

open Sys2Proof Sys2Proof.Machine

/-! ## States for the tests -/

namespace Sys2Proof.Tests

set_option Elab.async false

/-- The row that `withFetchWord` starts, with no word to run. -/
def base : State := State.reset.withFetchWord 32 0

/-- The issuing row's record changed. -/
def row (f : Row → Row) (s : State) : State := s.setMe (f s.me)

/-- A g register of the issuing row. -/
def reg (n : BitVec 6) (v : DWord) (s : State) : State := row (fun r => r.wg n v) s

/-- A v register of the issuing row. -/
def vreg (n : BitVec 5) (v : VWord) (s : State) : State := row (fun r => r.wv n v) s

/-- Column 0 changed. -/
def col (f : Column → Column) (s : State) : State := s.setCol 0 (f (s.col 0))

/-- The virtual addresses from 0 on, 1 GiB of them, stand for DRAM layer 1 of column 0, as a column cache may hold them. -/
def page : TlbEntry := ⟨false, 0, 0, 30, 0x18000000, ⟨true, false, 0, false, 0, false, false, false⟩⟩

/-- The same at the level SO: accesses go to the home. -/
def pageSo : TlbEntry := { page with attr := { page.attr with lvl := 1 } }

/-- A row that can reach DRAM. -/
def dram : State := col (fun c => { c with tlb := [page] }) base

/-- The state behind one instruction of the issuing row. -/
def behind (i : Instr) (s : State) : State :=
  match exec i s with
  | .next t => t
  | .fault _ => s
  | .refused _ => s

/-- The state behind one step that runs a word, on the registers that the function sets. -/
def ran (w : Nat) (f : State → State) : State :=
  match step (f (State.reset.withFetchWord 32 w)) with
  | .next t => t
  | .fault _ => State.reset
  | .refused _ => State.reset

/-! ## Terms that are no instructions: one for each check (R46, R57) -/

theorem test_illFormed_cachex_empty : (Instr.cachex 0 0 0 0).wellFormed = false := by decide
theorem test_illFormed_cachex_policy : (Instr.cachex 0 0 3 0).wellFormed = false := by decide
theorem test_illFormed_cachex_value : (Instr.cachex 0 1 1 1).wellFormed = false := by decide
theorem test_illFormed_scopex : (Instr.scopex 5).wellFormed = false := by decide
theorem test_illFormed_prefx : (Instr.prefx 0 3 0).wellFormed = false := by decide
theorem test_illFormed_shift_W : (Instr.shli 1 2 1 32 0).wellFormed = false ∧ (Instr.shri 1 2 1 63 0).wellFormed = false ∧
    (Instr.srai 1 2 1 32 0).wellFormed = false ∧ (Instr.roti 1 2 1 40 0).wellFormed = false := by decide
theorem test_illFormed_cmp : (Instr.cmp 1 6 2 3 0 0).wellFormed = false ∧ (Instr.cmpi 1 6 2 3 0).wellFormed = false := by decide
theorem test_illFormed_brn : (Instr.brn 0 4).wellFormed = false ∧ (Instr.calln 0 4).wellFormed = false := by decide
theorem test_illFormed_loop : (Instr.loop 0 4 0).wellFormed = false := by decide
theorem test_illFormed_ldx : (Instr.ldxH 3 1 3 0).wellFormed = false ∧ (Instr.ldxW 3 1 3 0).wellFormed = false ∧
    (Instr.ldxD 3 1 3 0).wellFormed = false := by decide
theorem test_illFormed_lwd : (Instr.lwd 1 63 0).wellFormed = false ∧ (Instr.swd 1 256 0).wellFormed = false := by decide
theorem test_illFormed_acas : (Instr.acas 3 1 0 0 0).wellFormed = false := by decide
theorem test_illFormed_fence : (Instr.fence 5 0).wellFormed = false ∧ (Instr.waitp 5 0).wellFormed = false := by decide
theorem test_illFormed_disarm : (Instr.disarm 5 0).wellFormed = false := by decide
theorem test_illFormed_qpush : (Instr.qpush 1 2 3 5 0).wellFormed = false ∧ (Instr.qpushc 1 2 3 7 0).wellFormed = false := by decide
theorem test_illFormed_vdot2 : (Instr.vdot2 1 2 3 1 0).wellFormed = false := by decide
theorem test_illFormed_vbaq : (Instr.vbaq 21 1 2 3 0).wellFormed = false := by decide
theorem test_illFormed_vcvt : (Instr.vcvt 1 2 0 13 0 0).wellFormed = false ∧ (Instr.vcvt 1 2 0 0 13 0).wellFormed = false ∧
    (Instr.vcvt 5 6 4 3 0 0).wellFormed = false := by decide
theorem test_illFormed_vext : (Instr.vext 1 8 2 1 0).wellFormed = false ∧ (Instr.vins 1 2 2 3 0).wellFormed = false := by decide
theorem test_illFormed_vcmp : (Instr.vcmp 1 2 3 5 0 0).wellFormed = false ∧ (Instr.vany 1 2 3 6 0 0).wellFormed = false ∧
    (Instr.vall 1 2 3 7 0 0).wellFormed = false := by decide
theorem test_illFormed_fcvt : (Instr.fcvt 1 2 3 3 0).wellFormed = false ∧ (Instr.fcvt 1 2 4 5 0).wellFormed = false := by decide
theorem test_illFormed_srr : (Instr.srr 1 0x00D 0).wellFormed = false ∧ (Instr.srw 1 0x206 0).wellFormed = false ∧
    (Instr.srs 1 0x60C 0).wellFormed = false ∧ (Instr.src 1 0x809 0).wellFormed = false := by decide
theorem test_illFormed_tlbi : (Instr.tlbi 1 0 0).wellFormed = false ∧ (Instr.tlbiAll 4 0).wellFormed = false := by decide
theorem test_illFormed_query : (Instr.feat 1 3 0).wellFormed = false ∧ (Instr.topo 1 9 0).wellFormed = false ∧
    (Instr.idr 1 10 0).wellFormed = false := by decide
theorem test_illFormed_rndx : (Instr.rndx 5).wellFormed = false := by decide

/-! ## Words, as the spec writes them out, and what they decode to -/

/-- R56: bits [31:26] 0x01, kind 8 to 15 in [25:22]. -/
theorem test_decode_hints : decode 0x04001FC0 = .ok (.immx 0x1FC0) ∧ decode 0x04400003 = .ok (.rndx 3) ∧
    decode 0x04800043 = .ok (.cachex 1 0 0 3) ∧ decode 0x04C00002 = .ok (.scopex 2) ∧
    decode 0x05230010 = .ok (.prefx 1 3 16) ∧ decode 0x06400007 = .ok (.ignoredHint 1 7) := ⟨rfl, rfl, rfl, rfl, rfl, rfl⟩
theorem test_decode_integer : decode 0x08D28C20 = .ok (.mulD 13 10 12 0) ∧ decode 0x096340A8 = .ok (.or 22 13 0 0) ∧
    decode 0x0D658080 = .ok (.addi 22 22 16 0) ∧ decode 0x1CC10008 = .ok (.shli 12 4 0 1 0) ∧
    decode 0x2D300000 = .ok (.movi 19 0 0) := ⟨rfl, rfl, rfl, rfl, rfl⟩
theorem test_decode_compare : decode 0x2082C000 = .ok (.cmp 1 0 11 0 0 0) ∧ decode 0x21244C00 = .ok (.cmp 2 2 17 12 0 0) := ⟨rfl, rfl⟩
theorem test_decode_control : decode 0x313FFFFB = .ok (.br 2 0x3FFFFB) ∧ decode 0x3400001E = .ok (.call 0 30) ∧
    decode 0x3CBFFEE8 = .ok (.loop 11 0x1FFDD 0) ∧ decode 0x38000008 = .ok (.ret 0) := ⟨rfl, rfl, rfl, rfl⟩
theorem test_decode_memory : decode 0x48F14000 = .ok (.ldw 15 5 0 0) ∧ decode 0x62058000 = .ok (.ldv 16 22 0 0) ∧
    decode 0x66A5C000 = .ok (.stv 21 23 0 0) ∧ decode 0x6D304200 = .ok (.swd 19 64 0) ∧
    decode 0x6A026208 = .ok (.ldxW 16 9 17 0) ∧ decode 0x69425538 = .ok (.stblk 20 9 21 0) := ⟨rfl, rfl, rfl, rfl, rfl, rfl⟩
theorem test_decode_atomics : decode 0x70C27000 = .ok (.aadd 12 9 3 0 0) ∧ decode 0x70A24078 = .ok (.acas 10 9 0 1 0) ∧
    decode 0x74124500 = .ok (.qadd 1 9 5 0 0) ∧ decode 0x748246E8 = .ok (.qfaddx 4 0 9 3 1 0) := ⟨rfl, rfl, rfl, rfl⟩
theorem test_decode_ordering : decode 0x78C24800 = .ok (.ldfe 12 9 1 0) ∧ decode 0x78D25010 = .ok (.stfe 13 9 2 0) ∧
    decode 0x7C000300 = .ok (.fence 3 0) ∧ decode 0x7CC24008 = .ok (.ldaD 12 9 0) ∧ decode 0x7CD24018 = .ok (.stlD 13 9 0) :=
  ⟨rfl, rfl, rfl, rfl, rfl⟩
theorem test_decode_rows : decode 0x80000000 = .ok (.yield 0) ∧ decode 0x80000010 = .ok (.halt 0) ∧ decode 0x80824018 = .ok (.arm 1 9 0) ∧
    decode 0x80000420 = .ok (.disarm 4 0) ∧ decode 0x80000028 = .ok (.waitm 0) ∧ decode 0x81028B30 = .ok (.spawn 2 10 11 0) ∧
    decode 0x80024038 = .ok (.migr 9 0) ∧ decode 0x80C34040 = .ok (.stepx 12 13 0) := ⟨rfl, rfl, rfl, rfl, rfl, rfl, rfl, rfl⟩
theorem test_decode_channels : decode 0x84930800 = .ok (.qpush 9 3 1 0 0) ∧ decode 0x84930A08 = .ok (.qpushc 9 3 1 2 0) ∧
    decode 0x84A31010 = .ok (.qpop 10 3 2 0) ∧ decode 0x84B30020 = .ok (.qcnt 11 3 0) ∧ decode 0x84000028 = .ok (.tailret 0) :=
  ⟨rfl, rfl, rfl, rfl, rfl⟩
theorem test_decode_sends : decode 0x88824000 = .ok (.send 1 9 0) ∧ decode 0x89024010 = .ok (.halo 2 9 0) ∧
    decode 0x89824018 = .ok (.wmk 3 9 0) := ⟨rfl, rfl, rfl⟩
theorem test_decode_hold : decode 0x8CA25000 = .ok (.hclaim 10 9 2 0) ∧ decode 0x8C028008 = .ok (.hwait 10 0) ∧
    decode 0x8C028030 = .ok (.hend 1 10 0) := ⟨rfl, rfl, rfl⟩
theorem test_decode_walker : decode 0x90824A00 = .ok (.kwalk 1 9 10 0) ∧ decode 0x9102CA08 = .ok (.kapnd 2 11 10 0) ∧
    decode 0x91824A10 = .ok (.ksum 3 9 10 0) ∧ decode 0x90030018 = .ok (.kstat 0 12 0) ∧ decode 0x90034020 = .ok (.kstat 1 13 0) :=
  ⟨rfl, rfl, rfl, rfl, rfl⟩
theorem test_decode_matrix : decode 0x94C24800 = .ok (.mxq 12 9 1 0) ∧ decode 0x94D25008 = .ok (.mxs 13 9 2 0) ∧
    decode 0x94E30010 = .ok (.mxw 14 12 0) ∧ decode 0x94E31818 = .ok (.mxt 14 12 3 0) ∧ decode 0x94030820 = .ok (.mxcan 12 1 0) :=
  ⟨rfl, rfl, rfl, rfl, rfl⟩
theorem test_decode_gateway : decode 0x98824000 = .ok (.gnext 1 9 0) ∧ decode 0x99028008 = .ok (.gdone 2 10 0) := ⟨rfl, rfl⟩
theorem test_decode_launch : decode 0x9CC24800 = .ok (.launch 12 9 1 0) ∧ decode 0x9C000008 = .ok (.lhint 0) ∧
    decode 0x9C000310 = .ok (.waitp 3 0) ∧ decode 0x9CD30018 = .ok (.cancel 13 12 0 0) ∧ decode 0x9C02C020 = .ok (.joinw 11 0 0) :=
  ⟨rfl, rfl, rfl, rfl, rfl⟩
theorem test_decode_vector : decode 0xA6529140 = .ok (.vxor 18 18 18 0 0) ∧ decode 0xA2508130 = .ok (.vdot2 18 16 16 2 0) ∧
    decode 0xB6720008 = .ok (.vrsum 19 18 0 1 0) ∧ decode 0xB28A0028 = .ok (.vbcast 20 20 1 0) ∧
    decode 0xA2B08850 = .ok (.vmul 21 16 17 2 0) ∧ decode 0xA8864500 = .ok (.vndot 4 6 8 0 0) ∧
    decode 0xACA61180 = .ok (.vcvt 5 6 2 3 0 0) := ⟨rfl, rfl, rfl, rfl, rfl, rfl, rfl⟩
theorem test_decode_float : decode 0xC1010C80 = .ok (.fcvt 16 4 1 4 0) ∧ decode 0xC1299048 = .ok (.fdiv 18 38 16 1 0) := ⟨rfl, rfl⟩
theorem test_decode_system : decode 0xE0002100 = .ok (.trap 0x21 0) ∧ decode 0xE0000008 = .ok (.eret 0) ∧ decode 0xE0000010 = .ok (.bkpt 0) ∧
    decode 0xE0900918 = .ok (.srr 9 9 0) ∧ decode 0xE0A00820 = .ok (.srw 10 8 0) ∧ decode 0xE0B80828 = .ok (.srs 11 0x808 0) ∧
    decode 0xE0C00630 = .ok (.src 12 6 0) := ⟨rfl, rfl, rfl, rfl, rfl, rfl, rfl⟩
theorem test_decode_maintenance : decode 0xE4024100 = .ok (.cflush 9 1 0) ∧ decode 0xE4024318 = .ok (.tlbi 9 3 0) ∧
    decode 0xE4024020 = .ok (.xbset 9 0) ∧ decode 0xE4824028 = .ok (.wayset 1 9 0) ∧ decode 0xE4518030 = .ok (.wfx 5 6 0) :=
  ⟨rfl, rfl, rfl, rfl, rfl⟩
theorem test_decode_query : decode 0xE9900028 = .ok (.time 25 0) ∧ decode 0xE8A00820 = .ok (.idr 10 8 0) := ⟨rfl, rfl⟩

/-- R57: an opcode of no group, and a reserved field that is not 0. -/
theorem test_decode_refused : decode 0x00000000 = .error .illegalOpcode ∧ decode 0xFC000000 = .error .illegalOpcode ∧
    decode 0x38000108 = .error .illegalField ∧ decode 0x84930D08 = .error .illegalField := ⟨rfl, rfl, rfl, rfl⟩

/-! ## One step on small states: results that the spec's chapters work out -/

/-- R281, R282: the table of worked results. -/
theorem test_addW_wraps : ((behind (.addW 3 1 2 0) (reg 1 0x7FFFFFFF (reg 2 1 base))).me).rg 3 = 0xFFFFFFFF80000000 := by decide +kernel
theorem test_div_edge : ((behind (.divD 3 1 2 0) (reg 1 0x8000000000000000 (reg 2 (-1) base))).me).rg 3 = 0x8000000000000000 := by
  decide +kernel
theorem test_rem_edge : ((behind (.remD 3 1 2 0) (reg 1 0x8000000000000000 (reg 2 (-1) base))).me).rg 3 = 0 := by decide +kernel
theorem test_div_truncates : ((behind (.divD 3 1 2 0) (reg 1 (-7) (reg 2 2 base))).me).rg 3 = -3 := by decide +kernel
theorem test_rem_sign : ((behind (.remD 3 1 2 0) (reg 1 (-7) (reg 2 2 base))).me).rg 3 = -1 := by decide +kernel
theorem test_divn_zero : ((behind (.divnD 3 1 2 0) (reg 1 7 base)).me).rg 3 = 0xFFFFFFFFFFFFFFFF := by decide +kernel
theorem test_remn_zero : ((behind (.remnD 3 1 2 0) (reg 1 7 base)).me).rg 3 = 7 := by decide +kernel
theorem test_divW_low_words :
    ((behind (.divW 3 1 2 0) (reg 1 0x0000000100000006 (reg 2 0xFFFFFFFF00000004 base))).me).rg 3 = 1 := by decide +kernel
theorem test_mulhn : ((behind (.mulhn 3 1 2 0) (reg 1 (-1) (reg 2 (-1) base))).me).rg 3 = 0xFFFFFFFFFFFFFFFE := by decide +kernel
theorem test_mulh : ((behind (.mulh 3 1 2 0) (reg 1 (-1) (reg 2 (-1) base))).me).rg 3 = 0 := by decide +kernel
theorem test_rot : ((behind (.rot 3 1 2 0) (reg 1 0x8000000000000001 (reg 2 1 base))).me).rg 3 = 3 := by decide +kernel
theorem test_sraiW : ((behind (.srai 3 1 1 4 0) (reg 1 0x80000000 base)).me).rg 3 = 0xFFFFFFFFF8000000 := by decide +kernel
theorem test_clzW : ((behind (.clzW 3 1 0) (reg 1 0x100000000 base)).me).rg 3 = 32 := by decide +kernel
theorem test_bext : ((behind (.bext 3 1 2 0) (reg 1 0x12345678 (reg 2 0x0804 base))).me).rg 3 = 0x67 := by decide +kernel
theorem test_bins : ((behind (.bins 3 1 2 0) (reg 3 (-1) (reg 2 0x043E base))).me).rg 3 = 0x3FFFFFFFFFFFFFFF := by decide +kernel

/-- N22, fetched and run: MUL g13, g10, g12; the row goes on behind the group (R53). -/
theorem test_step_mul : ((ran 0x08D28C20 (fun s => reg 10 6 (reg 12 7 s))).me).rg 13 = 42 ∧
    (ran 0x08D28C20 (fun s => s)).me.pc = 0x1004 := ⟨by decide +kernel, by decide +kernel⟩

/-- R47: a guard whose predicate is 0. -/
theorem test_guard_zero : ((behind (.addD 3 1 2 1) (reg 1 5 base)).me).rg 3 = 0 := by decide +kernel

/-- R49, R292: CALL 30 words on from 0x1000 writes the address behind itself to g63. -/
theorem test_call : (ran 0x3400001E (fun s => s)).me.pc = 0x1078 ∧ ((ran 0x3400001E (fun s => s)).me).rg 63 = 0x1004 :=
  ⟨by decide +kernel, by decide +kernel⟩

/-- R294: LOOP from 1 goes on, LOOP from 0 transfers. -/
theorem test_loop_last : (behind (.loop 11 0x1FFDD 0) (reg 11 1 base)).me.pc = 0x1004 := by decide +kernel
theorem test_loop_wraps : ((behind (.loop 11 0x1FFDD 0) base).me).rg 11 = -1 ∧ (behind (.loop 11 0x1FFDD 0) base).me.pc = 0xF74 :=
  ⟨by decide +kernel, by decide +kernel⟩

/-- R8, R304: a store of 8 bytes, lowest first, and a load of 4 of them. -/
theorem test_store_load : ((behind (.ldw 3 1 1 0) (behind (.std 2 1 0 0) (reg 1 0x40 (reg 2 0x1122334455667788 dram)))).me).rg 3 =
    0x11223344 := by decide +kernel

/-- R301: LDD of an address that is no multiple of 8 raises ALIGN; with TVEC 0 it is posted. -/
theorem test_align_posted : (behind (.ldd 3 1 0 0) (reg 1 4 dram)).me.st = .faulted := by decide +kernel

/-- R228, R312: AADD returns the old value and stores the sum. -/
theorem test_aadd : ((behind (.aadd 2 1 0 0 0) (reg 1 0x40 (reg 2 5 dram))).me).rg 2 = 0 ∧
    (behind (.aadd 2 1 0 0 0) (reg 1 0x40 (reg 2 5 dram))).mem.read 0x18000040 = 5 := ⟨by decide +kernel, by decide +kernel⟩

/-- R313: a scatter of four words raises PEND by 4. -/
theorem test_scatter_pend : (behind (.qaddx 4 0 9 3 1 0) (reg 9 0x1000 (vreg 3 (BitVec.ofNat 128 (2 * 2 ^ 32 + 5 * 2 ^ 96)) dram))).me.pend = 4 := by
  decide +kernel

/-- R133, R322: the first step of the worked sequence: entry 510 at 0x2_3FF0. -/
def ch3 : State := col (fun c => { c with chans := c.chans.set 3 ⟨510, 510, 0, false, 0, 0⟩ }) base
theorem test_qpush_wraps : (((behind (.qpush 9 3 1 0 0) (reg 9 5 ch3)).col 0).scratch.readBytes 0x23FF0 1 = [5]) ∧
    ((behind (.qpush 9 3 1 0 0) (reg 9 5 ch3)).chan 0 3).tail = 511 := ⟨by decide +kernel, by decide +kernel⟩

/-- R322: behind its third step QCNT returns 0x000F_F803. -/
theorem test_qcnt : ((behind (.qcnt 11 3 0) (col (fun c => { c with chans := c.chans.set 3 ⟨510, 1, 3, false, 0, 1⟩ }) base)).me).rg 11 =
    0x000FF803 := by decide +kernel

/-- R172: the worked entry of a row at site 237, bank 5, group 3, index 100. -/
theorem test_directory_entry : (DirEntry.mk 237 5 3 100 true false).toBits = 0x10C874ED := by decide

/-- R12: site 237 lies in field 1 and span 14. -/
theorem test_geometry : fieldOfSite 237 = 1 ∧ spanOfSite 237 = 14 := by decide

/-- R177: the worked translation: bits 47 to 39, 38 to 30, 29 to 21 and 20 to 16 of the address index the levels; its leaf. -/
def tables : State :=
  { base with mem := ((((base.mem.writeBytes 0x20000008 (toBytes 8 (0x20001001#64))).writeBytes 0x20001008 (toBytes 8 (0x20002001#64))).writeBytes
      0x20002008 (toBytes 8 (0x20003001#64))).writeBytes 0x20003018 (toBytes 8 (0x00000076B0100207#64))) }
theorem test_walk : (match (tables.setTen 0 { tables.ten 0 with ptbase := 0x20000000 }).walk 0 0x008040231234 with
    | .ok e => e.frame + 0x1234 == 0x76B0101234 && e.attr == ⟨true, false, 0, false, 2, false, false, false⟩ | .error _ => false) = true := by decide +kernel

/-- R263: TRAP 0x21 at 0x1000 with TVEC 0x2000 enters the handler. -/
def handler : State := dram.setTen 0 { dram.ten 0 with tvec := 0x2000 }
def frec : State := row (fun r => { r with frec := 0x80 }) handler
theorem test_trap : (behind (.trap 0x21 0) frec).me.epc = 0x1004 ∧ (behind (.trap 0x21 0) frec).me.cause = 0x2120 ∧
    (behind (.trap 0x21 0) frec).me.pc = 0x2000 ∧ (behind (.trap 0x21 0) frec).me.trapact = true :=
  ⟨by decide +kernel, by decide +kernel, by decide +kernel, by decide +kernel⟩
theorem test_eret : (behind (.eret 0) (row (fun r => { r with epc := 0x1304, trapact := true }) base)).me.pc = 0x1304 ∧
    (behind (.eret 0) (row (fun r => { r with epc := 0x1304, trapact := true }) base)).me.trapact = false :=
  ⟨by decide +kernel, by decide +kernel⟩

/-- R381 of the system chapter: SRR of CAUSE. -/
theorem test_srr_cause : ((ran 0xE0900918 (row fun r => { r with cause := 0x2120 })).me).rg 9 = 0x2120 := by decide +kernel

/-- R344 of the vector chapter: the worked VNDOT on trits; v8 holds 1 to 16. -/
def trits : State := row (fun r => { r with fmt := 12 }) (vreg 6 0x4D4D4D4D (vreg 8 (0x100F0E0D0C0B0A090807060504030201#128) base))
theorem test_vndot : ((behind (.vndot 4 6 8 0 0) trits).me).rv 4 = 0x0000000F0000000B0000000700000003#128 := by decide +kernel

/-- R350 of the vector chapter: the worked conversion of four F32 lanes into elements 8 to 11. -/
def lanes : State := vreg 6 (0x3A8000008000000043E880003FA80000#128) base
theorem test_vcvt : ((behind (.vcvt 5 6 2 3 0 0) lanes).me).rv 5 = 0x00807F3A0000000000000000#128 ∧
    (behind (.vcvt 5 6 2 3 0 0) lanes).me.exc = 7 := ⟨by decide +kernel, by decide +kernel⟩

/-- The table of worked conversions to E4 (R75): value, mode and saturation. -/
theorem test_convert_e4 :
    ((rewrite FFmt.e4 ⟨.rne, false, false⟩ (FFmt.f32.read 0x3FA80000) false).1 = 0x3A) ∧
    ((rewrite FFmt.e4 ⟨.rna, false, false⟩ (FFmt.f32.read 0x3FA80000) false).1 = 0x3B) ∧
    ((rewrite FFmt.e4 ⟨.rne, true, false⟩ (FFmt.f32.read 0x43E88000) false).1 = 0x7E) ∧
    ((rewrite FFmt.e4 ⟨.rne, false, false⟩ (FFmt.f32.read 0x43E88000) false).1 = 0x7F) := by decide +kernel

/-- N72: 60 / 16 = 3.75 in F32. -/
theorem test_fdiv : ((behind (.fdiv 18 38 16 1 0) (reg 38 0x42700000 (reg 16 0x41800000 base))).me).rg 18 = 0x40700000 := by decide +kernel

/-- N40: (16 + 16) + (16 + 12) = 60. -/
theorem test_vrsum : ((behind (.vrsum 19 18 0 1 0) (vreg 18 (0x41400000418000004180000041800000#128) base)).me).rv 19 = 0x42700000#128 := by
  decide +kernel

/-- The worked selection of R250: with group 5 last, level 2 comes first; then group 3 behind 12, and there the earlier. -/
def cand (id : Nat) (g : BitVec 4) (lv : BitVec 2) (at_ : Nat) : Cand := ⟨⟨0, BitVec.ofNat 32 id⟩, g, lv, at_, ⟨0, 0, 0, false, 16, 0, 0, 1, none⟩⟩
theorem test_choose : (choose 5 [cand 0x101 3 1 0, cand 0x104 12 2 60, cand 0x106 3 1 50]).map (·.key.n) = some 0x104 ∧
    (choose 12 [cand 0x106 3 1 50, cand 0x101 3 1 0, cand 0x102 9 1 10]).map (·.key.n) = some 0x101 := ⟨by decide, by decide⟩

/-! ## Witnesses: a state and operands that meet the hypotheses of each statement, clause by clause -/

/-- Has a computation given a result? -/
def fine {α : Type} : Res α → Bool
  | .ok _ _ => true
  | .fault _ => false
  | .wait _ _ => false
  | .stall => false
  | .miss _ => false
  | .move _ => false

/-- The state that a computation leaves. -/
def got {α : Type} (x : Res α) : State :=
  match x with
  | .ok _ t => t
  | .fault _ => State.reset
  | .wait _ _ => State.reset
  | .stall => State.reset
  | .miss _ => State.reset
  | .move _ => State.reset

theorem of_fine {α : Type} {x : Res α} (h : fine x = true) : ∃ v, x = .ok v (got x) := by
  cases x with
  | ok v t => exact ⟨v, rfl⟩
  | fault e => cases h
  | wait a b => cases h
  | stall => cases h
  | miss a => cases h
  | move n => cases h

/-- Does an instruction complete? -/
def goesOn (i : Instr) (s : State) : Bool :=
  match exec i s with
  | .next _ => true
  | .fault _ => false
  | .refused _ => false

theorem of_goesOn {i : Instr} {s : State} (h : goesOn i s = true) : ∃ t, exec i s = .next t := by
  unfold goesOn at h
  split at h
  · rename_i t e; exact ⟨t, e⟩
  · cases h
  · cases h

/-- The row issues in its seat. -/
theorem base_executes : Executes base 0 := ⟨by decide +kernel, by decide +kernel⟩
theorem dram_executes : Executes dram 0 := ⟨by decide +kernel, by decide +kernel⟩

/-- A row of the tenant that is not the issuing one, in a given state of its control block; the directory holds it at site 0. -/
def other : RowKey := ⟨0, 1⟩
def two : State := (base.setTen 0 { base.ten 0 with dirsize := 2 }).setDir other ⟨0, 1, 1, 1, true, false⟩
def pair (f : Row → Row) : State := two.setRow other (f (two.row other))

/-- An event's place: the row `other`, element 0 of every queue. -/
def at_ (s : State) (f : Sel → Sel) : State := { s with sel := f s.sel }

theorem witness_StepKeepsForm : MemoryForm base ∧ ∃ t, step base = .next t :=
  ⟨⟨by decide +kernel, by decide +kernel⟩, ⟨_, rfl⟩⟩
theorem witness_HomeWrites : State.reset.mem.wf = true := by decide +kernel
theorem witness_GuardedWords : (guardOf (.addD 3 1 2 1) = some 1 ∧ Skips base 1) ∧
    ((Instr.addD 3 1 2 0).isWord = true ∧ State.reset.seated = false) :=
  ⟨⟨rfl, by decide +kernel, by decide +kernel⟩, rfl, by decide +kernel⟩

/-- A MUL and a SCOPEX on their way to be issued; a LDA behind a SCOPEX; a load whose page a walk that is outstanding will give. -/
def mulNext : State := State.reset.withFetchWord 32 0x08D28C20
def hintNext : State := State.reset.withFetchWord 32 0x04C00002
def ldaNext : State := row (fun r => { r with run := [0x04C00002], mid := .restart, inGroup := true, pc := 0x0FFC }) (State.reset.withFetchWord 32 0x7CC24008)
def lddNext : State := let s := State.reset.withFetchWord 32 0x4CC24000; s.setSpan 0 { s.span 0 with walks := [⟨0, 0, [], [0], [], false⟩] }
def sat (s : State) : State := State.sit { s with schedule := [] } ⟨0, 0, 0⟩
/-- Nothing else is due before the issue that the schedule gives. -/
def onTurn (s : State) : Bool :=
  s.run.isEmpty && s.schedule == [.issue 0 0 0] && (let u := sat s; u.seated && u.me.await.isNone && (u.leaving u.cur).isNone && u.myTurn &&
    !u.owesFirst && u.ready && decide (u.issueTime (u.executor u.here u.seat.bank) u.me ≤ u.horizon (u.issueTime (u.executor u.here u.seat.bank) u.me)) &&
    (u.me.again ≠ [] || u.clockIssue.takeUp.fetchFault.isNone))
def taken_ (s : State) : State := let t := (sat s).clockIssue.takeUp; t.setMe { t.me with again := [] }
/-- The words of a group that is tried again: it stands where another word stands now. -/
def tryAgain : State := row (fun r => { r with again := [0x04C00002, 0x7CC24008], mid := .restart, inGroup := true, pc := 0x0FFC }) mulNext
theorem witness_StepRunsDecoded_turn : onTurn mulNext = true ∧ decode (taken_ mulNext).fetched = .ok (.mulD 13 10 12 0) ∧
    isRunHint (taken_ mulNext).fetched = false ∧ (taken_ mulNext).groupFault (taken_ mulNext).fetched = none ∧
    (∃ t, exec (.mulD 13 10 12 0) ((taken_ mulNext).forWord (.mulD 13 10 12 0)) = .next t) ∧
    (behind (.mulD 13 10 12 0) ((taken_ mulNext).forWord (.mulD 13 10 12 0))).run = [] ∧
    (behind (.mulD 13 10 12 0) ((taken_ mulNext).forWord (.mulD 13 10 12 0))).redo = false :=
  ⟨by decide +kernel, rfl, by decide +kernel, by decide +kernel, of_goesOn (by decide +kernel), by decide +kernel, by decide +kernel⟩
theorem witness_StepRunsDecoded_hint : onTurn hintNext = true ∧ decode (taken_ hintNext).fetched = .ok (.scopex 2) ∧
    isRunHint (taken_ hintNext).fetched = true ∧ (behind (.scopex 2) (taken_ hintNext)).run ≠ [] :=
  ⟨by decide +kernel, rfl, by decide +kernel, by decide +kernel⟩
theorem witness_StepRunsDecoded_group : onTurn ldaNext = true ∧ decode (taken_ ldaNext).fetched = .ok (.ldaD 12 9 0) ∧
    (taken_ ldaNext).run ≠ [] ∧ isRunHint (taken_ ldaNext).fetched = false ∧ (taken_ ldaNext).groupFault (taken_ ldaNext).fetched = none ∧
    ∃ t, exec (.ldaD 12 9 0) ((taken_ ldaNext).forWord (.ldaD 12 9 0)) = .next t :=
  ⟨by decide +kernel, rfl, by decide +kernel, by decide +kernel, by decide +kernel, of_goesOn (by decide +kernel)⟩
/-- The load waits for the walk of its page: it is tried again. -/
theorem witness_StepRunsDecoded_stall : onTurn lddNext = true ∧ (match decode (taken_ lddNext).fetched with
    | .ok i => (behind i ((taken_ lddNext).forWord i)).redo && decide ((behind i ((taken_ lddNext).forWord i)).me.prog = (sat lddNext).me.prog) &&
      (behind i ((taken_ lddNext).forWord i)).run.isEmpty
    | .error _ => false) = true := ⟨by decide +kernel, by decide +kernel⟩
theorem witness_StepRunsDecoded_again : onTurn tryAgain = true ∧ ((sat tryAgain).me).again = [0x04C00002] ++ [0x7CC24008] ∧
    decode 0x7CC24008 = .ok (.ldaD 12 9 0) ∧
    (∃ t, exec (.ldaD 12 9 0) (State.forWord { taken_ tryAgain with run := [0x04C00002] } (.ldaD 12 9 0)) = .next t) :=
  ⟨by decide +kernel, by decide +kernel, rfl, of_goesOn (by decide +kernel)⟩
theorem witness_StepRunsDecoded_event (sel : Sel) :
    let s : State := { base with schedule := [.event .wake sel] }
    let u : State := { base with schedule := [.wait 3] }
    (s.run = [] ∧ s.schedule = .event .wake sel :: [] ∧ (Instr.wake).isWord = false) ∧ u.run = [] ∧ u.schedule = .wait 3 :: [] :=
  ⟨⟨rfl, rfl, rfl⟩, rfl, rfl⟩
theorem witness_RoundTrip : (Instr.loop 11 0x1FFDD 0).wellFormed = true ∧ (Instr.loop 11 0x1FFDD 0).isWord = true := ⟨rfl, rfl⟩
theorem witness_DecodingIsStrict : decode 0x3CBFFEE8 = .ok (.loop 11 0x1FFDD 0) := rfl

theorem witness_ControlResults : base.seated = true ∧ Executes base 0 ∧ ((base.me).rp 0 = true ∧ (base.me).rp 1 = false) ∧
    ((reg 1 0x2000 base).me).rg 1 = 0x2000 ∧ Executes (reg 1 0x2001 base) 0 :=
  ⟨by decide +kernel, base_executes, ⟨by decide +kernel, by decide +kernel⟩, by decide +kernel, ⟨by decide +kernel, by decide +kernel⟩⟩
theorem witness_IntegerResults : Executes base 0 ∧ Executes (reg 2 5 base) 0 := ⟨base_executes, by decide +kernel, by decide +kernel⟩
theorem witness_BitResults : Executes (reg 1 (-1) base) 0 := ⟨by decide +kernel, by decide +kernel⟩
theorem witness_ImmediateResults : Executes base 0 ∧ base.run = [] := ⟨base_executes, rfl⟩

/-- R301: the sizes of an access, and an address that is no multiple of any but the smallest. -/
theorem witness_LoadResults_reads : Executes dram 0 ∧
    (∃ bs, (dram.prefx 0).rowLoad dram.cache 0 1 = .ok bs (got ((dram.prefx 0).rowLoad dram.cache 0 1))) ∧
    (∃ bs, (dram.prefx 2).rowLoad dram.cache 2 2 = .ok bs (got ((dram.prefx 2).rowLoad dram.cache 2 2))) ∧
    (∃ bs, (dram.prefx 4).rowLoad dram.cache 4 4 = .ok bs (got ((dram.prefx 4).rowLoad dram.cache 4 4))) ∧
    (∃ bs, (dram.prefx 8).rowLoad dram.cache 8 8 = .ok bs (got ((dram.prefx 8).rowLoad dram.cache 8 8))) ∧
    (∃ bs, (dram.prefx 16).rowLoad dram.cache 16 16 = .ok bs (got ((dram.prefx 16).rowLoad dram.cache 16 16))) :=
  ⟨dram_executes, of_fine (by decide +kernel), of_fine (by decide +kernel), of_fine (by decide +kernel), of_fine (by decide +kernel),
    of_fine (by decide +kernel)⟩
/-- R60: a word without a PREFX before it waits for no walk; one whose prefetch has its page at hand goes on too. -/
def prefetching : State := { dram with run := [0x05000000] }
theorem witness_LoadResults_prefetch : (∀ va, dram.prefxWaits va = .ok () dram) ∧ prefetching.prefxWaits 0x40 = .ok () prefetching := ⟨fun _ => rfl, rfl⟩
theorem witness_LoadResults_traps : Executes (reg 1 1 base) 0 ∧ (((reg 1 1 base).me).rg 1).toNat % 2 ≠ 0 ∧
    (((reg 1 1 base).me).rg 1).toNat % 16 ≠ 0 := ⟨⟨by decide +kernel, by decide +kernel⟩, by decide +kernel, by decide +kernel⟩
theorem witness_StoreResults : Executes dram 0 ∧ (∃ u, dram.rowStore dram.cache 0 (natToBytes 1 0) = .ok u (got (dram.rowStore dram.cache 0 (natToBytes 1 0)))) ∧
    (∃ u, dram.rowStore dram.cache 2 (natToBytes 2 7) = .ok u (got (dram.rowStore dram.cache 2 (natToBytes 2 7)))) ∧
    (∃ u, dram.rowStore dram.cache 4 (natToBytes 4 7) = .ok u (got (dram.rowStore dram.cache 4 (natToBytes 4 7)))) ∧
    (∃ u, dram.rowStore dram.cache 8 (natToBytes 8 7) = .ok u (got (dram.rowStore dram.cache 8 (natToBytes 8 7)))) ∧
    (∃ u, dram.rowStore dram.cache 16 (natToBytes 16 7) = .ok u (got (dram.rowStore dram.cache 16 (natToBytes 16 7)))) :=
  ⟨dram_executes, of_fine (by decide +kernel), of_fine (by decide +kernel), of_fine (by decide +kernel), of_fine (by decide +kernel),
    of_fine (by decide +kernel)⟩
theorem witness_StoreEffects : (MemoryForm State.reset ∧ (∀ c ∈ State.reset.cols, c.2.line (0x18000000 / 256) = none) ∧
    levelOf pageSo.attr CacheHint.none ≠ 0) ∧
    (([5] : List Byte).length = 1 ∧ 0x1800001F % 256 + 1 ≤ 256 ∧ 0x1800001F % 32 + 1 ≤ 32 ∧ 0 < 1 ∧
      (∀ x, 0x1800001F ≤ x → x < 0x1800001F + 1 → State.reset.dirKeeps x = false) ∧
      ∀ l, (State.reset.col 0).line (0x1800001F / 256) = some l → l.data.wf = true ∧ l.bad = []) ∧
    ((∀ c ∈ State.reset.cols, c.1 ≠ 0 → c.2.line (0x1800001F / 256) = none) ∧
      ((State.reset.col 0).cache.filter (fun l => l.line % 256 == 0x1800001F / 256 % 256)).length < 12) :=
  ⟨⟨⟨by decide +kernel, by decide +kernel⟩, by decide +kernel, by decide +kernel⟩,
    ⟨by decide +kernel, by decide +kernel, by decide +kernel, by decide +kernel, fun x h h' => by
      rw [show x = 0x1800001F by omega]; decide +kernel,
      fun _ h => by rw [show (State.reset.col 0).line (0x1800001F / 256) = none by decide +kernel] at h; cases h⟩,
    by decide +kernel, by decide +kernel⟩

/-- Units performed one after the other. -/
def unitsEnd (f : Nat → State → Res Unit) : Nat → Nat → State → State
  | 0, _, s => s
  | k + 1, i, s => let u := got (f i s); unitsEnd f k (i + 1) (u.setMe { u.me with prog := BitVec.ofNat 32 (i + 1) })

/-- Does each of them give a result? -/
def unitsFine (f : Nat → State → Res Unit) : Nat → Nat → State → Bool
  | 0, _, _ => true
  | k + 1, i, s => fine (f i s) && (let u := got (f i s); unitsFine f k (i + 1) (u.setMe { u.me with prog := BitVec.ofNat 32 (i + 1) }))

theorem unitsDone_of_fine (f : Nat → State → Res Unit) : ∀ (k i : Nat) (s : State), unitsFine f k i s = true →
    UnitsDone f k i s (unitsEnd f k i s)
  | 0, _, _, _ => rfl
  | k + 1, i, s, h => by
    have h : fine (f i s) = true ∧ _ := (Bool.and_eq_true _ _ ▸ h : _)
    obtain ⟨v, e⟩ := of_fine h.1
    exact ⟨got (f i s), e, unitsDone_of_fine f k (i + 1) _ h.2⟩

/-- Elements of a reduction checked one after the other, at DRAM, for a row with nothing in flight. -/
def elems (size : Nat) : List (DWord × DWord) → State → List (Loc × Attr × DWord) × State
  | [], s => ([], s)
  | (va, v) :: es, s =>
    match s.access s.who .atom va size with
    | .ok (l, attr) u => ((l, attr, v) :: (elems size es u).1, (elems size es u).2)
    | _ => ([], s)

def elemsFine (size : Nat) : List (DWord × DWord) → State → Bool
  | [], _ => true
  | (va, _) :: es, s =>
    match s.access s.who .atom va size with
    | .ok (l, _) u => !u.earlyMeets u.cur va size && !u.parkedAt u.cur l size && elemsFine size es u
    | _ => false

theorem elemsAt_of_fine (size : Nat) : ∀ (es : List (DWord × DWord)) (s : State), elemsFine size es s = true →
    ElemsAt size es (elems size es s).1 s (elems size es s).2
  | [], _, _ => ⟨rfl, rfl⟩
  | (va, v) :: es, s, h => by
    cases e : s.access s.who .atom va size with
    | ok x u =>
      simp only [elemsFine, e, Bool.and_eq_true, Bool.not_eq_true'] at h
      simp only [elems, e]
      exact ⟨x.1, x.2, u, _, e, h.1.1, h.1.2, rfl, elemsAt_of_fine size es u h.2⟩
    | fault f => simp only [elemsFine, e] at h; cases h
    | wait a b => simp only [elemsFine, e] at h; cases h
    | stall => simp only [elemsFine, e] at h; cases h
    | miss a => simp only [elemsFine, e] at h; cases h
    | move n => simp only [elemsFine, e] at h; cases h

/-- Sectors of zeros checked one after the other. -/
def zeros (base : DWord) : List Nat → State → List (Loc × Attr) × State
  | [], s => ([], s)
  | j :: js, s =>
    match s.access s.who .store (base + BitVec.ofNat 64 (32 * j)) 32 with
    | .ok x u => (x :: (zeros base js u).1, (zeros base js u).2)
    | _ => ([], s)

def zerosFine (base : DWord) : List Nat → State → Bool
  | [], _ => true
  | j :: js, s =>
    match s.access s.who .store (base + BitVec.ofNat 64 (32 * j)) 32 with
    | .ok (.dram pa, _) u =>
      !u.earlyMeets u.cur (base + BitVec.ofNat 64 (32 * j)) 32 && !u.busyStore u.cur (.dram pa) 32 (u.ops + 1) && zerosFine base js u
    | _ => false

theorem zerosAt_of_fine (base : DWord) : ∀ (js : List Nat) (s : State), zerosFine base js s = true →
    ZerosAt base js (zeros base js s).1 s (zeros base js s).2
  | [], _, _ => ⟨rfl, rfl⟩
  | j :: js, s, h => by
    unfold zerosFine at h
    split at h
    · rename_i pa a u e
      simp only [Bool.and_eq_true, Bool.not_eq_true'] at h
      simp only [zeros, e]
      exact ⟨_, _, u, _, e, h.1.1, h.1.2, rfl, rfl, zerosAt_of_fine base js u h.2⟩
    · cases h

/-- R255, R308: a gather of 8, 4 or 2 lanes and a scatter, from unit 0 or from a unit behind it; a copy of two sectors, and of none. -/
def moved : State := reg 2 0x200 (reg 3 64 dram)
theorem witness_ProgressiveResults_gather : Executes dram 0 ∧ dram.units = none ∧ dram.me.prog.toNat ≤ 2 ∧
    UnitsDone (State.gatherUnit 2 4 0 0) 8 0 { dram with units := none } (unitsEnd (State.gatherUnit 2 4 0 0) 8 0 { dram with units := none }) ∧
    UnitsDone (State.gatherUnit 4 4 0 0) 4 0 { dram with units := none } (unitsEnd (State.gatherUnit 4 4 0 0) 4 0 { dram with units := none }) ∧
    UnitsDone (State.gatherUnit 8 4 0 0) 1 1 { dram with units := none } (unitsEnd (State.gatherUnit 8 4 0 0) 1 1 { dram with units := none }) ∧
    ((row (fun r => { r with prog := 1, gbase := some 8 }) dram).me).gbase = some 8 ∧ (dram.me).gbase = none :=
  ⟨dram_executes, rfl, by decide +kernel, unitsDone_of_fine _ _ _ _ (by decide +kernel), unitsDone_of_fine _ _ _ _ (by decide +kernel),
    unitsDone_of_fine _ _ _ _ (by decide +kernel), by decide +kernel, by decide +kernel⟩
theorem witness_ProgressiveResults_units : (∃ bs, dram.rowLoad dram.cache 4 4 = .ok bs (got (dram.rowLoad dram.cache 4 4))) ∧
    (∃ bs, dram.rowLoad dram.cache 32 32 = .ok bs (got (dram.rowLoad dram.cache 32 32))) ∧ 8 * 4 * (1 + 1) ≤ 128 :=
  ⟨of_fine (by decide +kernel), of_fine (by decide +kernel), by decide⟩
theorem witness_ProgressiveResults_scatter :
    UnitsDone (State.scatterUnit 2 5 0 0) 8 0 { dram with units := none } (unitsEnd (State.scatterUnit 2 5 0 0) 8 0 { dram with units := none }) ∧
    UnitsDone (State.scatterUnit 4 5 0 0) 4 0 { dram with units := none } (unitsEnd (State.scatterUnit 4 5 0 0) 4 0 { dram with units := none }) ∧
    UnitsDone (State.scatterUnit 8 5 0 0) 2 0 { dram with units := none } (unitsEnd (State.scatterUnit 8 5 0 0) 2 0 { dram with units := none }) :=
  ⟨unitsDone_of_fine _ _ _ _ (by decide +kernel), unitsDone_of_fine _ _ _ _ (by decide +kernel),
    unitsDone_of_fine _ _ _ _ (by decide +kernel)⟩
theorem witness_ProgressiveResults_copy : Executes moved 0 ∧ ((moved.me).rg 1).toNat % 32 = 0 ∧ ((moved.me).rg 2).toNat % 32 = 0 ∧
    ((moved.me).rg 3).toNat % 32 = 0 ∧ 0x200 ≤ ((moved.me).rg 2).toNat ∧ ((moved.me).rg 2).toNat + ((moved.me).rg 3).toNat ≤ 0x800 ∧
    UnitsDone (State.ldblkUnit 0 0x200) 2 0 { moved with units := none } (unitsEnd (State.ldblkUnit 0 0x200) 2 0 { moved with units := none }) ∧
    UnitsDone (State.stblkUnit 0 0x7C0) 2 0 { moved with units := none } (unitsEnd (State.stblkUnit 0 0x7C0) 2 0 { moved with units := none }) :=
  ⟨⟨by decide +kernel, by decide +kernel⟩, by decide +kernel, by decide +kernel, by decide +kernel, by decide +kernel, by decide +kernel,
    unitsDone_of_fine _ _ _ _ (by decide +kernel), unitsDone_of_fine _ _ _ _ (by decide +kernel)⟩

/-- R312: an atomic of 8 and of 4 bytes, relaxed, and with acquire and release. -/
def free1 (va : DWord) (size : Nat) : State := got (dram.access dram.who .atom va size)
theorem atomFree_of (va : DWord) (size pa : Nat) (o : BitVec 2)
    (h : (match dram.access dram.who .atom va size with | .ok (l, a) _ => l == .dram pa && a == page.attr | _ => false) = true)
    (h1 : (free1 va size).earlyMeets (free1 va size).cur va size = false) (h2 : (free1 va size).busyAt (free1 va size).cur (.dram pa) size = false)
    (h3 : (free1 va size).releasing (free1 va size).cur = false)
    (h4 : ((free1 va size).atHome (free1 va size).here pa).homeBad pa size = false)
    (h5 : (free1 va size).owesAt (free1 va size).cur (homeSpan pa) = false)
    (h6 : (released (free1 va size) true (dram.scope 3)).mayRelease (homeSpan pa / 8)
      ((released (free1 va size) true (dram.scope 3)).scopeVec (dram.scope 3)) = true) :
    AtomFree dram (free1 va size) va size o pa page.attr := by
  refine ⟨?_, h1, h2, fun _ => h3, h4, h5, fun _ => h6⟩
  unfold free1
  cases e : dram.access dram.who .atom va size with
  | ok x t =>
    rw [e] at h
    obtain ⟨l, a⟩ := x
    simp only [Bool.and_eq_true, beq_iff_eq] at h
    rw [h.1, h.2]; rfl
  | _ => rw [e] at h; cases h
theorem witness_AtomicResults_returning : Executes dram 0 ∧ AtomFree dram (free1 0x40 8) 0x40 8 0 0x18000040 page.attr ∧
    AtomFree dram (free1 0x40 8) 0x40 8 3 0x18000040 page.attr ∧ AtomFree dram (free1 0x44 4) 0x44 4 1 0x18000044 page.attr :=
  ⟨dram_executes,
    atomFree_of _ _ _ _ (by decide +kernel) (by decide +kernel) (by decide +kernel) (by decide +kernel) (by decide +kernel) (by decide +kernel) (by decide +kernel),
    atomFree_of _ _ _ _ (by decide +kernel) (by decide +kernel) (by decide +kernel) (by decide +kernel) (by decide +kernel) (by decide +kernel) (by decide +kernel),
    atomFree_of _ _ _ _ (by decide +kernel) (by decide +kernel) (by decide +kernel) (by decide +kernel) (by decide +kernel) (by decide +kernel) (by decide +kernel)⟩

/-- R313, R314: one element and four; PEND up to 64. -/
def four : List (DWord × DWord) := [(0, 1), (8, 2), (0, 3), (20, 4)]
def full60 : State := row (fun r => { r with pend := 60 }) dram
theorem witness_AtomicResults_queued : Executes dram 0 ∧ dram.early = false ∧
    ElemsAt 8 [(0, 1)] (elems 8 [(0, 1)] dram).1 dram (elems 8 [(0, 1)] dram).2 ∧
    ElemsAt 4 four (elems 4 four full60).1 full60 (elems 4 four full60).2 ∧ (full60.me).pend.toNat + four.length ≤ 64 :=
  ⟨dram_executes, rfl, elemsAt_of_fine _ _ _ (by decide +kernel), elemsAt_of_fine _ _ _ (by decide +kernel), by decide +kernel⟩
/-- A translation at hand while `early` is set; four elements at a PEND of 61. -/
theorem witness_AtomicResults_hit : (let s : State := { dram with early := true }
      s.leavesEarly 0 = false ∧ elemsFine 8 [(0, 1)] s = true) ∧ dram.leavesEarly 0 = false ∧
    64 < ((row (fun r => { r with pend := 61 }) dram).me).pend.toNat + four.length := by decide +kernel
/-- R302: no entry of the TLB is at hand, and a table walk ends at a leaf: a scalar reduction may leave early. -/
def walkingTo : State := (tables.setTen 0 { tables.ten 0 with ptbase := 0x20000000 }).setMe (tables.me.wg 1 0x8040231238)
theorem witness_AtomicResults_early : Executes { walkingTo with early := true } 0 ∧ (walkingTo.me).pend.toNat + 1 ≤ 64 ∧
    aligned ((walkingTo.me).rg 1).toNat 8 = true ∧ ({ walkingTo with early := true } : State).leavesEarly ((walkingTo.me).rg 1) = true ∧
    ({ walkingTo with early := true } : State).earlyMeets walkingTo.cur ((walkingTo.me).rg 1) 8 = false :=
  ⟨⟨by decide +kernel, by decide +kernel⟩, by decide +kernel, by decide +kernel, by decide +kernel, by decide +kernel⟩
theorem witness_AtomicEffect : MemoryForm dram ∧ (∀ c ∈ dram.cols, c.2.line (0x18000040 / 256) = none) ∧
    (∀ x, 0x18000040 ≤ x → x < 0x18000040 + 8 → dram.homeKeeps x = false) :=
  ⟨⟨by decide +kernel, by decide +kernel⟩, by decide +kernel, fun x h h' => by
    have : ∀ i < 8, dram.homeKeeps (0x18000040 + i) = false := by decide +kernel
    have e := this (x - 0x18000040) (by omega)
    rwa [Nat.add_sub_cancel' h] at e⟩

/-- R315: a word that is full, one that is empty, and one whose span has no deferral entry left. -/
def feOf (s : State) : State := got (s.feAccess 0x40)
def emptied : State := dram.setFull 0x18000040 false
def noDefer : State :=
  emptied.setSpan (homeSpan 0x18000040) { emptied.span (homeSpan 0x18000040) with defers := List.replicate 512 ⟨other, 0, 0, 0, 1, 0⟩ }
def feIs (s : State) : Bool := match s.feAccess 0x40 with | .ok (pa, k) _ => pa == 0x18000040 && k == ⟨false, 0⟩ | _ => false
theorem fe_of {s : State} (h : feIs s = true) : s.feAccess 0x40 = .ok (0x18000040, ⟨false, 0⟩) (feOf s) := by
  unfold feIs at h
  unfold feOf
  split at h
  · rename_i pa k t e
    simp only [Bool.and_eq_true, beq_iff_eq] at h
    rw [e, h.1, h.2]; rfl
  · cases h
theorem witness_FullEmptyResults : (Executes dram 0 ∧ dram.feAccess 0x40 = .ok (0x18000040, ⟨false, 0⟩) (feOf dram) ∧
      dram.releasing dram.cur = false ∧ (feOf dram).full 0x18000040 = true ∧
      (released (feOf dram) true (dram.scope 3)).mayRelease (homeField 0x18000040)
        ((released (feOf dram) true (dram.scope 3)).scopeVec (dram.scope 3)) = true) ∧
    (Executes emptied 0 ∧ emptied.feAccess 0x40 = .ok (0x18000040, ⟨false, 0⟩) (feOf emptied) ∧ emptied.releasing emptied.cur = false ∧
      (feOf emptied).full 0x18000040 = false ∧ ((feOf emptied).span (homeSpan 0x18000040)).defers.length < 512) ∧
    (Executes noDefer 0 ∧ noDefer.feAccess 0x40 = .ok (0x18000040, ⟨false, 0⟩) (feOf noDefer) ∧ noDefer.releasing noDefer.cur = false ∧
      (feOf noDefer).full 0x18000040 = false ∧ 512 ≤ ((feOf noDefer).span (homeSpan 0x18000040)).defers.length) :=
  ⟨⟨dram_executes, fe_of (by decide +kernel), by decide +kernel, by decide +kernel, by decide +kernel⟩,
    ⟨⟨by decide +kernel, by decide +kernel⟩, fe_of (by decide +kernel), by decide +kernel, by decide +kernel, by decide +kernel⟩,
    ⟨by decide +kernel, by decide +kernel⟩, fe_of (by decide +kernel), by decide +kernel, by decide +kernel, by decide +kernel⟩
/-- R315: an STFE meets an empty word, with no row that waits for it and with one. -/
def awaited : State :=
  emptied.setSpan (homeSpan 0x18000040) { emptied.span (homeSpan 0x18000040) with defers := [⟨other, 0x18000040, 5, 0, 1, 0⟩] }
theorem witness_FullEmptyResults_stfe : ∀ s ∈ [emptied, awaited],
    let u := released (feOf s) true (s.scope 3)
    (Executes s 0 ∧ feIs s = true) ∧ u.full 0x18000040 = false ∧ (u.atHome u.here 0x18000040).mem.wf = true ∧
      (u.span (homeSpan 0x18000040)).defers.find? (fun e => e.pa == 0x18000040) = (s.span (homeSpan 0x18000040)).defers.head? := by
  intro s h
  obtain rfl | rfl : s = emptied ∨ s = awaited := by simpa using h
  · exact ⟨⟨⟨by decide +kernel, by decide +kernel⟩, by decide +kernel⟩, by decide +kernel, by decide +kernel, by decide +kernel⟩
  · exact ⟨⟨⟨by decide +kernel, by decide +kernel⟩, by decide +kernel⟩, by decide +kernel, by decide +kernel, by decide +kernel⟩

/-- R316: nothing in flight; an acquire and a release of 8 and 4 bytes. -/
theorem witness_OrderingResults : Executes dram 0 ∧ dram.sending = false ∧
    (∀ g < 12, covers ((dram.releaseFar dram.here).field g).fav ((dram.releaseFar dram.here).releaseVec (dram.releaseFar dram.here).cur
      (dram.releaseFar dram.here).myField) = true) ∧
    (∃ bs, dram.rowAcquire dram.cache (dram.scope 3) 0x40 8 = .ok bs (got (dram.rowAcquire dram.cache (dram.scope 3) 0x40 8))) ∧
    (∃ bs, dram.rowAcquire dram.cache (dram.scope 3) 0x44 4 = .ok bs (got (dram.rowAcquire dram.cache (dram.scope 3) 0x44 4))) ∧
    (∃ u, dram.rowRelease dram.cache (dram.scope 3) 0x40 (natToBytes 8 5) = .ok u (got (dram.rowRelease dram.cache (dram.scope 3) 0x40 (natToBytes 8 5)))) ∧
    (∃ u, dram.rowRelease dram.cache (dram.scope 3) 0x44 (natToBytes 4 5) = .ok u (got (dram.rowRelease dram.cache (dram.scope 3) 0x44 (natToBytes 4 5)))) :=
  ⟨dram_executes, by decide +kernel, by decide +kernel, of_fine (by decide +kernel), of_fine (by decide +kernel),
    of_fine (by decide +kernel), of_fine (by decide +kernel)⟩

/-- Does a computation give a result of which a test holds? -/
def holds {α : Type} (x : Res α) (p : α → State → Bool) : Bool :=
  match x with
  | .ok v t => p v t
  | .fault _ => false
  | .wait _ _ => false
  | .stall => false
  | .miss _ => false
  | .move _ => false

/-- R320, R322: a row that owns a place; one with a job running; one with reductions in flight; one with nothing left. -/
def holder : State := base.setSpan 0 { base.span 0 with pool := [(3, ⟨0xFFFF, 0xFFFF, 0, 5, 2, 0, 0x600001⟩)] }
def busy : State := row (fun r => { r with tickets := [⟨7, 0, .running, 0, none, Vector.replicate 12 0⟩] }) base
theorem witness_ClosingResults : Executes base 0 ∧ (Executes holder 0 ∧ holder.placeSpans holder.cur ≠ []) ∧
    (Executes busy 0 ∧ busy.placeSpans busy.cur = [] ∧ (busy.me).jobRunning = true) ∧
    (base.placeSpans base.cur = [] ∧ (base.me).jobRunning = false ∧ (base.me).pendingFault = none ∧ (base.me).pend = 0 ∧
      (base.me).early = [] ∧ (base.me).replay = []) ∧ (full60.me).pend ≠ 0 :=
  ⟨base_executes, ⟨⟨by decide +kernel, by decide +kernel⟩, by decide +kernel⟩,
    ⟨⟨by decide +kernel, by decide +kernel⟩, by decide +kernel, by decide +kernel⟩,
    ⟨by decide +kernel, by decide +kernel, by decide +kernel, by decide +kernel, by decide +kernel, by decide +kernel⟩, by decide +kernel⟩
theorem witness_MonitorResults : Executes dram 0 ∧ holds (dram.check dram.who .load 0x140 1) (fun x _ => x.1 == .dram 0x18000140) = true ∧
    (dram.me).monNone = true ∧ ((row (fun r => { r with mon := r.mon.set 0 ⟨1, true⟩ }) dram).me).monNone = false ∧
    ((row (fun r => { r with mon := Vector.ofFn fun i => ⟨BitVec.ofNat 40 (i.val + 10), true⟩ }) dram).me).monFor 1 = none :=
  ⟨dram_executes, by decide +kernel, by decide +kernel, by decide +kernel, by decide +kernel⟩

/-- R330: the row's own column, a column of the grid, an index at NCOLS. R332: an address of the row's own column and of column 1. -/
def there : State := col (fun c => { c with tlb := [{ page with frame := 2 ^ 31 + 0x18000000 }] }) base
theorem witness_SpawnResults_spawn : (bit (((reg 11 (1 <<< 48) base).me).rg 11) 48 = true) ∧
    (bit ((base.me).rg 11) 48 = false ∧ (bits ((base.me).rg 11) 32 16).toNat < (base.gridOf base.cur).length) ∧
    (base.gridOf base.cur).length ≤ (bits (((reg 11 (1 <<< 32) base).me).rg 11) 32 16).toNat := by decide +kernel
theorem witness_SpawnResults_migr : (Executes dram 0 ∧ (∀ s ∈ [dram, full60], holds (s.check s.who .load 0x40 1) (fun x t => match x.1 with
      | .dram pa => paSlot pa == t.here && (t.me.pend == (s.me).pend) | _ => false) = true) ∧ (dram.me).pend = 0) ∧
    (Executes there 0 ∧ holds (there.check there.who .load 0x40 1) (fun x t => (match x.1 with | .dram pa => paSlot pa != t.here | _ => false) &&
      t.me.pend == 0 && t.me.early.isEmpty && !t.me.jobRunning && (t.inFlight t.cur).isEmpty && !t.moveWaits) = true) ∧
    (let s := row (fun r => { r with pend := 1 }) there
     holds (s.check s.who .load 0x40 1) (fun x t => (match x.1 with | .dram pa => paSlot pa != t.here | _ => false) && t.moveWaits) = true) :=
  ⟨⟨dram_executes, by decide +kernel, by decide +kernel⟩, ⟨⟨by decide +kernel, by decide +kernel⟩, by decide +kernel⟩, by decide +kernel⟩

/-- R334: an id of no row; a READY and a STOPPED row of the tenant. -/
def readyRow : State := pair (fun r => { r with st := .ready })
def stoppedRow : State := pair (fun r => { r with st := .stopped })
theorem witness_SpawnResults_stepx : base.held ⟨base.cur.t, 9⟩ = false ∧ (Executes readyRow 0 ∧ readyRow.held other = true ∧
      readyRow.sending = false ∧ readyRow.inTransit other = false ∧ (readyRow.row other).stepper = none ∧ (readyRow.row other).st = .ready) ∧
    (stoppedRow.held other = true ∧ stoppedRow.inTransit other = false ∧ (stoppedRow.row other).stepper = none ∧
      (stoppedRow.row other).st = .stopped ∧ other ≠ stoppedRow.cur) :=
  ⟨by decide +kernel, ⟨⟨by decide +kernel, by decide +kernel⟩, by decide +kernel, by decide +kernel, by decide +kernel, by decide +kernel,
    by decide +kernel⟩, by decide +kernel, by decide +kernel, by decide +kernel, by decide +kernel, by decide⟩

/-- R133, R322: a channel with room for one entry, a full one, an empty one, one whose head entry is a control entry. -/
def chan (c : Chan) : State := col (fun x => { x with chans := x.chans.set 3 c }) base
theorem witness_ChannelResults_push : Executes base 0 ∧ base.chanRef 3 0 = some base.here ∧ base.releaseWaits = false ∧ (∀ m ∈ base.pushes, m.row ≠ base.cur) ∧
    ((chan ⟨0, 511, 511, false, 0, 0⟩).chan 0 3).count.toNat < 512 ∧ 512 ≤ ((chan ⟨0, 0, 512, false, 0, 0⟩).chan 0 3).count.toNat :=
  ⟨base_executes, by decide +kernel, by decide +kernel, by decide +kernel, by decide +kernel, by decide +kernel⟩
theorem witness_ChannelResults_pop : ((base.chan 0 3).count = 0) ∧
    (let s := chan ⟨511, 0, 1, false, 0, 0⟩;
      Executes s 0 ∧ s.chanRef 3 0 = some s.here ∧ (s.chan 0 3).count ≠ 0 ∧ ((s.me).early = [] ∧ poisoned (s.col s.here).badScratch 0x23FF8 8 = false) ∧
      s.releasing s.cur = false ∧ bit (s.chan 0 3).ctl (s.chan 0 3).head.toNat = false) ∧
    (let s := chan ⟨0, 1, 1, false, 0, 1⟩;
      (s.chan 0 3).count ≠ 0 ∧ bit (s.chan 0 3).ctl (s.chan 0 3).head.toNat = true ∧ bit (s.me).tailpc 0 = false ∧
      bit ((row (fun r => { r with tailpc := 0x1001 }) s).me).tailpc 0 = true) :=
  ⟨by decide +kernel, ⟨⟨by decide +kernel, by decide +kernel⟩, by decide +kernel, by decide +kernel, ⟨by decide +kernel, by decide +kernel⟩,
    by decide +kernel, by decide +kernel⟩, by decide +kernel, by decide +kernel, by decide +kernel, by decide +kernel⟩
theorem witness_ChannelResults_tailret : bit ((row (fun r => { r with tailpc := 0x1001 }) base).me).tailpc 0 = true ∧
    bit (base.me).tailpc 0 = false := by decide +kernel

/-- R346: 16,384, 33 and 16,416. -/
theorem witness_SendResults_wmk : ((16384 : DWord).toNat % 32 = 0 ∧ (16384 : DWord).toNat ≤ 16384) ∧ (33 : DWord).toNat % 32 ≠ 0 ∧
    16384 < (16416 : DWord).toNat := by decide

/-- R342: a descriptor of zeros: nothing to send, to column 0 of the grid; one with 32 transfers in the queue. R344: a tile of one row. -/
def crowded (s : State) : State := s.setCol 0 { s.col 0 with sends := List.replicate 32 ⟨other, .window 0, [], [], none, none⟩ }
def tile : State := { dram with mem := dram.mem.writeBytes 0x18000048 [0x20, 0, 1, 0, 1, 1] }
def sendable (s : State) (queue : Bool) : Bool :=
  holds (s.readAs 0x40 32) fun bs s1 =>
    let d := SendDesc.ofBits (ofBytes 256 bs)
    holds ((s1.checkPages (pagesOf (addr48 d.src) d.len)).bind (fun _ s => s.doneWord d.done)) fun _ s2 =>
      decide (d.tcol < (s2.gridOf s2.cur).length) && d.ok queue && holds (s2.sourceBytes (addr48 d.src) d.len) (fun _ _ => true)
theorem witness_SendResults_send : sendable dram false = true ∧ sendable dram true = true ∧ (dram.col dram.here).sends.length < 32 ∧
    sendable (crowded dram) false = true ∧ 32 ≤ ((crowded dram).col 0).sends.length := by decide +kernel
theorem witness_SendResults_halo : holds (tile.readAs 0x40 32) (fun bs s1 =>
    let h := HaloDesc.ofBits (ofBytes 256 bs)
    h.ok && s1.neighbours.isEmpty && holds (s1.checkPages (s1.neighbours.flatMap (fun x => (h.runs x.1).flatMap (fun (o, n) =>
        pagesOf (addr48 h.base + BitVec.ofNat 64 o) n)))) (fun _ s2 => decide ((s2.col s2.here).sends.length < 32))) = true := by decide +kernel
/-- The tile with a neighbour east of it, in column 1 of the tenant. -/
def eastTile : State := (tile.setTen 0 { tile.ten 0 with cols := [0, 1] }).setCol 1 { tile.col 1 with owner := some 0 }
def runs (base : DWord) (h : HaloDesc) : List (Nat × BitVec 10) → State → List Sector × State
  | [], s => ([], s)
  | x :: xs, s =>
    match s.runBytes base (h.runs x.1) with
    | .ok data u => (sectorsOf x.2 ((arrivalFrom x.1).toNat * 0x1000) data ++ (runs base h xs u).1, (runs base h xs u).2)
    | _ => ([], s)
def runsFine (base : DWord) (h : HaloDesc) : List (Nat × BitVec 10) → State → Bool
  | [], _ => true
  | x :: xs, s =>
    match s.runBytes base (h.runs x.1) with
    | .ok _ u => runsFine base h xs u
    | _ => false
theorem runsRead_of_fine (base : DWord) (h : HaloDesc) : ∀ (l : List (Nat × BitVec 10)) (s : State), runsFine base h l s = true →
    RunsRead base h l (runs base h l s).1 s (runs base h l s).2
  | [], _, _ => ⟨rfl, rfl⟩
  | x :: xs, s, e => by
    unfold runsFine at e
    split at e
    · rename_i data u g
      simp only [runs, g]
      exact ⟨data, u, _, g, rfl, runsRead_of_fine base h xs u e⟩
    · cases e
def tileDesc : HaloDesc := HaloDesc.ofBits (ofBytes 256 (tile.mem.readBytes 0x18000040 32))
theorem witness_SendResults_runs : holds (eastTile.readAs 0x40 32) (fun bs s1 => bs == tile.mem.readBytes 0x18000040 32 &&
      s1.neighbours == [(2, 1)] && tileDesc.ok && fine (s1.checkPages (s1.neighbours.flatMap (fun x => (tileDesc.runs x.1).flatMap (fun (o, n) =>
        pagesOf (addr48 tileDesc.base + BitVec.ofNat 64 o) n))))) = true ∧
    RunsRead (addr48 tileDesc.base) tileDesc [(2, 1)] (runs (addr48 tileDesc.base) tileDesc [(2, 1)] eastTile).1 eastTile
      (runs (addr48 tileDesc.base) tileDesc [(2, 1)] eastTile).2 ∧
    (runs (addr48 tileDesc.base) tileDesc [(2, 1)] eastTile).1 ≠ [] := ⟨by decide +kernel, runsRead_of_fine _ _ _ _ (by decide +kernel), by decide +kernel⟩
theorem witness_SendResults_accept : (3 : Nat) ≤ dram.scope 3 := by decide +kernel

/-- R383, R385: a column without a link; a gateway column, with no descriptor and with one; a forward descriptor of zeros, paired and not. -/
def gate (p : Option (BitVec 4)) (s : State) : State := { s with links := [(0, ⟨0, p, none, 0⟩)] }
def queued : State := col (fun c => { c with gateq := [⟨List.replicate 32 0⟩] }) (gate (some 0) dram)
def forwards (s : State) : Bool := holds (s.readAs 0x40 32) fun bs s1 =>
  let x := ForwardDesc.ofBits (ofBytes 256 bs)
  holds (s1.doneWord x.done) fun _ s2 => x.ok && s2.me.early.isEmpty && !poisoned (s2.col s2.here).badScratch (0x4000 * x.swin.toNat + x.soff) x.len
def badForward : State := { gate (some 0) dram with mem := dram.mem.writeBytes 0x18000048 [1] }
theorem witness_SendResults_gnext : base.linkOf base.here = none ∧ (gate none dram).linkOf 0 ≠ none ∧
    fine ((gate none dram).check dram.who .store 0x40 32) = true ∧ (got ((gate none dram).check dram.who .store 0x40 32)).me.pred = 1 ∧
    holds (queued.check queued.who .store 0x40 32) (fun _ s1 => match (s1.col s1.here).gateq with
      | e :: _ => fine (s1.rowStore CacheHint.none 0x40 e.desc) | [] => false) = true := by decide +kernel
theorem witness_SendResults_gdone : ((gate (some 0) dram).linkOf 0).isSome = true ∧ forwards (gate (some 0) dram) = true ∧
    forwards (gate none dram) = true ∧ ((gate none dram).links.map (fun x => x.2.paired)) = [none] ∧ forwards (crowded (gate (some 0) dram)) = true ∧
    holds (badForward.readAs 0x40 32) (fun bs s1 => let x := ForwardDesc.ofBits (ofBytes 256 bs)
      !x.ok && fine (s1.doneWord x.done)) = true := by decide +kernel

/-- R349: a record of one cell with its entry at 0x1000; one of no cell. -/
def record : State := { dram with mem := (dram.mem.writeBytes 0x18000040 [1, 0, 1, 0]).writeBytes 0x1800004C [0, 0x10] }
def submits (s : State) : Bool := holds (s.recordAt s.who 0x40) fun r s1 =>
  let u := s1.releaseFar s1.here
  match u.submit u.cur.t r (u.me).priv 0 (u.releaseVec u.cur u.myField) with | .ok _ => true | .error _ => false
def refuses (s : State) : Bool := holds (s.recordAt s.who 0x40) fun r s1 =>
  let u := s1.releaseFar s1.here
  match u.submit u.cur.t r (u.me).priv 0 (u.releaseVec u.cur u.myField) with | .ok _ => false | .error _ => true
theorem witness_LaunchResults_launch : Executes record 0 ∧ (0x44 : DWord).toNat % 64 ≠ 0 ∧ (0x40 : DWord).toNat % 64 = 0 ∧
    record.releaseWaits = false ∧ record.earlyMeets record.cur 0x40 192 = false ∧ submits record = true ∧ refuses dram = true :=
  ⟨⟨by decide +kernel, by decide +kernel⟩, by decide, by decide, by decide +kernel, by decide +kernel, by decide +kernel, by decide +kernel⟩

/-- R353: a row whose predecessor is live, one without; a row below WAFER scope and one at it. -/
def successor : State := row (fun r => { r with predid := 5 }) (base.setTen 0 { base.ten 0 with
  launches := [⟨5, [], .placed, false, 0, false, false, [], 0, [], false, Vector.replicate 12 0⟩] })
theorem witness_LaunchResults_waitp : ((successor.me).predid ≠ 0 ∧ successor.liveLaunch successor.cur.t (successor.me).predid = true) ∧
    ((base.me).predid = 0 ∧ base.releasing base.cur = false) ∧ (2 : BitVec 3).toNat < 3 ∧ 3 ≤ (3 : BitVec 3).toNat := by
  decide +kernel

/-- R355, R357: a target that is not live; a join word that holds its target (0), and not. -/
theorem witness_LaunchResults_cancel : (successor.cancel 0 0 5).1 = true ∧ (base.cancel 0 0 5).1 = false := by decide +kernel
theorem witness_LaunchResults_joinw : holds (dram.access dram.who .load 0x40 8) (fun x s1 => match x.1 with
    | .dram pa => !s1.earlyMeets s1.cur 0x40 8 && !s1.busyAt s1.cur (.dram pa) 8 && !s1.releasing s1.cur &&
        holds (s1.loadHome s1.here pa 8 (keepOf x.2 s1.cache)) (fun bs s2 => ofBytes 64 bs == (s2.me).rg 0 && ofBytes 64 bs != ((reg 1 1 s2).me).rg 1)
    | _ => false) = true := by decide +kernel

/-! ### Hold queues -/

/-- A word held by row 1, with a waiting place of the issuing row behind it and one of row 1 behind that; their handles are 1, 0x201,
0x401. `place` gives the issuing row's place its state. -/
def placeAt (owner : BitVec 32) (st : BitVec 2) (prev next : BitVec 16) : Place := ⟨prev, next, owner, 1, st, 0, 0x600001⟩
def heldWord (head tail : BitVec 32) (live : BitVec 16) (pool : NMap Place) (s : State) : State :=
  let u : State := { s with mem := s.mem.writeBytes 0x18000040 (HoldWord.bytes ⟨head, tail, live, false, 3⟩) }
  u.setSpan 0 { u.span 0 with pool := pool }
def mapped (s : State) : State := col (fun c => { c with tlb := [page] }) s
def queue3 (s : State) : State := heldWord 1 0x401 3 [(0, placeAt 1 2 0xFFFF 1), (1, placeAt 0 1 0 2), (2, placeAt 1 1 1 0xFFFF)] (mapped s)
def holding : State := heldWord 1 1 1 [(0, placeAt 0 2 0xFFFF 0xFFFF)] dram
def holdingOther : State := heldWord 1 1 1 [(0, placeAt 1 2 0xFFFF 0xFFFF)] dram
def gone : State := heldWord 1 0x401 2 [(0, placeAt 1 2 0xFFFF 1), (1, placeAt 0 3 0 0xFFFF)] dram
def strange : State := heldWord 0x9999 0x9999 1 [] dram

/-- The claim of a word at 0x40 passes its checks: what is then known of the state. -/
def claims (s : State) (p : State → Bool) : Bool := holds (s.access s.who .fe 0x40 64) fun x s1 =>
  (x.1 == .dram 0x18000040) && !s1.holdWaits 0 && !s1.earlyMeets s1.cur 0x40 16 && !s1.busyAt s1.cur (.dram 0x18000040) 16 &&
    !s1.homeBad 0x18000040 16 && (let s2 := s1.holdReady s1.here 0x18000040; s2.mem.wf && s2.host.wf && p s2)
theorem witness_HoldResults_claim : homeSpan 0x18000040 = 0 ∧ Executes dram 0 ∧ claims strange (fun s2 => s2.foreign 0x18000040) = true ∧
    claims dram (fun s2 => !s2.foreign 0x18000040 && lowestFree (s2.span 0).pool 0 == 0 && (s2.place_ 0 0).gen != 0 &&
      (s2.holdWord 0x18000040).head == 0) = true ∧
    claims holdingOther (fun s2 => !s2.foreign 0x18000040 && lowestFree (s2.span 0).pool 0 == 1 && (s2.place_ 0 1).gen != 0 &&
      (s2.holdWord 0x18000040).head != 0 && handleIndex (s2.holdWord 0x18000040).tail != 1) = true :=
  ⟨by decide +kernel, dram_executes, by decide +kernel, by decide +kernel, by decide +kernel⟩

/-- A pool whose records are all in use has no free record. -/
theorem lowestFree_full (p : Place) (h : (p.st != 0) = true) : ∀ n k : Nat, lowestFree ((List.range' k n).map (fun i => (i, p))) k = k + n
  | 0, k => rfl
  | n + 1, k => by
    simp only [List.range'_succ, List.map_cons, lowestFree, beq_self_eq_true, h, Bool.and_true, if_true]
    rw [lowestFree_full p h n (k + 1)]; omega
theorem witness_HoldResults_full : 0xFFFF ≤ lowestFree ((List.range' 0 0xFFFF).map (fun i => (i, placeAt 1 2 0xFFFF 0xFFFF))) 0 :=
  Nat.le_of_eq (by rw [lowestFree_full _ rfl])

theorem witness_HoldResults_handle : (Executes base 0 ∧ base.holdWaits 0 = false ∧ base.resolve 0 0 = none) ∧
    (holdingOther.resolve 0 1 = some (placeAt 1 2 0xFFFF 0xFFFF) ∧ (1 : BitVec 32) ≠ (holdingOther.me).rowid) ∧
    (gone.resolve 0 0x201 = some (placeAt 0 3 0 0xFFFF) ∧ gone.holdWaits 0 = false) ∧
    (Executes holding 0 ∧ holding.holdWaits 0 = false ∧ holding.resolve 0 1 = some (placeAt 0 2 0xFFFF 0xFFFF) ∧ (0 : BitVec 32) = (holding.me).rowid ∧
      (holding.holdReady holding.here 0x18000040).releasing holding.cur = false) ∧
    (Executes (queue3 base) 0 ∧ (queue3 base).holdWaits 0 = false ∧ (queue3 base).resolve 0 0x201 = some (placeAt 0 1 0 2)) :=
  ⟨⟨base_executes, by decide +kernel, by decide +kernel⟩, ⟨by decide +kernel, by decide +kernel⟩, ⟨by decide +kernel, by decide +kernel⟩,
    ⟨⟨by decide +kernel, by decide +kernel⟩, by decide +kernel, by decide +kernel, by decide +kernel, by decide +kernel⟩,
    ⟨by decide +kernel, by decide +kernel⟩, by decide +kernel, by decide +kernel⟩

/-- R426, R427: row 1 takes a place while READY, and does not while FREE; a place behind the issuing row's, and a handle of none. -/
theorem witness_HoldResults_move :
    let s := queue3 readyRow
    let s1 := s.holdReady s.here 0x18000040
    (MemoryForm s1 ∧ s1.held other = true ∧ (s1.row other).st.takes = true) ∧ ((queue3 two).row other).st.takes = false ∧
    (s1.resolve 0 0x401 = some (placeAt 1 1 1 0xFFFF) ∧ handleSpan 0x401 = 0 ∧
      (s1.listFrom 0 (1 + (s1.span 0).pool.length) 2).contains (handleIndex 0x401) = true) ∧ s1.resolve 0 0x801 = none :=
  ⟨⟨⟨by decide +kernel, by decide +kernel⟩, by decide +kernel, by decide +kernel⟩, by decide +kernel, ⟨by decide +kernel, by decide, by decide +kernel⟩,
    by decide +kernel⟩

/-- R426: HGIVE of a holder's place to a row that takes it, and to one that does not. -/
theorem witness_HoldResults_give : ∀ s ∈ [readyRow, two],
    let v := heldWord 1 1 1 [(0, placeAt 0 2 0xFFFF 0xFFFF)] (mapped s)
    let s1 := v.holdReady v.here 0x18000040
    let u := s1.releaseFar s1.here
    MemoryForm s1 ∧ s1.held other = true ∧ u.mayRelease 0 (some (u.releaseVec u.cur u.myField)) = true ∧
      (u.row other).st.takes = (s.row other).st.takes := by
  intro s h
  obtain rfl | rfl : s = readyRow ∨ s = two := by simpa using h
  · exact ⟨⟨by decide +kernel, by decide +kernel⟩, by decide +kernel, by decide +kernel, by decide +kernel⟩
  · exact ⟨⟨by decide +kernel, by decide +kernel⟩, by decide +kernel, by decide +kernel, by decide +kernel⟩
theorem witness_HoldResults_takes : (readyRow.row other).st.takes = true ∧ (two.row other).st.takes = false := by decide +kernel
/-- R427-R429: the issuing row's abandoned place; the holder's place before one that it could go behind; a place of another word. -/
def mixed : State := (heldWord 1 0x401 2 [(0, placeAt 0 2 0xFFFF 1), (1, placeAt 0 3 0 2), (2, placeAt 1 1 1 0xFFFF),
  (3, { placeAt 0 1 0xFFFF 0xFFFF with obj := 0x600002 })] (mapped two))
theorem witness_HoldResults_refused :
    let s := mixed
    let s1 := s.holdReady s.here 0x18000040
    let back := fun (n : Nat) (goal : BitVec 32) => (s1.listFrom 0 (1 + (s1.span 0).pool.length) n).contains (handleIndex goal)
    (s.resolve 0 0x201 = some (placeAt 0 3 0 2) ∧ s1.held ⟨0, 7⟩ = false) ∧ (s.resolve 0 1 = some (placeAt 0 2 0xFFFF 1) ∧
      s1.resolve 0 0x401 = some (placeAt 1 1 1 0xFFFF)) ∧ (s1.resolve 0 0x601 = some { placeAt 0 1 0xFFFF 0xFFFF with obj := 0x600002 } ∧
      handleSpan 0x601 = 0) ∧ back 1 0x401 = true ∧ back 0xFFFF 1 = false := by
  decide +kernel

/-- R428, R429: a release of the holder that may take effect at once. -/
theorem witness_HoldResults_end :
    let s1 := holding.holdReady holding.here 0x18000040
    let u := s1.releaseFar s1.here
    MemoryForm s1 ∧ u.mayRelease 0 (some (u.releaseVec u.cur u.myField)) = true :=
  ⟨⟨by decide +kernel, by decide +kernel⟩, by decide +kernel⟩
/-- The holder's place, an abandoned one behind it, and a waiting one behind that. -/
def skipping : State := heldWord 1 0x401 2 [(0, placeAt 0 2 0xFFFF 1), (1, placeAt 0 3 0 2), (2, placeAt 1 1 1 0xFFFF)] (mapped base)
theorem witness_Succession :
    (MemoryForm holding ∧ Abandoned holding 0 [] (holding.place_ 0 0).next.toNat 0xFFFF) ∧
    (MemoryForm gone ∧ Abandoned gone 0 [1] (gone.place_ 0 0).next.toNat 0xFFFF) ∧
    (MemoryForm (queue3 base) ∧ Abandoned (queue3 base) 0 [] ((queue3 base).place_ 0 0).next.toNat 1 ∧ ((queue3 base).place_ 0 1).st ≠ 3) ∧
    (MemoryForm skipping ∧ Abandoned skipping 0 [1] (skipping.place_ 0 0).next.toNat 2 ∧ (skipping.place_ 0 2).st ≠ 3) ∧
    ([1] : List Nat).Nodup ∧ 0 ∉ ([1] : List Nat) :=
  ⟨⟨⟨by decide +kernel, by decide +kernel⟩, (by decide +kernel : _ = 0xFFFF)⟩,
    ⟨⟨by decide +kernel, by decide +kernel⟩, (by decide +kernel : (gone.place_ 0 0).next.toNat = 1), by decide, by decide +kernel,
      (by decide +kernel : (gone.place_ 0 1).next.toNat = 0xFFFF)⟩,
    ⟨⟨by decide +kernel, by decide +kernel⟩, (by decide +kernel : ((queue3 base).place_ 0 0).next.toNat = 1), by decide +kernel⟩,
    ⟨⟨by decide +kernel, by decide +kernel⟩, ⟨(by decide +kernel : (skipping.place_ 0 0).next.toNat = 1), by decide, by decide +kernel,
      (by decide +kernel : (skipping.place_ 0 1).next.toNat = 2)⟩, by decide +kernel⟩, by decide, by decide⟩

/-! ### The walker and the matrix unit -/

/-- Page tables for the first 2 MiB, which stand at layer 1 of column 0, and a tree descriptor at 0x1000: D = DV = 1, fan 4, empty. -/
def leaf (s : State) : State :=
  let u : State := { s with mem := (((s.mem.writeBytes 0x18001000 [1, 1, 0, 1]).writeBytes 0x20000000 (toBytes 8 (0x20001001#64))).writeBytes
    0x20001000 (toBytes 8 (0x20002001#64))).writeBytes 0x20002000 (toBytes 8 (0x18000007#64)) }
  u.setTen 0 { u.ten 0 with ptbase := 0x20000000 }
def paged : State := leaf base
def crowdedSpan : State := paged.setSpan 0 { paged.span 0 with
  wq := List.replicate 32 ⟨.kwalk, other, 0, 0, 0, [], [], 0, 0, 0, false, 0, 0, false, Vector.replicate 12 0, none⟩ }
def asks (s : State) (op : WalkOp) (gb : DWord) (p : State → Bool) : Bool := holds ((s.releaseFar s.here).request op 0x2000 gb) fun _ t => p t
theorem witness_WalkerResults_request : Executes paged 0 ∧ paged.releaseWaits = false ∧
    asks paged .kwalk 0x1000 (fun t => decide ((t.span (spanOfSite t.here)).requests < 32)) = true ∧
    asks paged .kapnd 0x1000 (fun t => decide ((t.span (spanOfSite t.here)).requests < 32)) = true ∧
    asks paged .ksum 0x1000 (fun t => decide ((t.span (spanOfSite t.here)).requests < 32)) = true ∧
    asks crowdedSpan .kwalk 0x1000 (fun t => decide (32 ≤ (t.span (spanOfSite t.here)).requests)) = true ∧
    (match (paged.releaseFar paged.here).request .kwalk 0x2000 0x3000 with | .fault _ => true | _ => false) = true ∧
    holds (paged.rowLoad CacheHint.none 0x2000 16) (fun bs _ => natAt bs 12 4 == 0 && (BitVec.ofNat 32 (natAt bs 8 4) &&& ~~~0xF03#32) == 0 &&
      bits (BitVec.ofNat 32 (natAt bs 8 4)) 0 2 != 3) = true ∧
    fine (paged.rowStore CacheHint.none 0x2000 (paged.statBytes paged.cur.t (spanOfSite paged.here))) = true :=
  ⟨⟨by decide +kernel, by decide +kernel⟩, by decide +kernel, by decide +kernel, by decide +kernel, by decide +kernel, by decide +kernel,
    by decide +kernel, by decide +kernel, by decide +kernel⟩

/-- KCFG of a record whose last word is not 0. -/
def badConfig : State := { paged with mem := paged.mem.writeBytes 0x1800200C [1] }
theorem witness_WalkerResults_config : holds (badConfig.rowLoad CacheHint.none 0x2000 16) (fun bs _ => natAt bs 12 4 != 0) = true := by decide +kernel

/-- A field whose window of outstanding writes has no room. -/
def noRoom (s : State) : State := s.setField 0 { s.field 0 with dep := 0x7F000000 }
/-- A walk at each of its stages, at the walker of span 0. -/
def walk (granted : Bool) (fin : Option WFin) : WReq :=
  ⟨.kwalk, other, 0x2000, 0x1000, 0x4000, [0], [], 0, 0, 0, true, 0x18001000, 0, granted, Vector.replicate 12 0, fin⟩
def serving (granted : Bool) (fin : Option WFin) : State := paged.setSpan 0 { paged.span 0 with wcur := some (walk granted fin) }
def waitingLock (v : BitVec 32) : State := { serving false none with locks := [⟨0, 0x18001000, false⟩], mem := paged.mem.writeBytes 0x18001040 (toBytes 4 v) }
def queuedWalk (v : Vector (BitVec 32) 12) : State := paged.setSpan 0 { paged.span 0 with wq := [{ walk false none with vec := v }] }
/-- A word of a record is on its way to a row of the tenant. -/
def coreStore : State := { serving true (some ⟨some (.dram 0x18004000, ⟨false, 0⟩), 1⟩) with outside := [⟨other, 0, false, false, 0x200, [0], .core, false, none, none⟩] }
theorem witness_WalkerStages_waits : ((serving true none).departRoom 0 = true ∧ (noRoom (serving true none)).departRoom 0 = false) ∧
    (serving true none).recordSent 0 = false ∧ coreStore.recordSent 0 = true := by decide +kernel
theorem witness_WalkerStages :
    (paged.sel.span = 0 ∧ (queuedWalk (Vector.replicate 12 0)).span 0 = { paged.span 0 with wq := [walk false none] } ∧
      covers ((queuedWalk (Vector.replicate 12 0)).field 0).fav (Vector.replicate 12 0) = true ∧
      covers (paged.field 0).fav (Vector.replicate 12 1) = false) ∧
    ((waitingLock 0).locks = [⟨0, 0x18001000, false⟩] ∧ (waitingLock 0).sel.k = 0 ∧ ((waitingLock 0).span 0).wcur = some (walk false none) ∧
      lockFree ((waitingLock 0).tlock 0x18001000) false = true ∧ lockFree ((waitingLock 0x10000).tlock 0x18001000) false = false) ∧
    ((serving true none).span 0).wcur = some (walk true none) ∧
    (((serving true (some ⟨some (.dram 0x18004000, ⟨false, 0⟩), 1⟩)).span 0).wcur = some (walk true (some ⟨some (.dram 0x18004000, ⟨false, 0⟩), 1⟩)) ∧
      (homeField 0x18001000 :: [homeField 0x18004000]).all (fun g =>
        covers ((serving true none).field g).fav ((serving true none).unitVec 0 (Vector.replicate 12 0))) = true ∧
      (homeField 0x18001000 :: [homeField 0x18004000]).all (fun g =>
        covers ((serving true none).field g).fav ((serving true none).unitVec 0 (Vector.replicate 12 1))) = false) := by
  refine ⟨⟨rfl, by decide +kernel, by decide +kernel, by decide +kernel⟩, ⟨by decide +kernel, by decide +kernel, by decide +kernel, by decide +kernel,
    by decide +kernel⟩, by decide +kernel, by decide +kernel, by decide +kernel, by decide +kernel⟩

/-- R371: a record of zeros; one whose reserved bits are not 0; a column with 16 jobs. -/
def aJob (id : BitVec 16) (st : JobSt) (snap : BitVec 128) : Job := ⟨id, id.setWidth 32, 0, false, false, false, ⟨0, 0⟩, 0x1000, 0, 0, 0, 0, 0, 0, false,
  snap, true, st, List.replicate 48 0, 0, [], Vector.replicate 12 0, []⟩
def sixteen : State := col (fun c => { c with jobs := List.replicate 16 (aJob 1 .queued 0) }) paged
theorem witness_JobResults_issue : Executes paged 0 ∧ paged.releaseWaits = false ∧ bit (paged.me).prog 16 = false ∧
    holds (paged.jobRecord 0x2000) (fun _ t => decide ((t.col t.here).jobs.length < 16) &&
      decide (((t.me).tickets.filter (fun e => e.st == .faulted)).length < 16)) = true ∧
    holds (sixteen.jobRecord 0x2000) (fun _ t => decide (16 ≤ (t.col t.here).jobs.length)) = true ∧
    (match paged.jobRecord 0x2004 with | .fault _ => true | _ => false) = true :=
  ⟨⟨by decide +kernel, by decide +kernel⟩, by decide +kernel, by decide +kernel, by decide +kernel, by decide +kernel, by decide +kernel⟩

/-- R373, R375: a ticket that is not in the list, one of a running job, one of a job that is done. -/
def withTicket (st : TicketSt) : State := row (fun r => { r with tickets := [⟨7, 0, st, 1, none, Vector.replicate 12 0⟩] }) base
theorem witness_JobResults_wait : (base.me).ticketOf 7 = none ∧
    (Executes (withTicket .running) 0 ∧ ((withTicket .running).me).ticketOf 7 = some ⟨7, 0, .running, 1, none, Vector.replicate 12 0⟩) ∧
    (Executes (withTicket .done) 0 ∧ ((withTicket .done).me).ticketOf 7 = some ⟨7, 0, .done, 1, none, Vector.replicate 12 0⟩) :=
  ⟨by decide +kernel, ⟨⟨by decide +kernel, by decide +kernel⟩, by decide +kernel⟩, ⟨by decide +kernel, by decide +kernel⟩, by decide +kernel⟩

/-- An MXS that has had its job accepted is issued again. -/
def again (st : TicketSt) : State := row (fun r => { r with prog := 0x10007, mxs := some 7 }) (withTicket st)
theorem witness_JobResults_again : ∀ st ∈ [TicketSt.running, .done], Executes (again st) 0 ∧ bit ((again st).me).prog 16 = true ∧
    ((again st).me).mxs = some 7 ∧ bits (7 : BitVec 32) 0 16 = bits ((again st).me).prog 0 16 ∧
    ((again st).me).ticketOf 7 = some ⟨7, 0, st, 1, none, Vector.replicate 12 0⟩ ∧ (again st).releasing (again st).cur = false := by
  intro st h
  obtain rfl | rfl : st = .running ∨ st = .done := by simpa using h
  · exact ⟨⟨by decide +kernel, by decide +kernel⟩, by decide +kernel⟩
  · exact ⟨⟨by decide +kernel, by decide +kernel⟩, by decide +kernel⟩

/-! ### Vectors, faults, registers, maintenance -/

theorem witness_LaneResults : 32 * 4 ≤ 128 ∧ 6 * 21 ≤ 128 := by decide
theorem witness_VectorFloatResults : Executes base 0 := base_executes
theorem witness_VectorIntegerResults : Executes base 0 ∧ (15 < 128 / (8 * 2 ^ (0 : BitVec 2).toNat)) := ⟨base_executes, by decide⟩
theorem witness_VectorNarrowResults : Executes (row (fun r => { r with fmt := 3 }) base) 0 ∧
    efmt ((row (fun r => { r with fmt := 3 }) base).me).ef = .flt .e4 ∧ efmt ((row (fun r => { r with fmt := 7 }) base).me).ef = .int ⟨8, true⟩ :=
  ⟨⟨by decide +kernel, by decide +kernel⟩, by decide +kernel, by decide +kernel⟩
theorem witness_VectorReduceResults : Executes base 0 := base_executes
theorem witness_ScalarFloatResults : Executes base 0 := base_executes

/-- R263: a fault that traps, with a FREC and without one; one that is posted. -/
def info : FaultInfo := ⟨0x04, 0, 1, false, false, 0x1000, 0x1000, 4, 0, 0, 0⟩
def trapping : State := frec.setTen 0 { frec.ten 0 with fpol := 0x80 }
def stores (s : State) (posted nofrec : Bool) : Bool :=
  match s.frecStore firstRow 0 (recordBytes info 0 (s.me).rowid (s.me).launch ⟨0, 0⟩ (s.timeAt 0) (s.me).priv posted false nofrec false) with
  | .stored _ => true
  | _ => false
def cannot (s : State) (posted nofrec : Bool) : Bool :=
  match s.frecStore firstRow 0 (recordBytes info 0 (s.me).rowid (s.me).launch ⟨0, 0⟩ (s.timeAt 0) (s.me).priv posted false nofrec false) with
  | .bad => true
  | _ => false
theorem witness_FaultTaking :
    (bit (frec.ten 0).fpol 1 = true ∧ stores frec true false = true) ∧ ((dram.ten 0).tvec = 0 ∧ cannot dram true false = true) ∧
    (bit (trapping.ten 0).fpol 1 = false ∧ (trapping.ten 0).tvec ≠ 0 ∧ (trapping.row firstRow).trapact = false ∧ stores trapping false false = true ∧
      cannot (row (fun r => { r with frec := 0 }) trapping) false false = true) := by decide +kernel

/-- R94: a user row may not write TVEC; a supervisor row may; a value that XB refuses; a word of the RCB that is RO. -/
def user : State := row (fun r => { r with priv := false }) base
theorem witness_StateRegisterResults : Executes base 0 ∧ user.srMay 0x802 = false ∧ (base.srMay 0x802 = true ∧ (0x802 : BitVec 12).toNat / 512 = 4) ∧
    (base.srMay 0x201 = true ∧ (0x201 : BitVec 12).toNat / 512 = 1) ∧ ((base.col 0).writeSr 1 0x2000).isSome = true ∧ (base.col 0).writeSr 1 0x2001 = none ∧
    ((base.ten 0).writeSr 2 0x2000).isSome = true ∧ (base.ten 0).writeSr 8 3 = none ∧
    (base.srMay 0x008 = true ∧ (base.me).rcbRefused (base.me).priv true 8 0x1304 = false) ∧
    (user.srMay 0x00A = true ∧ (user.me).rcbRefused (user.me).priv true 10 5 = true) :=
  ⟨base_executes, by decide +kernel, by decide +kernel, by decide +kernel, by decide +kernel, by decide +kernel, by decide +kernel,
    by decide +kernel, by decide +kernel, by decide +kernel⟩
/-- R90, R91, R97, R98: each command of CTL of a row at a boundary; CMD 6 and a field that the row may not write; FREC; WPART while
no transition is in progress, and while one is; the words of FRNG1. -/
def rcbRefuses (sup : Bool) (i : Nat) (v : BitVec 32) : Bool := Row.rcbRefused { base.me with priv := sup } sup true i v
theorem witness_StateRegisterResults_control : ((0x000 : BitVec 12).toNat / 512 = 0 ∧ base.srMay 0x000 = true ∧ (base.me).await = none ∧ (base.me).mid = .none) ∧
    ([0x500, 0x501, 0x502, 0x503, 0x504, 0x505].all (fun v : BitVec 32 => decide (v.toNat % 16 ≤ 5) && !rcbRefuses true 0 v) = true) ∧
    5 < (0x506 : DWord).toNat % 16 ∧ rcbRefuses false 0 0x400 = true ∧ (0x01E : BitVec 12).toNat % 512 = 30 ∧
    rcbRefuses true 30 0x1FF = false ∧ rcbRefuses true 31 0 = false ∧ rcbRefuses false 30 0x1C0 = true :=
  ⟨by decide +kernel, by decide +kernel, by decide, by decide +kernel, by decide, by decide +kernel, by decide +kernel, by decide +kernel⟩
theorem witness_StateRegisterResults_span : (base.srMay 0x400 = true ∧ (0x400 : BitVec 12).toNat / 512 = 2 ∧ (0x400 : BitVec 12).toNat % 512 = 0 ∧
      (base.span 0).trans = none ∧ ((base.setSpan 0 { base.span 0 with trans := some 2 }).span 0).trans.isSome = true) ∧
    ((0x412 : BitVec 12).toNat % 512 = 18 ∧ 16 ≤ 18 ∧ 18 < 32 ∧ 18 % 2 = 0) ∧
    ((0x413 : BitVec 12).toNat % 512 = 19 ∧ bits (0x123450003 : DWord) 0 2 = 3 ∧ bits (0x123450002 : DWord) 0 2 ≠ 3) := by decide +kernel
theorem witness_StateRegisterMap : (0x1000 ≤ (bits (0x1000 : DWord) 0 32).toNat ∧ (bits (0x10000 : DWord) 0 32).toNat ≤ 0x10000 ∧
    (bits (0x10000 : DWord) 0 32).toNat % 256 = 0) ∧ (bits (0xF00 : DWord) 0 32).toNat < 0x1000 ∧ 0x10000 < (bits (0x10100 : DWord) 0 32).toNat ∧
    (bits (0x1001 : DWord) 0 32).toNat % 256 ≠ 0 ∧ bits (3 : DWord) 0 2 = 3 ∧ bits (2 : DWord) 0 2 ≠ 3 := by decide

/-- R383: a line of DRAM, and a place that has no line (the scratchpad); the eight sectors of a line. -/
def pad : State := col (fun c => { c with tlb := [{ page with frame := 960 * 2 ^ 31 }] }) base
theorem witness_MaintenanceResults_lines : Executes dram 0 ∧ holds (dram.maintLine .load 0x140) (fun n _ => n == some (0x18000140 / 256)) = true ∧
    holds (dram.maintLine .store 0x140) (fun n _ => n == some (0x18000140 / 256)) = true ∧
    holds (pad.maintLine .load 0x140) (fun n _ => n == none) = true ∧ holds (pad.maintLine .store 0x140) (fun n _ => n == none) = true ∧
    ZerosAt ((0x140 : DWord) &&& ~~~0xFF#64) (List.range 8) (zeros ((0x140 : DWord) &&& ~~~0xFF#64) (List.range 8) dram).1 dram
      (zeros ((0x140 : DWord) &&& ~~~0xFF#64) (List.range 8) dram).2 :=
  ⟨dram_executes, by decide +kernel, by decide +kernel, by decide +kernel, by decide +kernel, zerosAt_of_fine _ _ _ (by decide +kernel)⟩

/-- R390: a TLBI of a row with a reduction on its way, and with nothing in flight: no walk outstanding, and one that it covers. -/
def walking : State := dram.setSpan 0 { dram.span 0 with walks := [⟨0, 0, [], [0], [], false⟩] }
def aRed (row : RowKey) (val : DWord) : Red := ⟨row, true, .add, 8, 0x18000040, false, 0, val, false, none, none, 1, 1, ⟨false, 0⟩⟩
def sendingRed : State := { dram with reds := [aRed dram.cur 1], ops := 1 }
def cleaned (s : State) : State := ((s.col s.here).cache.map (·.line)).foldl (fun u l => u.cleanLine s.here l) s
theorem witness_MaintenanceResults_tlbi : (sendingRed.sending = true ∧ Executes sendingRed 0) ∧
    (dram.sending = false ∧ (cleaned dram).walkCovered dram.cur.t none (dram.tlbiCols 3) = false) ∧
    (Executes walking 0 ∧ walking.sending = false ∧ (cleaned walking).walkCovered walking.cur.t none (walking.tlbiCols 3) = true) :=
  ⟨⟨by decide +kernel, by decide +kernel, by decide +kernel⟩, ⟨by decide +kernel, by decide +kernel⟩, ⟨by decide +kernel, by decide +kernel⟩,
    by decide +kernel, by decide +kernel⟩

/-- R392, R394: the ends of the ranges; a span that another tenant shares; one in transition. -/
def sharedSpan (s : State) (i : Nat) : Bool :=
  s.cols.any (fun (site, c) => spanOfSite site == i && (match c.owner with | some o => o != s.cur.t | none => false))
theorem witness_MaintenanceResults_sets : ((0x1000 : DWord).toNat % 256 = 0 ∧ 0x1000 ≤ (0x10000 : DWord).toNat ∧ (0x10000 : DWord).toNat ≤ 0x10000) ∧
    (0xF00 : DWord).toNat < 0x1000 ∧ 0x10000 < (0x10100 : DWord).toNat ∧ 15 < (16 : DWord).toNat ∧ (15 : DWord).toNat ≤ 15 ∧
    sharedSpan base 0 = false ∧ sharedSpan (base.setCol 1 { base.col 1 with owner := some 1 }) 0 = true ∧ (base.span 0).trans = none ∧
    ((base.setSpan 0 { base.span 0 with trans := some 2 }).span 0).trans.isSome = true := by decide +kernel

/-- R396: a monitor that has fired; a deadline that has passed; nothing that could end the wait; one that waits. -/
def monitored (m : Mon) : State := row (fun r => { r with mon := r.mon.set 0 m }) base
theorem witness_QueryResults : Executes base 0 ∧ (((monitored ⟨1, false⟩).me).mon.any (fun m => m.line ≠ 0 && !m.armed) = true) ∧
    ((base.me).mon.any (fun m => m.line ≠ 0 && !m.armed) = false ∧ (base.me).mon.all (fun m => m.line = 0) = true) ∧
    (let s := { base with time := 5 }; ((1 : DWord) ≠ 0 ∧ (1 : DWord).toNat ≤ (s.timeAt s.here).toNat)) ∧
    (((monitored ⟨1, true⟩).me).mon.any (fun m => m.line ≠ 0 && !m.armed) = false ∧ ((monitored ⟨1, true⟩).me).mon.all (fun m => m.line = 0) = false) :=
  ⟨base_executes, by decide +kernel, by decide +kernel, by decide +kernel, by decide +kernel⟩

/-! ### Events of rows and executors -/

/-- The events fall on the row `other`. -/
def onOther (s : State) : State := at_ s (fun x => { x with n := 1 })
def inState (st : RowSt) : State := onOther (pair (fun r => { r with st := st }))
theorem witness_RowCommandEvents : ∀ st ∈ [RowSt.free, .ready, .open_, .waiting, .stopped, .faulted, .moving, .retired],
    (inState st).selRow = other ∧ (inState st).held other = true ∧ (inState st).deaf 0 = false ∧ (inState st).slotMoves other = false ∧
    ((inState st).row other).deferred = [] ∧ ((inState st).row other).faultedStore = none ∧ ((inState st).row other).stepper = none ∧ ((inState st).row other).st = st ∧ ((inState st).row other).await = none ∧
    (inState st).answered other = false := by decide +kernel
/-- An open row at a boundary, inside a group of each class, and inside a progressive one of which units are done. -/
theorem witness_RowCommandEvents_group : (((inState .open_).row other).mid = .none ∧ ((inState .open_).row other).inGroup = false) ∧
    (∀ m ∈ [Mid.restart, .held], ((onOther (pair (fun r => { r with st := .open_, mid := m }))).row other).mid = m) ∧
    ((onOther (pair (fun r => { r with st := .open_, inGroup := true }))).row other).inGroup = true := by decide +kernel

/-- A store of the issuing row on its way to a row; the host's accesses through BAR2; a refusal that comes back; a fault that waits. -/
def outStore (k : RowKey) (rcb : Bool) (off : Nat) (data : List Byte) (sup : Bool) : State :=
  { two with outside := [⟨k, 1, false, rcb, off, data, .row firstRow 0x1000 0, sup, none, none⟩], ops := 1 }
def arrives (s : State) : Bool :=
  match s.outside[s.sel.k]? with
  | some x => !s.sel.arr && s.outsideFirst s.sel.k x && s.outsideMay s.sel.k x && !s.deaf x.row.t
  | none => false
theorem witness_OutsideStoreEvents_stores : (arrives (outStore ⟨0, 9⟩ false 0x200 [1] false) = true ∧ two.held ⟨0, 9⟩ = false) ∧
    (arrives (outStore other false 0x200 [1] false) = true ∧ two.held other = true ∧ two.inTransit other = false ∧
      (∀ x ∈ (outStore other false 0x200 [1] false).outside, two.midGroup x = false) ∧ (two.row other).deferred = [] ∧
      (two.row other).faultedStore = none) ∧
    (arrives (outStore other true 0x28 [1, 0, 0, 0] false) = true ∧ (two.row other).rcbStoreRefused false false 0x28 [1, 0, 0, 0] = true) ∧
    ((two.row other).rcbStoreRefused true false 0x28 [1, 0, 0, 0] = false ∧ storeCmd 0x28 [1, 0, 0, 0] = 0) := by decide +kernel
def hostAt (wr : Bool) : State := at_ two (fun x => { x with arr := true, acc := ⟨wr, 0x8000000A00, 8, List.replicate 8 0⟩ })
theorem witness_OutsideStoreEvents_host : ∀ wr ∈ [true, false], (hostAt wr).sel.arr = true ∧ (hostAt wr).deaf 0 = false ∧
    windowLoc 0 (hostAt wr).sel.acc.hpa.toNat = some (.rowSpace other 0x200) ∧ ((hostAt wr).ten 0).st = .active ∧ (hostAt wr).held other = true ∧
    (hostAt wr).sel.acc.wr = wr ∧ hostSize 0x8000000A00 8 = true ∧ (hostAt wr).inTransit other = false ∧ (hostAt wr).betweenBoundaries other = false ∧
    (hostAt wr).outside = [] := by decide +kernel
def lateFault : State := row (fun r => { r with deferred := [info] }) base
def lateStore : State := row (fun r => { r with replay := [⟨1, .plain, 0x1000, 0x40, [1], false, CacheHint.none, Vector.replicate 12 0, 0, false, some (0x05, 1), none⟩] }) base
theorem witness_OutsideStoreEvents_refusals :
    (let s := { readyRow with refusedStores := [⟨other, 0x05, 3, 0x1000, 0⟩] }
     s.refusedStores[s.sel.k]? = some ⟨other, 0x05, 3, 0x1000, 0⟩ ∧ (s.row other).st ≠ .free ∧ (s.row other).st ≠ .retired) ∧
    (lateFault.selRow = firstRow ∧ lateFault.seatOf firstRow = some ⟨0, 0, 0⟩ ∧ (lateFault.row firstRow).st = .open_ ∧
      (lateFault.row firstRow).await = none ∧ (lateFault.row firstRow).inGroup = false ∧ (lateFault.row firstRow).run = [] ∧ (lateFault.row firstRow).deferred = info :: []) ∧
    (lateStore.selRow = firstRow ∧ lateStore.seatOf firstRow = some ⟨0, 0, 0⟩ ∧ (lateStore.row firstRow).st = .open_ ∧
      (lateStore.row firstRow).await = none ∧ (lateStore.row firstRow).inGroup = false ∧ (lateStore.row firstRow).run = [] ∧ (lateStore.row firstRow).deferred = [] ∧
      ((lateStore.row firstRow).faultedStore).isSome = true) := by decide +kernel
/-- The row awaits the answer to a push that stands behind an early store which is to be made for it. -/
def earlyDue : EarlyStore := ⟨1, .plain, 0x1000, 0x40, [1], false, CacheHint.none, Vector.replicate 12 0, 1, true, none, none⟩
def dueStore : State := { row (fun r => { r with await := some 0x1004, early := [earlyDue] }) base with
  pushes := [⟨firstRow, 0x1004, 2, 0, 3, 7, false, 2, 0, false, none⟩], ops := 2 }
theorem witness_OutsideStoreEvents_due : dueStore.selRow = firstRow ∧ dueStore.seatOf firstRow ≠ none ∧ (dueStore.row firstRow).st = .open_ ∧
    (dueStore.row firstRow).inGroup = false ∧ (dueStore.row firstRow).run = [] ∧ (dueStore.row firstRow).await = some 0x1004 ∧
    (dueStore.row firstRow).deferred = [] ∧ ((dueStore.row firstRow).faultedStore).isNone = true ∧ dueStore.awaitsStuck firstRow = true ∧
    (∃ e ∈ (dueStore.row firstRow).early, e.due = true) :=
  ⟨by decide +kernel, by decide +kernel, by decide +kernel, by decide +kernel, by decide +kernel, by decide +kernel, by decide +kernel,
    by decide +kernel, by decide +kernel, _, List.mem_singleton.mpr rfl, rfl⟩

/-- Row 1, READY in bank 1 under a bind record of level 1; its slot opening, with good and with bad bytes; closing. -/
def bindRec (lv : BitVec 2) : Bind := ⟨0, 0, lv, false, 16, 0, 0, 1, none⟩
def bound (s : State) : State := s.setExecutor 0 1 { s.executor 0 1 with binds := [bindRec 1] }
def bank1 (s : State) : State := at_ s (fun x => { x with bank := 1 })
def active : State := bank1 (bound readyRow)
def aSlot (ph : Phase) : Slot := ⟨other, ph, 1, 0, 0, 0, false, none, false, false⟩
def inSlot (ph : Phase) (bad : List Nat) : State :=
  bank1 ((pair (fun r => { r with st := .open_, bad := bad })).setExecutor 0 1
    { two.executor 0 1 with slots := (two.executor 0 1).slots.set 0 (some (aSlot ph)) })
theorem frec_bad (s : State) (k : RowKey) (site : Nat) (h : (s.row k).frec == 0) (bs : List Byte) : s.frecStore k site bs ≠ .later := by
  unfold State.frecStore; simp only [h, if_true]; exact nofun
theorem witness_ActivationEvents :
    (active.sel.site = 0 ∧ (active.executor 0 1).mayActivate active.time = true ∧ (active.executor 0 1).reservedSlot = none ∧
      (active.executor 0 1).freeSlot = some 0 ∧ (choose (active.executor 0 1).last (active.candidates 0 1)).isSome = true) ∧
    ({ active.executor 0 1 with acts := [0] } : Exec).mayActivate 15 = false ∧
    ((inSlot .opening []).selSlot = some (aSlot .opening) ∧ ((inSlot .opening []).row other).bad = []) ∧
    ((inSlot .opening [0x41]).selSlot = some (aSlot .opening) ∧ ((inSlot .opening [0x41]).row other).bad ≠ []) ∧
    (inSlot .closing []).selSlot = some (aSlot .closing) := by decide +kernel
/-- The row is a member of a gang whose quantum has begun, and has not. -/
def gangSlot (since : Option Nat) : State :=
  let s := bank1 (pair (fun r => { r with st := .open_, gridw := 1 }))
  s.setExecutor 0 1 { s.executor 0 1 with
    slots := (s.executor 0 1).slots.set 0 (some (aSlot .opening)), binds := [⟨0, 0, 1, true, 16, 0, 2, 2, since⟩] }
theorem witness_ActivationEvents_gang : ∀ t ∈ [none, some 7], (gangSlot t).selSlot = some (aSlot .opening) ∧
    (((gangSlot t).executor 0 1).bindOf 0 ((gangSlot t).row other).launch).map (fun b => ((gangSlot t).inGang b other, b.since)) = some (true, t) := by
  decide +kernel
theorem witness_ActivationEvents_bad : ∀ bs, (inSlot .opening [0x41]).freeSelSlot.frecStore other 0 bs ≠ .later :=
  frec_bad _ _ _ (by decide +kernel)

/-- The issuing row at the end of its quantum, alone in its bank, and with row 1 READY in the bank, at a level and in a group; in the
middle of a group. -/
def late (lv : BitVec 2) (grp : BitVec 4) : State :=
  let s := (pair (fun r => { r with st := .ready })).setDir other ⟨0, 0, grp, 1, true, false⟩
  { s.setExecutor 0 0 { s.executor 0 0 with binds := [bindRec lv] } with time := 100000 }
def inGroup (s : State) : State := row (fun r => { r with inGroup := true }) s
def firstSlot (s : State) : Option Slot := (s.executor 0 0).slots[0]
/-- Does the issuing row stand alone in the set that closes with it? -/
def alone (s : State) : Bool := s.closeSet 0 0 firstRow == [0] && (match firstSlot s with | some sl => sl.row == firstRow | none => false)
theorem stands_of (s : State) (h : (s.seatOf firstRow = some ⟨0, 0, 0⟩ ∧ (s.row firstRow).st = .open_ ∧ (s.row firstRow).await = none) ∧
    (s.row firstRow).inGroup = false ∧ (s.row firstRow).deferred = [] ∧ (s.row firstRow).faultedStore = none ∧
      (s.row firstRow).mid = .none ∧ (s.row firstRow).run = []) : StandsIn s firstRow ⟨0, 0, 0⟩ :=
  ⟨h.1.1, h.1.2.1, h.1.2.2, h.2.1, h.2.2.1, h.2.2.2.1, h.2.2.2.2⟩
def rival (s : State) : Bool := match (s.eligible 0 0).findSome? (s.executor 0 0).victimOf with
  | some (i, sl) => i == 0 && sl.row == firstRow
  | none => false
/-- R253: a candidate whose group holds a slot; one that meets eight slots of other groups, two of the lowest level. -/
def slotIn (g : BitVec 4) (lv : BitVec 2) (at_ : Nat) : Slot := ⟨⟨0, g.setWidth 32⟩, .open_, g, lv, at_, at_, false, none, false, false⟩
def eight : Exec := { Exec.reset with
  slots := #v[slotIn 0 2 0, slotIn 1 1 9, slotIn 2 1 5, slotIn 3 2 0, slotIn 4 2 0, slotIn 5 2 0, slotIn 6 2 0, slotIn 7 2 0].map some }
theorem witness_ExecutorEvents_victim : (eight.victimOf (cand 9 1 2 0) = some (1, slotIn 1 1 9) ∧ eight.groupHolder 1 ≠ none) ∧
    (eight.victimOf (cand 9 12 2 0) = some (2, slotIn 2 1 5) ∧ eight.groupHolder 12 = none ∧ eight.freeSlots = 0) := by decide +kernel
theorem witness_ExecutorEvents_quantum :
    (∃ sl, (late 0 1).selSlot = some sl ∧ sl.phase = .open_ ∧ (late 0 1).quantumStart 0 0 sl + (late 0 1).quantum 0 0 sl.row ≤ (late 0 1).time ∧
      (late 0 1).couldTake sl.row = true) ∧ alone (late 0 1) = true ∧ StandsIn (late 0 1) firstRow ⟨0, 0, 0⟩ ∧
    (alone (inGroup (late 0 1)) = true ∧ ((inGroup (late 0 1)).row firstRow).inGroup = true ∧ (inGroup (late 0 1)).couldTake firstRow = true) ∧
    ({ base with time := 100000 } : State).couldTake firstRow = false :=
  ⟨⟨_, rfl, by decide +kernel⟩, by decide +kernel, stands_of _ (by decide +kernel), by decide +kernel, by decide +kernel⟩
theorem witness_ExecutorEvents_preEmption : ((late 1 0).executor 0 0).preempting = [] ∧ rival (late 1 0) = true ∧ alone (late 1 0) = true ∧
    StandsIn (late 1 0) firstRow ⟨0, 0, 0⟩ ∧ (rival (inGroup (late 1 0)) = true ∧ ((inGroup (late 1 0)).row firstRow).inGroup = true) ∧
    ({ (late 1 0).executor 0 0 with preempting := [0] } : Exec).preempting ≠ [] :=
  ⟨by decide +kernel, by decide +kernel, by decide +kernel, stands_of _ (by decide +kernel), by decide +kernel, by decide +kernel⟩
def dueClose : State := base.setExecutor 0 0 { base.executor 0 0 with
  slots := (base.executor 0 0).slots.set 0 (some ⟨firstRow, .open_, 0, 0, 0, 0, false, some 0, true, false⟩) }
/-- The refill of cycle 256: no row issues any more in it, one does, and it is not due; bank 1 holds no row. -/
def refilling (t : Nat) : State := { row (fun r => { r with issueAt := 300 }) base with time := t }
def issuesIn (s : State) : Bool :=
  s.openSeats.any (fun x => x.site == s.sel.site && x.bank == s.sel.bank && s.readyTime x == some s.time)
theorem witness_ExecutorEvents_budget :
    (((refilling 256).executor 0 0).refillDue 256 = 256 ∧ issuesIn (refilling 256) = false) ∧
    (((refilling 255).executor 0 0).refillDue 255 ≠ 255 ∧ issuesIn { base with time := 256 } = true) ∧
    ((base.setCol 0 { base.col 0 with winSum := 1 }).col 0).winSum ≠ 0 ∧ (base.col 0).clearAt ≤ ({ base with time := 256 } : State).time ∧
    dueClose.selSlot = some ⟨firstRow, .open_, 0, 0, 0, 0, false, some 0, true, false⟩ ∧ StandsIn dueClose firstRow ⟨0, 0, 0⟩ :=
  ⟨by decide +kernel, by decide +kernel, by decide +kernel, by decide +kernel, by decide +kernel, stands_of _ (by decide +kernel)⟩

/-- R147: a record that waits for a tenant without a ring, for one with room, for one whose ring is full; a ring that has been read out. -/
def ring (tail : BitVec 32) (full : Bool) : State :=
  { base.setTen 0 { base.ten 0 with fqWait := [List.replicate 64 0], fqbase := 0x20000000, fqFull := full } with
    mem := base.mem.writeBytes 0x20000008 (toBytes 4 tail) }
theorem witness_QueueEvents_ring : (({ base.ten 0 with fqWait := [List.replicate 64 0] } : Tenant).fqbase = 0) ∧
    (((ring 3 false).ten 0).fqbase ≠ 0 ∧ ((ring 3 false).ten 0).fqFull = false ∧
      (((ring 3 false).merge 0x200000 none).mem32 0x20000008 - ((ring 3 false).merge 0x200000 none).mem32 0x20000000).toNat < 1024) ∧
    1024 ≤ (((ring 1024 false).merge 0x200000 none).mem32 0x20000008 - ((ring 1024 false).merge 0x200000 none).mem32 0x20000000).toNat ∧
    ((ring 5 true).ten 0).fqFull = true := by decide +kernel
def aFieldEvent : FieldEvent := ⟨1, 0, 0, 0⟩
theorem witness_QueueEvents_field : (base.sel.arr = false ∧
      ((base.setField 0 { base.field 0 with evWait := [aFieldEvent] }).field 0).evWait = aFieldEvent :: [] ∧ (base.field 0).evq.length < 1024) ∧
    1024 ≤ (List.replicate 1024 aFieldEvent).length ∧ (at_ base (fun x => { x with arr := true })).sel.arr = true := by decide +kernel

/-! ### Events of memory and of waiting rows -/

def zeroVec : Vector (BitVec 32) 12 := Vector.replicate 12 0
/-- A vector that no field of the reset state covers. -/
def lateVec : Vector (BitVec 32) 12 := Vector.replicate 12 1
/-- The row `other`, OPEN, awaits an answer behind which it goes on at 0x2000. -/
def awaiting : State := pair (fun r => { r with st := .open_, await := some 0x2000 })
theorem awaits_of (s : State) (h : ((s.row other).await = some 0x2000 ∧ (s.row other).st = .open_) ∧ (s.row other).held = [] ∧
    (s.row other).stepping = false ∧ (s.row other).stepper = none) : Awaits s other 0x2000 :=
  ⟨h.1.1, h.1.2, h.2.1, h.2.2.1, h.2.2.2⟩

/-- R178, R272: a walk that a TLBI covers; one whose page the tables hold; one whose page they do not, with an early store in it. -/
def walkOf (dropped : Bool) (rows : List RowKey) : Walk := ⟨0, 0, rows, [0], [], dropped⟩
def ending (s : State) (w : Walk) : State := s.setSpan 0 { s.span 0 with walks := [w] }
def isOk {α β : Type} : Except α β → Bool
  | .ok _ => true
  | .error _ => false
def anEarly : EarlyStore := ⟨1, .plain, 0x1000, 0x40, [1], false, CacheHint.none, zeroVec, 0, false, none, none⟩
def oneEarly : State := pair (fun r => { r with st := .ready, early := [anEarly] })
def pagedEarly : State := leaf oneEarly
theorem witness_MemoryEvents_walks :
    ((ending base (walkOf true [])).span 0).walks[base.sel.k]? = some (walkOf true []) ∧
    (((ending paged (walkOf false [])).span 0).walks[paged.sel.k]? = some (walkOf false []) ∧ isOk (paged.walk 0 0) = true) ∧
    (((ending pagedEarly (walkOf false [other])).span 0).walks[pagedEarly.sel.k]? = some (walkOf false [other]) ∧ isOk (pagedEarly.walk 0 0) = true ∧
      (pagedEarly.row other).early = [anEarly] ∧ anEarly.inPage (walkOf false [other]) = true ∧
      holds ((ending pagedEarly (walkOf false [])).setSpan 0 { pagedEarly.span 0 with walks := [] } |>.storeFor other anEarly true) (fun _ _ => true) = true) ∧
    (((ending oneEarly (walkOf false [other])).span 0).walks[oneEarly.sel.k]? = some (walkOf false [other]) ∧ isOk (oneEarly.walk 0 0) = false ∧
      (oneEarly.row other).early = [anEarly] ∧ anEarly.inPage (walkOf false [other]) = true ∧ (oneEarly.row other).st ≠ .free ∧
      (oneEarly.row other).st ≠ .retired) := by decide +kernel
/-- A load of row 1 waits for the walk, whose page the tables hold, and do not. -/
def loadWalk : Walk := ⟨0, 0, [], [0], [(.row other, 0, 0)], false⟩
theorem witness_MemoryEvents_load : (((ending paged loadWalk).span 0).walks[paged.sel.k]? = some loadWalk ∧ isOk (paged.walk 0 0) = true ∧
      (paged.col 0).tlbFind 0 0 = none) ∧
    (isOk (base.walk 0 0) = false ∧ ((pair (fun r => { r with st := .open_, mid := .restart })).row other).mid ≠ .none) := by decide +kernel
def isMiss {α : Type} (x : Res α) : Bool := match x with | .miss _ => true | _ => false
/-- A matrix job's access waits for the walk, whose page the tables hold, and do not. -/
def jobWalk : Walk := ⟨0, 0, [], [0], [(.job 0 1, 0, 0)], false⟩
theorem witness_MemoryEvents_job : (∀ s ∈ [paged, base], let u := ending (s.setCol 0 { s.col 0 with jobs := [aJob 1 .running 0] }) jobWalk
      (u.span 0).walks[u.sel.k]? = some jobWalk ∧ (u.col 0).jobs = [aJob 1 .running 0] ∧ (u.col 0).tlbFind 0 0 = none) ∧
    isOk (paged.walk 0 0) = true ∧ isOk (base.walk 0 0) = false := by decide +kernel
/-- R107, R119: an early store whose page is migrate-on-touch and of another column; one into a receive window that is not filled. -/
def leafOf (e : BitVec 64) (s : State) : State :=
  let m := (s.mem.writeBytes 0x20000000 (toBytes 8 (0x20001001#64))).writeBytes 0x20001000 (toBytes 8 (0x20002001#64))
  let u : State := { s with mem := m.writeBytes 0x20002000 (toBytes 8 e) }
  u.setTen 0 { u.ten 0 with ptbase := 0x20000000 }
theorem witness_MemoryEvents_due : (let s := leafOf (0x98000407#64) oneEarly
      isOk (s.walk 0 0) = true ∧ (match s.storeFor other anEarly true with | .move n => n == 1 | _ => false) = true) ∧
    ((pagedEarly.row other).st == .free || (pagedEarly.row other).st == .retired) = false := by decide +kernel
theorem witness_MemoryEvents_tlbi : let s : State := { awaiting with tlbis := [⟨other, none, 3, 0⟩] }
    s.tlbis[s.sel.k]? = some ⟨other, none, 3, 0⟩ ∧ (∀ z ∈ s.spans, z.2.walks.any (fun w => w.dropped) = false) ∧ Awaits s other 0x2000 :=
  ⟨by decide +kernel, by decide +kernel, awaits_of _ (by decide +kernel)⟩

/-- R229: an element at DRAM or at the scratchpad, and a release; an acknowledgement; a notice from field 1 to field 0. -/
def element (scratch : Bool) (vec : Option (Vector (BitVec 32) 12)) : Red :=
  ⟨other, true, .add, 8, 0x18000040, scratch, 0, 1, vec.isSome, vec, none, 1, 1, ⟨false, 0⟩⟩
def withRed (x : Red) : State := { readyRow with reds := [x], ops := 1 }
theorem witness_MemoryEvents_reductions : (∀ b ∈ [true, false], (withRed (element b none)).reds[readyRow.sel.k]? = some (element b none) ∧
      (withRed (element b none)).redMay (element b none) = true ∧ (withRed (element b none)).redFirst 0 (element b none) = true) ∧
    (let x := { element false (some lateVec) with span := 8, pa := 0x418000040 }; (withRed x).reds[readyRow.sel.k]? = some x ∧ (withRed x).redMay x = false) ∧
    ({ readyRow with acks := [other] } : State).acks[readyRow.sel.k]? = some other ∧
    (at_ base (fun x => { x with field := 1 })).sel.k = (0 : Fin 12).val ∧ (at_ base (fun x => { x with field := 1 })).sel.field.toNat = (1 : Fin 12).val := by
  decide +kernel

/-- R225, R228: an atomic and a STFE parked at their home, covered and not; a parked release, covered and not. -/
def homeOp (op : HomeDo) (v : Vector (BitVec 32) 12) : HomeOp := ⟨other, 1, 3, ⟨false, 0⟩, 0x2000, 8, op, some v, none⟩
def parkedOp (op : HomeDo) (v : Vector (BitVec 32) 12) : State := { awaiting with homeOps := [homeOp op v], ops := 1 }
def anAtom : HomeDo := .atom .add 8 false 0x418000040 1 0 5 false false
def aRelease (v : Vector (BitVec 32) 12) : Parked := ⟨other, 1, 0, .dram 0x418000040, page.attr, CacheHint.none, [1], some v, none⟩
def releases (v : Vector (BitVec 32) 12) : State := { readyRow with parked := [aRelease v], ops := 1 }
theorem witness_MemoryEvents_parked : (∀ op ∈ [anAtom, .stfe 0x418000040 1 2],
      (parkedOp op zeroVec).homeOps[awaiting.sel.k]? = some (homeOp op zeroVec) ∧ (parkedOp op zeroVec).homeMay (homeOp op zeroVec) = true ∧
      (parkedOp op lateVec).homeMay (homeOp op lateVec) = false) ∧
    (releases lateVec).releasable other 1 0 ((Loc.dram 0x418000040).field 0) (some lateVec) = false ∧
    ((releases zeroVec).parked[readyRow.sel.k]? = some (aRelease zeroVec) ∧
      (releases zeroVec).releasable other 1 0 ((Loc.dram 0x418000040).field 0) (some zeroVec) = true) := by decide +kernel

/-- R113: a line of another field with two dirty bytes, and room for its write-back or none. -/
def dirtyLine : State := base.setCol 0 { base.col 0 with cache := [⟨0x4180000, Memory.writeBytes [] 3 [9, 8], 1, [3, 4], [], 0, 0⟩] }
theorem witness_MemoryEvents_writeBack : dirtyLine.departRoom 0 = true ∧ (noRoom dirtyLine).departRoom 0 = false ∧
    ((dirtyLine.col 0).line 0x4180000).isSome = true ∧ dirtyLine.mem.wf = true ∧
    (∀ c ∈ dirtyLine.cols, c.1 ≠ 0 → c.2.line 0x4180000 = none) := by decide +kernel

/-- R245: a WAITING row for each cause, and one that waits for nothing of the kind. -/
def waits (waiton : BitVec 32) (f : Row → Row) : State := onOther (pair (fun r => f { r with st := .waiting, waiton := waiton }))
theorem witness_WakeEvents_queues :
    (let s : State := { waits 2 (fun r => { r with hold := 5 }) with holdWakes := [⟨other, 5⟩] }
     s.holdWakes[s.sel.k]? = some ⟨other, 5⟩ ∧ (s.row other).st = .waiting ∧ (s.row other).waiton = 2 ∧ (s.row other).hold = 5) ∧
    ((readyRow.row other).st ≠ .moving ∧ (readyRow.row other).st ≠ .waiting) ∧ ((pair (fun r => { r with st := .moving })).row other).st = .moving ∧
    (let s : State := { waits 1 (fun r => { r with mon := r.mon.set 0 ⟨7, true⟩ }) with fires := [⟨other, 0, 7⟩] }
     s.fires[s.sel.k]? = some ⟨other, 0, 7⟩ ∧ (s.row other).mon[0] = ⟨7, true⟩ ∧ (s.row other).st = .waiting ∧ (s.row other).waiton = 1 ∧
       (s.row other).joinw = none) ∧
    (readyRow.row other).mon[0] ≠ ⟨7, true⟩ ∧
    (let s : State := { waits 1 (fun r => { r with joinw := some 0x40 }) with joinWakes := [other] }
     s.joinWakes[s.sel.k]? = some other ∧ (s.row other).st = .waiting ∧ (s.row other).joinw ≠ none) := by decide +kernel
theorem witness_WakeEvents_causes :
    (let s := waits 1 (fun r => { r with deadline := some 5 })
     s.selRow = other ∧ (s.row other).deadline = some 5 ∧ (s.timeAt (s.siteOf other)).toNat < 5 ∧
       5 ≤ (({ s with time := 5 } : State).timeAt (s.siteOf other)).toNat) ∧
    (let s := waits 5 (fun r => { r with fill := some (3, 0) })
     (s.row other).fill = some (3, 0) ∧ 0 ≤ (s.col (s.siteOf other)).fillOf 3 ∧ (s.col (s.siteOf other)).fillOf 3 < 1) ∧
    (let s := waits 6 (fun r => { r with predid := 5 })
     (s.row other).waiton = 6 ∧ s.liveLaunch other.t (s.row other).predid = false ∧
       (s.setTen 0 { s.ten 0 with launches := [⟨5, [], .placed, false, 0, false, false, [], 0, [], false, zeroVec⟩] }).liveLaunch 0 5 = true) := by
  decide +kernel
theorem witness_WakeEvents_answers :
    (let x : LdfeAns := ⟨other, 0x40, 9, 5, 2, 3, 0x2000, some zeroVec⟩
     let s : State := { waits 4 id with ldfeAns := [x] }
     s.ldfeAns[s.sel.k]? = some x ∧ (s.ldfeAns.take s.sel.k).any (fun z => z.pa == x.pa) = false ∧ (s.row other).st = .waiting ∧
       (s.row other).waiton = 4 ∧ (s.row other).held = [] ∧ (s.row other).stepping = false ∧ (s.row other).stepper = none) ∧
    (let x : LdfeAns := ⟨other, 0x40, 9, 5, 2, 3, 0x2000, none⟩
     let s : State := at_ { waits 4 id with ldfeAns := [x, x] } (fun y => { y with k := 1 })
     s.ldfeAns[s.sel.k]? = some x ∧ (s.ldfeAns.take s.sel.k).any (fun z => z.pa == x.pa) = true) := by decide +kernel
/-- R159: the hold operations of row 1 at a span; an abandonment that one of them precedes, and that an atomic does not; a place that
waits, one that holds, and none. -/
def ownOp (span : BitVec 7) (o : HomeOp) : Bool := o.row == other && o.home == span &&
  (match o.op with | .hgive _ _ _ => true | .hrel _ => true | .atom _ _ _ _ _ _ _ _ _ => false | .stfe _ _ _ => false)
def abandoning (s : State) (span : BitVec 7) : State := { s with abandons := [⟨other, span⟩] }
def precedes (s : State) (span : BitVec 7) : Bool := s.homeOps.any (fun o => ownOp span o && !s.stuck other o.seq)
theorem witness_WakeEvents_abandonment :
    (∀ s ∈ [two, parkedOp anAtom lateVec], (abandoning s 8).abandons[s.sel.k]? = some ⟨other, 8⟩ ∧ precedes s 8 = false) ∧
    precedes { awaiting with homeOps := [{ homeOp (.hrel 0x1001) lateVec with home := 8 }], ops := 1 } 8 = true ∧
    (two.placesOf other 0 1 = [] ∧ two.placesOf other 0 2 = []) ∧
    (let s := heldWord 1 0x201 2 [(0, placeAt 0 2 0xFFFF 1), (1, placeAt 1 1 0 0xFFFF)] two
     MemoryForm s ∧ s.placesOf other 0 1 = [1] ∧ s.placesOf other 0 2 = []) ∧
    (let s := heldWord 1 1 1 [(0, placeAt 1 2 0xFFFF 0xFFFF)] two
     s.placesOf other 0 1 = [] ∧ s.placesOf other 0 2 = [0]) :=
  ⟨by decide +kernel, by decide +kernel, by decide +kernel, ⟨⟨by decide +kernel, by decide +kernel⟩, by decide +kernel⟩, by decide +kernel⟩

/-- R144, R257: a message that its target takes and one that bounces; at the head of the queue, with a bank that takes it and without. -/
def message (target : BitVec 10) : SpawnMsg := ⟨other, 0x2000, 1, 0x2000, 0, 0, 5, 0, [1, 2], zeroVec, 0, target, 2, false⟩
def withMessage (m : SpawnMsg) : State := { awaiting with spawns := [m], ops := 1 }
def serves (binds : List Bind) (m : SpawnMsg) : State :=
  let s := two.setExecutor 0 1 { two.executor 0 1 with binds := binds }
  s.setCol 0 { s.col 0 with spawnq := [m] }
def bind5 : Bind := ⟨5, 0, 1, false, 16, 0, 0, 1, none⟩
def joining : SpawnMsg := { message 0 with join := 0x40 }
theorem witness_SpawnEvents_arrival : (∀ x ∈ [0, 1], (withMessage (message x)).spawns[awaiting.sel.k]? = some (message x) ∧
      (withMessage (message x)).releasable other 1 0 (fieldOfSite x.toNat) (some zeroVec) = true ∧
      (withMessage (message x)).departRoom 0 = true ∧ (noRoom (withMessage (message x))).departRoom 0 = false ∧
      (withMessage (message x)).bounces (message x) = decide (x = 1)) ∧
    (let m := { message 80 with dv := lateVec }; (withMessage m).releasable other 1 0 (fieldOfSite 80) (some m.dv) = false) :=
  ⟨by decide +kernel, by decide +kernel⟩
def joined : Res (Loc × Attr) := (mapped (withMessage joining)).check ⟨0, ((withMessage joining).row other).priv, 0, true, none⟩ .atom (addr48 joining.join) 8
theorem witness_SpawnEvents_join : (mapped (withMessage joining)).bounces joining = false ∧ joining.join ≠ 0 ∧
    holds joined (fun x v => x.1 == .dram 0x18000040 && v.spawns == [joining] && v.sel == awaiting.sel && (v.row other).await == some 0x2000) = true := by
  decide +kernel
theorem witness_SpawnEvents_awaits : Awaits (withMessage (message 0)) other 0x2000 := awaits_of _ (by decide +kernel)
theorem witness_SpawnEvents_serve : (((serves [] (message 0)).col 0).spawnq = [message 0] ∧ ((serves [] (message 0)).ten 0).st = .active ∧
      (serves [] (message 0)).chooseBank 0 5 0 = none ∧ (message 0).posted = false) ∧
    (serves [] { message 0 with posted := true }).chooseBank 0 5 0 = none ∧
    ((serves [bind5] (message 0)).chooseBank 0 5 0 = some (1, 1, false) ∧ compOf ((serves [bind5] (message 0)).col 0).comp 0 5 = none) := by
  decide +kernel

/-- R258: row 2 moves to column 0 while row 1 of it is FREE; one that moves to a column that is none of its tenant's. -/
def moving (site : BitVec 10) : State :=
  let s := two.setTen 0 { two.ten 0 with dirsize := 3 }
  let s := s.setRow ⟨0, 2⟩ { s.row ⟨0, 2⟩ with st := .moving, move := some site, launch := 5 }
  let s := s.setExecutor 0 1 { s.executor 0 1 with binds := [bind5] }
  at_ s (fun x => { x with n := 2 })
theorem witness_SpawnEvents_move : (∀ x ∈ [0, 1], (moving x).selRow = ⟨0, 2⟩ ∧ ((moving x).row ⟨0, 2⟩).move = some x ∧ ((moving x).row ⟨0, 2⟩).st = .moving ∧
      (moving x).slotOf ⟨0, 2⟩ = none ∧ ((moving x).row ⟨0, 2⟩).held = [] ∧ ((moving x).row ⟨0, 2⟩).stepping = false ∧
      ((moving x).row ⟨0, 2⟩).stepper = none) ∧
    ((moving 0).moveFails ⟨0, 2⟩ 0 = none ∧ (moving 0).chooseBank 0 5 0 = some (1, 1, false) ∧ ((moving 0).row ⟨0, 1⟩).st = .free) ∧
    (moving 1).moveFails ⟨0, 2⟩ 1 = some 1 := by decide +kernel

/-- A move that fails with an early store that was to be made at the target, and with none. -/
theorem witness_SpawnEvents_moveFails : (∀ y ∈ ((moving 1).row ⟨0, 2⟩).early, y.due = false) ∧
    (let s := (moving 1).setRow ⟨0, 2⟩ { (moving 1).row ⟨0, 2⟩ with early := [{ anEarly with due := true }] }
     s.moveFails ⟨0, 2⟩ 1 = some 1 ∧ (((s.row ⟨0, 2⟩).moveRefused s.ops).replay).length = 1) := by decide +kernel

/-! ### Events of launches, columns and jobs -/

/-- The record of one cell, at 0x1000. -/
def recBytes : List Byte := [1, 0, 1, 0, 0, 0, 0, 0, 0, 0, 0, 0, 0, 0x10, 0, 0] ++ List.replicate 176 0
def aLaunch (ph : LaunchPhase) : Launch := ⟨5, recBytes, ph, false, 0, false, false, [], 0, [], false, zeroVec⟩
def launching (l : Launch) (s : State) : State := s.setTen 0 { s.ten 0 with launches := [l] }
def inTenant (st : TenantSt) (s : State) : State := s.setTen 0 { s.ten 0 with st := st }
def filled : State := (launching (aLaunch .waiting) two).setCol 0 { two.col 0 with comp := List.replicate 64 ⟨1, 1, 1, false⟩ }
def loadingTwo : State := launching (aLaunch .waiting) (two.setTen 0 { two.ten 0 with loading := some ⟨[], []⟩ })
def dueTwo : State := (launching (aLaunch .waiting) two).setCol 0 { two.col 0 with suspect := true }
theorem witness_LaunchEvents_placement :
    (((launching (aLaunch .waiting) two).ten 0).launches.find? (fun y => y.phase == .waiting) = some (aLaunch .waiting) ∧
      ((launching (aLaunch .waiting) two).ten 0).st = .active ∧ ((launching (aLaunch .waiting) two).ten 0).loading = none ∧
      (launching (aLaunch .waiting) two).retirementDue 0 = false ∧
      (launching (aLaunch .waiting) two).plan 0 (aLaunch .waiting) = some [⟨0, 0, 1, none⟩] ∧
      (launching (aLaunch .waiting) two).planFits (aLaunch .waiting) [⟨0, 0, 1, none⟩] = true) ∧
    ((inTenant .stopped (launching (aLaunch .waiting) two)).ten 0).st ≠ .active ∧ (loadingTwo.ten 0).loading ≠ none ∧ dueTwo.retirementDue 0 = true ∧
    (launching (aLaunch .waiting) base).plan 0 (aLaunch .waiting) = none ∧
    (filled.plan 0 (aLaunch .waiting) = some [⟨0, 0, 1, none⟩] ∧ filled.planFits (aLaunch .waiting) [⟨0, 0, 1, none⟩] = false) := by decide +kernel
def placedCell : State := at_ (launching { aLaunch .placed with todo := [⟨0, 0, 1, none⟩] } two) (fun x => { x with lnch := 5 })
/-- The bank has no row left for the cell. -/
def noRow : State := placedCell.setRow other { placedCell.row other with st := .retired }
theorem witness_LaunchEvents_start : ((placedCell.ten 0).launch placedCell.sel.lnch = some { aLaunch .placed with todo := [⟨0, 0, 1, none⟩] } ∧
      placedCell.sel.site = 0 ∧ covers (placedCell.field (fieldOfSite placedCell.sel.site.toNat)).fav zeroVec = true) ∧
    placedCell.allotCells 0 5 [⟨0, 0, 1, none⟩] = some [(⟨0, 0, 1, none⟩, 1)] ∧ noRow.allotCells 0 5 [⟨0, 0, 1, none⟩] = none ∧
    (placedCell.ten 0).st = .active ∧ ((inTenant .stopped placedCell).ten 0).st ≠ .active := by decide +kernel

/-- R205: a retirement; entries of a column, a field and the wafer at 0 and above; a launch that has hinted. -/
def retired1 : Retire := ⟨other, 0, 5, 0, false⟩
def counts (c f w : BitVec 18) (l : Launch) : State :=
  let s := launching l two
  let s := s.setCol 0 { s.col 0 with comp := [⟨0, 5, c, false⟩] }
  let s := s.setField 0 { s.field 0 with comp := [⟨0, 5, f, false⟩] }
  at_ { s with wcomp := [⟨0, 5, w, false⟩] } (fun x => { x with lnch := 5 })
theorem witness_CompletionEvents_counts :
    (let s : State := { two with retires := [retired1] }
     s.retires[s.sel.k]? = some retired1 ∧ (s.releaseFar (s.siteOf other)).settled other = true ∧ retired1.join = 0) ∧
    (let s : State := { oneEarly with retires := [retired1] }
     s.retires[s.sel.k]? = some retired1 ∧ (s.releaseFar (s.siteOf other)).settled other = false) ∧
    (let x : Retire := { retired1 with join := 0x40 }
     let s : State := mapped { two with retires := [x] }
     s.retires[s.sel.k]? = some x ∧ (s.releaseFar (s.siteOf other)).settled other = true ∧ x.join ≠ 0 ∧
       holds ((s.releaseFar (s.siteOf other)).check ⟨0, x.sup, s.siteOf other, true, none⟩ .atom (addr48 x.join) 8) (fun y _ => y.1 == .dram 0x18000040) = true) ∧
    (two.departRoom 0 = true ∧ (noRoom two).departRoom 0 = false) ∧
    compOf ((counts 0 1 1 (aLaunch .placed)).col 0).comp 0 5 = some ⟨0, 5, 0, false⟩ ∧
    compOf ((counts 1 1 1 (aLaunch .placed)).col 0).comp 0 5 = some ⟨0, 5, 1, false⟩ ∧
    compOf ((counts 0 0 1 (aLaunch .placed)).field (counts 0 0 1 (aLaunch .placed)).sel.field.toNat).comp 0 5 = some ⟨0, 5, 0, false⟩ ∧
    (compOf (compStep (counts 0 0 1 (aLaunch .placed)).wcomp 0 5 false) 0 5 = some ⟨0, 5, 0, false⟩ ∧
      compOf (compStep (counts 0 0 2 (aLaunch .placed)).wcomp 0 5 false) 0 5 = some ⟨0, 5, 1, false⟩) ∧
    ((counts 0 0 1 (aLaunch .placed)).ten 0).launch (counts 0 0 1 (aLaunch .placed)).sel.lnch = some (aLaunch .placed) := by decide +kernel
/-- The successor's record stands at 0x40. -/
def hintedLaunch : Launch := { aLaunch .placed with record := (aLaunch .placed).record.set 0x18 0x40, hinted := true }
def succeeds : State := at_ (launching hintedLaunch record) (fun x => { x with lnch := 5 })
theorem witness_CompletionEvents_successor : (succeeds.ten 0).launch succeeds.sel.lnch = some hintedLaunch ∧ hintedLaunch.succ = 0x40 ∧
    holds (succeeds.recordAt ⟨0, hintedLaunch.sup, ((succeeds.ten 0).cols.headD 0).toNat, true, none⟩ (addr48 hintedLaunch.succ)) (fun r v =>
      match v.submit 0 r hintedLaunch.sup 5 hintedLaunch.vec with | .ok _ => true | .error _ => false) = true := by decide +kernel

/-- R133, R134: a push meets a channel with room, a full one, one bound to another launch's pipes. -/
def aPush (bnd : Bool) (v : Option (Vector (BitVec 32) 12)) (to_ : BitVec 10) : Push := ⟨other, 0x2000, 1, to_, 3, 7, false, 2, 0, bnd, v⟩
def push (m : Push) (c : Chan) : State :=
  { awaiting with pushes := [m], ops := 1 }.setCol 0 { awaiting.col 0 with chans := (awaiting.col 0).chans.set 3 c }
theorem witness_ArrivalEvents_push : ((push (aPush false none 0) ⟨0, 511, 511, false, 0, 0⟩).pushes[awaiting.sel.k]? = some (aPush false none 0) ∧
      (push (aPush false none 0) ⟨0, 511, 511, false, 0, 0⟩).releasable other 1 0 0 none = true ∧
      (push (aPush false none 0) ⟨0, 511, 511, false, 0, 0⟩).pushAhead other 0 3 1 = false ∧
      ((push (aPush false none 0) ⟨0, 511, 511, false, 0, 0⟩).chan 0 3).bound = false ∧
      ((push (aPush false none 0) ⟨0, 511, 511, false, 0, 0⟩).chan 0 3).count.toNat < 512) ∧
    512 ≤ ((push (aPush false none 0) ⟨0, 0, 512, false, 0, 0⟩).chan 0 3).count.toNat ∧
    ((aPush true none 0).bound = true ∧ ((push (aPush true none 0) ⟨0, 0, 0, false, 0, 0⟩).chan 0 3).bound = false) ∧
    (((push (aPush true none 0) ⟨0, 0, 0, true, 6, 0⟩).chan 0 3).bound = true ∧
      ((push (aPush true none 0) ⟨0, 0, 0, true, 6, 0⟩).chan 0 3).lnch ≠ (aPush true none 0).lnch) ∧
    (push (aPush false (some lateVec) 80) ⟨0, 0, 0, false, 0, 0⟩).releasable other 1 0 (fieldOfSite 80) (some lateVec) = false ∧
    Awaits (push (aPush false none 0) ⟨0, 511, 511, false, 0, 0⟩) other 0x2000 ∧ Awaits (push (aPush true none 0) ⟨0, 0, 0, false, 0, 0⟩) other 0x2000 :=
  ⟨by decide +kernel, by decide +kernel, by decide +kernel, by decide +kernel, by decide +kernel, awaits_of _ (by decide +kernel), awaits_of _ (by decide +kernel)⟩

/-- R138, R142: a transfer with a sector and parts to go; one that has arrived, with and without a DONE word; a metadata queue. -/
def sending (l : List Sector) (p : List HaloPart) (done : Option (Nat × Keep)) : Send := ⟨other, .window 3, l, p, done, none⟩
def withSend (x : Send) : State := two.setCol 0 { two.col 0 with sends := [x] }
def aSector : Sector := ⟨0, 32, List.replicate 32 1⟩
def heldMeta (n : Nat) : State := two.setCol 0 { two.col 0 with mq := (two.col 0).mq.set 0 (List.replicate n 0), mqHeld := (two.col 0).mqHeld.set 0 [5] }
/-- R138: a sector of the metadata kind, with two entries. R133: an earlier push of the row to the channel that has not arrived. -/
def metaSend : State := two.setCol 0 { two.col 0 with sends := [⟨other, .metadata 1, [⟨0, 32, List.replicate 32 1⟩], [], none, none⟩] }
theorem witness_ArrivalEvents_kinds : ((metaSend.col 0).serving 0).map (fun x => (decide (x.kind = .metadata 1), x.sectors[0]?.isSome)) = some (true, true) ∧
    ({ push { aPush false none 0 with seq := 2 } ⟨0, 0, 0, false, 0, 0⟩ with
      pushes := [{ aPush false none 0 with seq := 2 }, aPush false none 0] } : State).pushAhead other 0 3 2 = true := by decide +kernel
theorem witness_ArrivalEvents_sends : two.sel.site = 0 ∧ two.sel.k = 0 ∧ two.sel.j = 0 ∧
    ((withSend (sending [aSector] [⟨1, 2⟩] none)).col 0).serving 0 = some (sending [aSector] [⟨1, 2⟩] none) ∧
    [aSector].any (fun y => y.target == 1) = false ∧ bit (two.col 0).arr[3] (aSector.off / 32) = false ∧
    bit (({ two.col 0 with arr := (two.col 0).arr.set 3 2 } : Column)).arr[3] (aSector.off / 32) = true ∧
    ((withSend (sending [] [] none)).col 0).serving 0 = some (sending [] [] none) ∧
    ((withSend (sending [] [] (some (0x18000040, ⟨false, 0⟩)))).col 0).serving 0 = some (sending [] [] (some (0x18000040, ⟨false, 0⟩))) := by decide +kernel
theorem witness_ArrivalEvents_room : (withSend (sending [] [] none)).departRoom 0 = true ∧ (noRoom (withSend (sending [] [] none))).departRoom 0 = false := by
  decide +kernel
theorem witness_ArrivalEvents_metadata : ((heldMeta 63).col 0).mqHeld[0] = 5 :: [] ∧ ((heldMeta 63).col 0).mq[0].length < 64 ∧
    64 ≤ ((heldMeta 64).col 0).mq[0].length := by decide +kernel

/-- R375, R403: a block of 32 bytes for a link that is paired; a full queue; a pairing in progress; a block on its way to the peer. -/
def arriving (p : Option (BitVec 4)) (n : Nat) : State :=
  let s := gate p base
  at_ (s.setCol 0 { s.col 0 with gateq := List.replicate n ⟨[]⟩ }) (fun x => { x with acc := ⟨true, 0, 32, List.replicate 32 7⟩ })
def pairingUp : State := { base with links := [(0, ⟨0, none, some ⟨0, 0, 0⟩, 0⟩)] }
def leaving (done : Option (Nat × Keep)) : State := base.setCol 0 { base.col 0 with gateOut := [⟨firstRow, 1, 0, 0, [], done, zeroVec⟩] }
theorem witness_ArrivalEvents_links :
    ((arriving (some 0) 255).links.find? (fun y => y.1 == (arriving (some 0) 255).sel.link.toNat) = some (0, ⟨0, some 0, none, 0⟩) ∧
      ((arriving (some 0) 255).col 0).gateq.length < 256 ∧ (arriving (some 0) 255).sel.k % 32 = 0 ∧
      (arriving (some 0) 255).sel.acc.data.length % 32 = 0 ∧ (arriving (some 0) 255).sel.k + (arriving (some 0) 255).sel.acc.data.length ≤ 16384) ∧
    (arriving none 0).links = [(0, ⟨0, none, none, 0⟩)] ∧ 256 ≤ ((arriving (some 0) 256).col 0).gateq.length ∧
    (pairingUp.links = [(0, ⟨0, none, some ⟨0, 0, 0⟩, 0⟩)] ∧ (pairingUp.col 0).owner = some 0 ∧ pairingUp.sel.arr = false) ∧
    (∀ d ∈ [none, some (0x18000040, ⟨false, 0⟩)], ((leaving d).col (leaving d).sel.site.toNat).gateOut[(leaving d).sel.k]? = some ⟨firstRow, 1, 0, 0, [], d, zeroVec⟩) := by
  decide +kernel

/-- R362: a queued job of no rows; one of one element (mode I8, K = 1), queued and running, whose operands stand at 0. -/
def one : BitVec 128 := 1 + (1 <<< 32) + (1 <<< 64) + (2 <<< 96)
def jobbing (s : State) (x : Job) : State := s.setCol 0 { s.col 0 with jobs := [x] }
def oneJob (st : JobSt) : Job := { aJob 1 st one with opRec := 0x2000 }
theorem witness_JobEvents_start : (let x := aJob 1 .queued 0
      let s := at_ (jobbing base x) (fun y => { y with arr := true })
      (s.col 0).jobs = [x] ∧ (Extents.ofBits x.opsnap).signSelect = s.sel.arr ∧ (s.ten x.row.t).st = .active ∧ (Extents.ofBits x.opsnap).m = 0) ∧
    (let x := oneJob .queued
      let s := jobbing paged x
      let e := Extents.ofBits x.opsnap
      (s.col 0).jobs = [x] ∧ e.signSelect = s.sel.arr ∧ e.m ≠ 0 ∧ e.n ≠ 0 ∧ x.progw.toNat < e.tiles ∧ e.k ≠ 0 ∧
        holds ((s.acquireFar 0).jobRead (x.who 0) .record x.opRec 48) (fun _ _ => true) = true) := by decide +kernel
def faultOf {α : Type} (x : Res α) : Option Flt :=
  match x with
  | .fault f => some f
  | .ok _ _ => none
  | .wait _ _ => none
  | .stall => none
  | .miss _ => none
  | .move _ => none
def noPaging : State := (jobbing base (oneJob .running)).setTen 0 { base.ten 0 with fpol := 0 }
theorem witness_JobEvents_tile : ((jobbing paged (oneJob .running)).selJob = some (oneJob .running) ∧ (Extents.ofBits one).mode ≠ 3 ∧
      holds ((jobbing paged (oneJob .running)).jobTile 0 (oneJob .running)) (fun _ _ => true) = true) ∧
    (match faultOf ((jobbing base (oneJob .running)).jobTile 0 (oneJob .running)) with
      | some f => f.code == 0x05 && f.sub == 1 && bit ((jobbing base (oneJob .running)).ten 0).fpol 4
      | none => false) = true ∧
    ((faultOf (noPaging.jobTile 0 (oneJob .running))).isSome = true ∧ bit (noPaging.ten 0).fpol 4 = false) := by decide +kernel

/-- R178: a job whose C is not in the TLB while a walk that may give its page is outstanding; the end of one whose status word is not. -/
theorem witness_JobEvents_miss : isMiss ((jobbing paged (oneJob .running)).jobTile 0 (oneJob .running)) = false ∧
    (let s := (jobbing paged (oneJob .running)).setSpan 0 { paged.span 0 with walks := [⟨0, 0, [], [0], [], false⟩] }
     isMiss (s.jobTile 0 (oneJob .running)) = true) ∧
    (let x := { aJob 1 .finished 0 with mbox := 0x40 }
     let s := (jobbing paged x).setSpan 0 { paged.span 0 with walks := [⟨0, 0, [], [0], [], false⟩] }
     isMiss (s.check (x.who 0) .store x.mbox 8) = true ∧ (s.ten 0).st = .active) := by decide +kernel

/-- R375, R367: a cancel that finds no job, and one of the row's that is queued; the end of a job, its release covered or not; its notice. -/
def cancelling (l : List Job) : State := { awaiting with mxcans := [⟨0, other, 1, 2⟩] }.setCol 0 { awaiting.col 0 with jobs := l }
def ended (v : Vector (BitVec 32) 12) : Job := { aJob 1 .finished 0 with vec := v }
def noticed (st : RowSt) (waiton : BitVec 32) : State :=
  { pair (fun r => { r with st := st, waiton := waiton, tickets := [⟨7, 0, .running, 0, none, zeroVec⟩] }) with jobNotes := [⟨other, 7, 0, 1, none, zeroVec⟩] }
theorem witness_JobEvents_ends : ((cancelling []).mxcans[awaiting.sel.k]? = some ⟨0, other, 1, 2⟩ ∧ ((cancelling []).col 0).jobs = []) ∧
    ((cancelling [{ aJob 1 .queued 0 with row := other }]).col 0).jobs = [{ aJob 1 .queued 0 with row := other }] ∧
    ((jobbing base (ended zeroVec)).selJob = some (ended zeroVec) ∧ (base.ten 0).st = .active ∧ ((inTenant .stopped base).ten 0).st ≠ .active ∧ ((jobbing base (ended zeroVec)).endJob 0 (ended zeroVec) false).isSome = true ∧
      (jobbing paged (ended lateVec)).endJob 0 (ended lateVec) false = none) ∧
    ((noticed .waiting 3).jobNotes[base.sel.k]? = some ⟨other, 7, 0, 1, none, zeroVec⟩ ∧ ((noticed .waiting 3).row other).st = .waiting ∧
      ((noticed .waiting 3).row other).waiton = 3 ∧ ((noticed .waiting 3).row other).jobWait = none) ∧
    ((noticed .ready 0).row other).st ≠ .waiting := by decide +kernel
theorem witness_JobEvents_cancel : Awaits (cancelling []) other 0x2000 ∧ Awaits (cancelling [{ aJob 1 .queued 0 with row := other }]) other 0x2000 :=
  ⟨awaits_of _ (by decide +kernel), awaits_of _ (by decide +kernel)⟩

/-! ### Events of the device, its tenants and its host -/

/-- R116, R117, R213: a transition of the span with and without a row that awaits it; a way that wakes; a count below and at its threshold;
an error that is 2^30 cycles old. -/
def transition (r : Option RowKey) : State := awaiting.setSpan 0 { awaiting.span 0 with trans := some 2, transRow := r }
theorem witness_DeviceEvents_spans : (∀ r ∈ [none, some other], ((transition r).span (transition r).sel.span.toNat).trans = some 2 ∧
      ((transition r).span (transition r).sel.span.toNat).transRow = r) ∧
    bit ((base.setSpan 0 { base.span 0 with waking := 1 }).span 0).waking base.sel.way.toNat = true ∧ bit (base.span 0).waking 0 = false ∧
    ((base.setCol 0 { base.col 0 with cethr := 1 }).col 0).cethr ≤ BitVec.ofNat 32 (min 1 (2 ^ 32 - 1)) ∧
    ((base.setCol 0 { base.col 0 with cethr := 0 }).col 0).cethr = 0 ∧
    ({ base.col 0 with ceTimes := [0, 5] } : Column).ceTimes.filter (fun a => decide (2 ^ 30 < a + 2 ^ 30)) = [5] := by decide +kernel
theorem witness_DeviceEvents_wait : Awaits (transition (some other)) other 0x2000 := awaits_of _ (by decide +kernel)
def suspect (o : Option (BitVec 4)) (l : List Launch) : State :=
  (State.reset.setCol 0 { State.reset.col 0 with suspect := true, owner := o }).setTen 0 { State.reset.ten 0 with cols := [0], launches := l }
/-- Column 0, suspect, with row 1 of the tenant in it, which may move to column 1, or which may not. -/
def stays (room : Bool) : State :=
  let s := two.setTen 0 { two.ten 0 with dirsize := 3, cols := [0, 1], launches := [] }
  let s := s.setDir ⟨0, 2⟩ ⟨if room then 1 else 0, 1, 1, 2, true, false⟩
  let s := (s.setRow firstRow { s.row firstRow with st := .free }).setRow other { s.row other with st := .retired }
  (s.setCol 0 { Column.reset with suspect := true, owner := some 0 }).setCol 1 { Column.reset with owner := some 0 }
theorem witness_DeviceEvents_columns : (∀ o ∈ [none, some 0], ((suspect o []).col (suspect o []).sel.site.toNat).suspect = true ∧
      (suspect o []).inService 0 = true ∧ ((suspect o []).col 0).owner = o ∧ ((suspect o []).col 0).idle = true ∧
      (suspect o []).idsAt 0 0 = [] ∧ (suspect o []).launchBoundary 0 0 = true) ∧
    (suspect (some 0) [aLaunch .placed]).launchBoundary 0 0 = false ∧ (base.col 0).suspect = false ∧
    (∀ b ∈ [true, false], ((stays b).idsAt 0 0).filter (fun n => ((stays b).row ⟨0, n⟩).st != .free) = [1] ∧ (stays b).launchBoundary 0 0 = true ∧
      ((stays b).col 0).idle = true ∧ ((stays b).relocate ⟨0, 1⟩).isSome = b) ∧
    (base.bootLock = true ∧ (500 : BitVec 16) ≠ base.mplim ∧ mapCount base.harvest = 900 ∧ mapCount harvestB = 850) ∧
    (base.good 0 = true ∧ base.good 960 = false ∧ base.inService 0 = true ∧ base.inService 960 = false) ∧
    decide (105 ≤ (105 : BitVec 8).toNat) ≠ base.throt ∧ (decide (105 ≤ (20 : BitVec 8).toNat) || (base.throt && !base.hot.isEmpty)) = base.throt := by
  decide +kernel

/-- R273, R276: a tenant in each state, with nothing in flight; one whose row sits in a slot; a reset with jobs that may end and that may not. -/
def tenantIn (st : TenantSt) (stopping : Bool) (step : BitVec 3) : State :=
  State.reset.setTen 0 { State.reset.ten 0 with st := st, stopping := stopping, resetStep := step }
theorem noSteppers (st : TenantSt) : ∀ j, ((tenantIn st false 0).row j).stepper = none := fun _ => rfl
theorem noDue (st : TenantSt) : ∀ j : RowKey, j.t = 0 → ((tenantIn st false 0).row j).deferred = [] ∧ ((tenantIn st false 0).row j).faultedStore = none :=
  fun _ _ => ⟨rfl, rfl⟩
theorem witness_TenantEvents : (tenantIn .active false 0).bootLock = true ∧ (∀ st ∈ [TenantSt.active, .stopped, .resetting, .absent, .swapped],
      ((tenantIn st false 0).ten (tenantIn st false 0).sel.t).st = st) ∧
    (((tenantIn .stopped true 0).ten 0).stopping = true ∧ (tenantIn .stopped true 0).tenantBusy 0 = false ∧ base.tenantBusy 0 = true) ∧
    (let s := (paged.setTen 0 { paged.ten 0 with st := .resetting, resetStep := 3 }).setCol 0 { paged.col 0 with jobs := [ended lateVec] }
     (s.ten 0).st = .resetting ∧ (s.ten 0).resetStep = 3 ∧ s.endJobs 0 = none) ∧
    ((tenantIn .resetting false 3).endJobs 0).isSome = true ∧
    (((tenantIn .resetting false 4).ten 0).resetStep ≠ 3 ∧ (tenantIn .resetting false 4).slotsOf 0 = false ∧
      ((tenantIn .resetting false 4).ten 0).removing = false) ∧
    (base.setTen 0 { base.ten 0 with st := .resetting, resetStep := 4 }).slotsOf 0 = true := by decide +kernel
/-- R324, R21: a READY row with an armed monitor; one that has issued so lately that it may not issue before cycle 9. -/
theorem witness_TenantEvents_rows : (let s := (tenantIn .active false 0).setRow other { Row.reset with st := .ready, mon := Row.reset.mon.set 0 ⟨7, true⟩ }
      (s.row other).st = .ready ∧ ((s.row other).fireAll).mon[0] = ⟨7, false⟩) ∧
    (let s := (tenantIn .resetting false 4).setRow other { Row.reset with issueAt := 9 }
     s.time < (s.row other).issueAt ∧ s.slotsOf 0 = false) := by decide +kernel

/-- The entry of a command: its OPC and NENT, and bytes from the given offsets on; the rest is 0. -/
def command (opc nent : Byte) (fields : List (Nat × List Byte)) : List Byte :=
  (fields.foldl (fun (m : Memory) (o, bs) => m.writeBytes o bs) (Memory.writeBytes [] 0 [opc, nent])).readBytes 0 64
/-- Tenant 0 with the command at the head of its queue, its row 0 in a column with its page tables. -/
def commanded (e : List Byte) (s : State) : State := s.setTen 0 { s.ten 0 with cmds := [e] }
/-- A ring at layer 1 of column 0 with TAIL. -/
def bellRing (tail : BitVec 32) (e : List Byte) : State :=
  { base.setTen 0 { base.ten 0 with cqbase := 0x20000000 } with
    mem := (base.mem.writeBytes 0x20000008 (toBytes 4 tail)).writeBytes 0x20000040 e }
def taken : Taken → Option (List (List Byte))
  | .overflow => none
  | .commands l _ => some l
def cancelCmd : List Byte := command 2 0 [(0x10, [0]), (0x14, [5])]
theorem witness_HostEvents_bell : (base.ten 0).st = .active ∧ base.bootLock = true ∧ ((bellRing 1 cancelCmd).ten 0).cqbase ≠ 0 ∧
    taken (((bellRing 1 cancelCmd).mergeRing 0x20000000).takeRing 0x20000000) = some [cancelCmd] ∧ tenantCmdOk cancelCmd = true ∧
    taken (((bellRing 1025 cancelCmd).mergeRing 0x20000000).takeRing 0x20000000) = none := by decide +kernel
def launchCmd (r : List Byte) : List Byte := command 1 3 [] ++ r
def accepted (e : List Byte) : Bool :=
  let s := commanded e dram
  match (s.popCmd 0).submit 0 ((e.drop 64).take 192) true 0 s.hostVec with | .ok _ => true | .error _ => false
theorem witness_HostEvents_launch : (commanded (launchCmd recBytes) dram).nextCmd 0 1 = some (launchCmd recBytes) ∧ accepted (launchCmd recBytes) = true ∧
    accepted (launchCmd (List.replicate 192 0)) = false ∧ (commanded cancelCmd base).nextCmd 0 2 = some cancelCmd := by decide +kernel
def ctr1 (held : Bool) (count : BitVec 32) : Ctr := ⟨1, 9, count, 0, held, 0, 0⟩
def counterCmd (opc parent : Byte) : List Byte := command opc 0 [(0x10, [1]), (0x14, [parent])]
theorem witness_HostEvents_counters : (∀ p ∈ [0, 9], (commanded (counterCmd 3 p) base).nextCmd 0 3 = some (counterCmd 3 p) ∧
      BitVec.ofNat 32 (entField (counterCmd 3 p) 0x14 4) = p.setWidth 32) ∧ (base.ten 0).ctrTakes (1 + 1) 9 = false ∧ (1 : BitVec 2) ≠ 3 ∧
    (commanded (counterCmd 4 9) base).nextCmd 0 4 = some (counterCmd 4 9) ∧ (base.ten 0).ctr 1 9 = none ∧
    ((base.setTen 0 { base.ten 0 with ctrs := [ctr1 true 2] }).ten 0).ctr 1 9 = some (ctr1 true 2) ∧ 1 < (2 : BitVec 32).toNat := by decide +kernel
theorem witness_HostEvents_complete : base.host.wf = true ∧ 2 ^ 43 ≤ (0x80000000008 : BitVec 64).toNat ∧ (0x80000000008 : BitVec 64).toNat % 8 = 0 ∧
    base.tenantDram 0 (0x80000000008 : BitVec 64).toNat = false ∧ (base.ten 0).hwen = false ∧
    (let x := ({ base.ten 0 with hwlimit := 0x1000, hwen := true } : Tenant)
     x.hwen = true ∧ x.hwbase.toNat ≤ (0x80000000008 : BitVec 64).toNat - 2 ^ 43 ∧ (0x80000000008 : BitVec 64).toNat - 2 ^ 43 + 8 ≤ x.hwlimit.toNat) := by
  decide +kernel

/-- R399: a code object without kernels, whose portable form is empty (its digest is SHA-256 of nothing), at 0x18003000. -/
def codeObject : List Byte := [0x4B, 0x43, 0x4F, 0x31, 1, 0] ++ List.replicate 74 0 ++
  [0xE3, 0xB0, 0xC4, 0x42, 0x98, 0xFC, 0x1C, 0x14, 0x9A, 0xFB, 0xF4, 0xC8, 0x99, 0x6F, 0xB9, 0x24,
   0x27, 0xAE, 0x41, 0xE4, 0x64, 0x9B, 0x93, 0x4C, 0xA4, 0x95, 0x99, 0x1B, 0x78, 0x52, 0xB8, 0x55]
def loadCmd (va : List Byte) : List Byte :=
  command 5 0 [(0x10, toBytes 8 (0x18003000#64)), (0x18, [0x70]), (0x20, va), (0x28, [0, 0x20])]
def loadable (m : List Byte) (e : List Byte) (s : State) : State := let u : State := { s with mem := s.mem.writeBytes 0x18003000 m }; commanded e u
def objectOk (s : State) (e : List Byte) : Bool := (((s.popCmd 0).mergeRange (loadArgs e).pa (loadArgs e).size).kcoOf e).ok
theorem witness_HostEvents_load : ((commanded (loadCmd [1]) base).nextCmd 0 5 = some (loadCmd [1]) ∧ (base.ten 0).loading = none ∧
      (loadArgs (loadCmd [1])).dataVa.toNat % 4096 ≠ 0 ∧ (loadArgs (loadCmd [0])).dataVa.toNat % 4096 = 0) ∧
    ((launching (aLaunch .placed) base).ten 0).launches.any (fun l => l.phase == .placed) = true ∧
    (base.ten 0).launches.any (fun l => l.phase == .placed) = false ∧
    (let a := loadArgs (loadCmd [0])
     base.tenantDram 0 a.pa = true ∧ base.tenantDram 0 (a.pa + a.size - 1) = true ∧ paSlot a.pa = paSlot (a.pa + a.size - 1) ∧
       base.argError 0 a.pa a.size = none) ∧
    base.tenantDram 0 (loadArgs (command 5 0 [(0x13, [0x80])])).pa = false ∧
    objectOk (loadable codeObject (loadCmd [0]) base) (loadCmd [0]) = true ∧ objectOk (loadable [] (loadCmd [0]) base) (loadCmd [0]) = false := by
  decide +kernel
/-- R389: an object in host memory, inside the tenant's window and with the window off. -/
def hostWin (s : State) : State := s.setTen 0 { s.ten 0 with hwen := true, hwbase := 0, hwlimit := 0x7FFFFFFF000 }
theorem witness_HostEvents_hostObject : let a := loadArgs (command 5 0 [(0x15, [8]), (0x18, [0x70]), (0x28, [0, 0x20])])
    a.pa = 2 ^ 43 ∧ (hostWin base).argError 0 a.pa a.size = none ∧ base.argError 0 a.pa a.size = some 3 := by decide +kernel
/-- R111: an object in the layer of column 0 that holds the row pool. -/
theorem witness_HostEvents_pool : (let a := loadArgs (command 5 0 [(0x10, [0, 1]), (0x18, [0x70])])
     base.tenantDram 0 a.pa = true ∧ base.tenantDram 0 (a.pa + a.size - 1) = true ∧ paSlot a.pa = paSlot (a.pa + a.size - 1) ∧
       (base.argError 0 a.pa a.size).isSome = true) := by decide +kernel
theorem witness_HostEvents_loaded : (let e := loadCmd [0]
      let s := loadable codeObject e paged
      let b := placeImages [] (loadArgs e).csBase
      isOk ((s.setTen 0 { s.ten 0 with loading := none }).loaderStore 0 (loadArgs e).dataVa ((s.kcoOf e).linked (loadArgs e).dataVa b.1)) = true ∧
        (if b.1 = [] then 0 else b.2) ≤ 0x10000) ∧
    ({ base.ten 0 with loading := some ⟨loadCmd [0], []⟩ } : Tenant).loading = some ⟨loadCmd [0], []⟩ := by decide +kernel

/-- R398: management commands in their turn. -/
def managed (e : List Byte) (s : State) : State := { s with mcmds := [e] }
def mgmt (opc : Byte) (fields : List (Nat × List Byte)) : List Byte := command opc 0 fields
def mgmtRing (tail : BitVec 32) (e : List Byte) : State :=
  { base with mqbase := 0x20000000, mem := (base.mem.writeBytes 0x20000008 (toBytes 4 tail)).writeBytes 0x20000040 e }
/-- Tenant 0 with PARTMAP at 0x20000000, where the bits `b` of columns 0 to 31 stand, a directory of 8 ids and a kiln index of one set. -/
def partition (st : TenantSt) (cols : List (BitVec 10)) (b : BitVec 32) : State :=
  { State.reset.setTen 0 { State.reset.ten 0 with
      st := st, cols := cols, partmap := 0x20000000, dirsize := 8, kcsets := 1, ptbase := 0x20001000, dirbase := 0x20002000, kcbase := 0x20003000 } with
    mem := State.reset.mem.writeBytes 0x20000000 (toBytes 4 b) }
def sites (s : State) : List (BitVec 10) := s.bitmapSites (s.ten 0).partmap.toNat
theorem witness_CommandEvents_bell : (mgmtRing 1 (mgmt 0x48 [])).bootLock = true ∧ (mgmtRing 1 (mgmt 0x48 [])).mqbase ≠ 0 ∧
    taken (((mgmtRing 1 (mgmt 0x48 [])).mergeRing 0x20000000).takeRing 0x20000000) = some [mgmt 0x48 []] ∧
    taken (((mgmtRing 1025 (mgmt 0x48 [])).mergeRing 0x20000000).takeRing 0x20000000) = none ∧
    mgmtCmdOk (mgmt 0x48 [(0x3F, [1])]) = false := by decide +kernel
theorem witness_CommandEvents_forms : (∀ opc ∈ [0x41, 0x42, 0x43, 0x44, 0x45, 0x46, 0x47, 0x48, 0x49],
    mgmtCmdOk (mgmt opc []) = true ∧ entOpc (mgmt opc []) = opc.toNat ∧ entTenant (mgmt opc []) = 0 ∧ (managed (mgmt opc []) base).mcmds = [mgmt opc []]) := by
  decide +kernel
theorem witness_CommandEvents_partitions :
    ((partition .absent [] 1).partitionOk 0 (sites (partition .absent [] 1)) = true ∧ (partition .absent [] 0).partitionOk 0 (sites (partition .absent [] 0)) = false ∧
      (partition .absent [] 1).mem.wf = true ∧ entCpl (mgmt 0x41 []) = 0) ∧
    (sites (partition .stopped [0] 1) = [0] ∧ (partition .stopped [0] 1).partitionOk 0 [0] = true ∧ ∀ c ∈ ((partition .stopped [0] 1).ten 0).cols, c ∈ [(0 : BitVec 10)]) ∧
    (partition .stopped [0] 0).partitionOk 0 (sites (partition .stopped [0] 0)) = false ∧
    (∀ st ∈ [TenantSt.absent, .active, .stopped, .resetting, .swapped], ((partition st [] 1).ten 0).st = st ∧ ((partition st [] 1).ten 0).removing = false) := by
  decide +kernel
/-- R398: a PARTMAP whose address has no memory: it lies past the last slot. -/
def noMap (st : TenantSt) : State := let s := partition st [] 1; s.setTen 0 { s.ten 0 with partmap := 0x7FFFFFFF000 }
theorem witness_CommandEvents_faults : (∀ st ∈ [TenantSt.absent, .stopped], (partition st [] 1).argError 0 ((partition st [] 1).ten 0).partmap.toNat 120 = none ∧
      (noMap st).argError 0 ((noMap st).ten 0).partmap.toNat 120 = some 3) := by decide +kernel
theorem witness_CommandEvents_window : (let e := mgmt 0x46 [(0x20, [0, 0x10]), (0x28, [1])];
      mgmtCmdOk e = true ∧ entField e 0x18 8 % 4096 = 0 ∧ entField e 0x20 8 % 4096 = 0 ∧ entField e 0x20 8 < 2 ^ 43 ∧ entField e 0x18 8 < entField e 0x20 8) ∧
    (let e := mgmt 0x46 [(0x18, [1])];
      mgmtCmdOk e = true ∧ entField e 0x18 8 % 4096 ≠ 0) := by decide +kernel

/-- R274: the image goes to host memory; it has fewer than 2^42 bytes, and so many are allowed. -/
def outCmd : List Byte := mgmt 0x43 [(0x1D, [8]), (0x25, [4])]
theorem witness_CommandEvents_swapOut : mgmtCmdOk outCmd = true ∧ entOpc outCmd = 0x43 ∧ ((partition .stopped [0] 1).ten 0).stopping = false ∧
    entField outCmd 0x18 8 = 2 ^ 43 ∧ entField outCmd 0x20 8 = 2 ^ 42 ∧ ((partition .stopped [0] 1).ten 0).hwen = false := by decide +kernel
theorem hostHas_all (n : BitVec 42) : ((hostWin (partition .stopped [0] 1)).ten 0).hostHas (2 ^ 43) n.toNat = true := by
  have := n.isLt
  have h : ∀ x : Tenant, x.hwen = true → x.hwbase = 0 → x.hwlimit = 0x7FFFFFFF000 → x.hostHas (2 ^ 43) n.toNat = true := by
    intro x h1 h2 h3
    simp only [Tenant.hostHas, h1, h2, h3, Bool.true_and, Bool.and_eq_true, decide_eq_true_eq]
    refine ⟨by decide, ?_⟩
    rw [show ((0x7FFFFFFF000 : BitVec 64)).toNat = 0x7FFFFFFF000 from rfl]; omega
  exact h _ (by decide +kernel) (by decide +kernel) (by decide +kernel)
theorem imagePlace_host (s : State) (n : BitVec 42) : s.imagePlace (2 ^ 43) n.toNat = true ∧ n.toNat ≤ 2 ^ 42 := by
  have := n.isLt
  refine ⟨?_, by omega⟩
  simp only [State.imagePlace, Bool.or_eq_true, Bool.and_eq_true, decide_eq_true_eq]
  exact .inr ⟨Nat.le_refl _, by omega⟩
def anImage (n : Nat) : SwapImage := ⟨0, n, [(RowKey.key ⟨0, 3⟩, Row.reset)], [], [], [], []⟩
def swappedOut : State := let s := hostWin (partition .swapped [] 1); s.setTen 0 { s.ten 0 with image := some (anImage 0) }
def inCmd : List Byte := mgmt 0x44 [(0x1D, [8]), (0x20, [0, 0, 0, 0x20])]
theorem witness_CommandEvents_swapIn : mgmtCmdOk inCmd = true ∧ entOpc inCmd = 0x44 ∧ (swappedOut.ten 0).st = .swapped ∧
    (swappedOut.ten 0).image = some (anImage 0) ∧ swappedOut.partitionOk 0 (swappedOut.bitmapSites (entField inCmd 0x20 8)) = true ∧
    swappedOut.partitionOk 0 (swappedOut.bitmapSites (entField (mgmt 0x44 []) 0x20 8)) = false ∧ 2 ^ 43 ≤ entField inCmd 0x18 8 ∧
    swappedOut.imagePlace (entField inCmd 0x18 8) 0 = true ∧ swappedOut.restorable (anImage 0) (swappedOut.bitmapSites (entField inCmd 0x20 8)) = true ∧
    swappedOut.host.readBytes (entField inCmd 0x18 8 - 2 ^ 43) 0 = [] ∧ (anImage 0).rows = [(RowKey.key ⟨0, 3⟩, Row.reset)] := by decide +kernel
theorem witness_CommandEvents_swapInArgs :
    ((swappedOut.argError 0 (entField inCmd 0x20 8) 120).orElse (fun _ => swappedOut.argError 0 (entField inCmd 0x18 8) 0)) = none ∧
    swappedOut.argError 0 (entField (mgmt 0x44 []) 0x20 8) 120 = none ∧
    (swappedOut.argError 0 (entField (mgmt 0x44 [(0x25, [7])]) 0x20 8) 120).isSome = true := by decide +kernel
theorem imageBytes_none (n : Nat) : imageBytes n 0 = [] := rfl

/-- R403, R410: a link whose gateway column is tenant 0's, and one whose is not; a retired column without an owner, and with one. -/
def linked (site : BitVec 10) : State := { base with links := [(0, ⟨site, none, none, 0⟩)] }
def retiredAt (o : Option (BitVec 4)) : State := { base.setCol 5 { base.col 5 with owner := o } with retired := setRetired base.retired 5 true }
theorem witness_CommandEvents_links : (∀ y ∈ ({ base with links := [] } : State).links, y.1 ≠ 0) ∧ (∀ c ∈ [0, 1], (linked c).links.find? (fun y => y.1 == 0) = some (0, ⟨c, none, none, 0⟩)) ∧
    ((linked 0).ten 0).st = .active ∧ ((linked 0).col 0).owner = some 0 ∧ ((linked 1).col 1).owner ≠ some 0 ∧
    ((inTenant .absent base).ten 0).st ≠ .active ∧ ((inTenant .absent base).ten 0).st ≠ .stopped := by decide +kernel
theorem witness_CommandEvents_reinstate : entField (mgmt 0x49 [(0x10, [5])]) 0x10 2 = 5 ∧ mgmtCmdOk (mgmt 0x49 [(0x10, [5])]) = true ∧
    bit (base.retired.getD (5 / 32) 0) (5 % 32) = false ∧ bit ((retiredAt none).retired.getD (5 / 32) 0) (5 % 32) = true ∧
    ((retiredAt none).col 5).owner = none ∧ ((retiredAt (some 2)).col 5).owner ≠ none ∧ (5 : Nat) < 960 := by decide +kernel

/-- R227, R388: the host at DRAM of column 0, and at column 31, which is not good in a device whose first harvest word lacks it. -/
def hosted (wr : Bool) (hpa : BitVec 64) : State := at_ base (fun x => { x with acc := ⟨wr, hpa, 8, List.replicate 8 1⟩ })
def harvested : State := { hosted true 0xF80000000 with harvest := [0x7FFFFFFF] }
theorem witness_PlatformEvents_host : ((hosted true 0x20000040).bootLock = true ∧ (hosted true 0x20000040).sel.slow = false ∧
      (hosted true 0x20000040).good (paSlot 0x20000040) = true ∧ paSlot 0x20000040 < 960 ∧ layerBytes ≤ paOff 0x20000040 ∧ paOff 0x20000040 < 4 * layerBytes ∧
      (hosted true 0x20000040).rangeAt 0x20000040 = none ∧ 0 < (hosted true 0x20000040).sel.acc.data.length ∧
      0x20000040 % 64 + (hosted true 0x20000040).sel.acc.data.length ≤ 64) ∧
    ((hosted false 0x20000040).sel.acc.wr = false ∧ 0 < (hosted false 0x20000040).sel.acc.size ∧ 0x20000040 % 64 + (hosted false 0x20000040).sel.acc.size ≤ 64) ∧
    (paSlot 0xF80000000 = 31 ∧ harvested.good 31 = false ∧ (harvested.col 31).owner = none) := by decide +kernel
def register (arr slow : Bool) (off : BitVec 12) (st : TenantSt) : State := at_ (inTenant st base) (fun x => { x with arr := arr, slow := slow, off := off })
theorem witness_PlatformEvents_registers : (2 ≤ base.bootStage.toNat ∧ ({ base with bootStage := 1 } : State).bootStage.toNat < 2) ∧
    ({ base with bootLock := false } : State).bootLock = false ∧
    (∀ st ∈ [TenantSt.active, .stopped, .absent, .swapped], ((register false false 0x118 st).ten (register false false 0x118 st).sel.t).st = st ∧
      (register false false 0x118 st).sel.off = 0x118 ∧ (register false false 0x118 st).sel.x8 = false) ∧
    (register true true 0x100 .active).sel.arr = true ∧ (register true true 0x100 .active).sel.slow = true ∧
    (register true true 0x100 .active).sel.sr = false := by decide +kernel
/-- R100: the host writes FPOL, of class 4, with the effect of an SRW. -/
theorem witness_PlatformEvents_shared : let s := at_ base (fun x => { x with sr := true, off := 0x801, v := 0x1FF })
    s.sel.sr = true ∧ s.bootLock = true ∧ srClass s.sel.off = 4 ∧ srIndex s.sel.off ≠ 0 ∧
    ((s.ten 0).writeSr (srIndex s.sel.off) (srSource s.sel.off s.sel.v)).map (fun y => y.fpol) = some 0xFF := by decide +kernel
/-- R405: a code that is none of the seven, and GET_VERSION, at a device whose boot has passed stage 1. -/
theorem witness_PlatformEvents_spdm : spdmRequests.contains (([0x12, 0x85] : List Byte).getD 1 0) = false ∧
    base.spdmAnswer [0x12, 0x85] = [0x12, 0x7F, 0x07, 0x85] ∧ spdmRequests.contains (([0x12, 0x84] : List Byte).getD 1 0) = true := by decide +kernel

/-- R1, R2, R408: a device of grade B has 850 columns and resets MPLIM to 910. -/
theorem test_grade_b : State.resetB.mplim = 910 ∧ mapCount State.resetB.harvest = 850 ∧ State.reset.mplim = 960 := by decide +kernel
theorem test_grade_b_limit : (State.resetB.writeMplim 911).mplim = 910 ∧ (State.resetB.writeMplim 911).hostErr = true ∧
    (State.resetB.writeMplim 900).mplim = 900 := by decide +kernel
theorem witness_PlatformEvents_encoding : base.seated = true ∧ (base.groupFault base.fetched).isSome = true ∧ mulNext.groupFault mulNext.fetched = none := by
  decide +kernel

end Sys2Proof.Tests
end

section
/-! SUPPORT. The rows of a tenant, and what a stop, a start and a reset of it make of them and of its record (R273, R276, R324). -/

namespace Sys2Proof

/-! ## Sparse maps changed entry by entry -/

/-- A change of every entry that leaves the default alone is a change of what is read. -/
theorem NMap.get_map {α : Type} (d : α) (f : Nat → α → α) (m : NMap α) (a : Nat) (h : f a d = d) :
    NMap.get d (m.map (fun x => (x.1, f x.1 x.2))) a = f a (NMap.get d m a) := by
  induction m with
  | nil => exact h.symm
  | cons c m ih =>
    obtain ⟨k, v⟩ := c
    simp only [List.map_cons, NMap.get, ih]
    split
    · rename_i e; rw [beq_iff_eq.mp e]
    · rfl

/-- Where entries are kept by their keys, a key that is kept reads as before and any other as the default. -/
theorem NMap.get_filter {α : Type} (d : α) (p : Nat → Bool) (m : NMap α) (a : Nat) :
    NMap.get d (m.filter (fun x => p x.1)) a = if p a then NMap.get d m a else d := by
  induction m with
  | nil => simp [NMap.get]
  | cons c m ih =>
    obtain ⟨k, v⟩ := c
    by_cases e : a = k
    · subst e
      cases hp : p a <;> simp_all [NMap.get]
    · cases hp : p k <;> simp_all [NMap.get]

/-- A key that is not listed reads as the default. -/
theorem NMap.get_unlisted {α : Type} (d : α) (m : NMap α) (a : Nat) (h : ∀ x ∈ m, x.1 ≠ a) : NMap.get d m a = d := by
  induction m with
  | nil => rfl
  | cons c m ih =>
    have e : (a == c.1) = false := beq_false_of_ne (Ne.symm (h c List.mem_cons_self))
    simp only [NMap.get, e, Bool.false_eq_true, if_false]
    exact ih (fun x hx => h x (List.mem_cons_of_mem _ hx))

/-- A fold over a list that holds `a` brings Q about where P lasts until `a` comes, `a` turns P into Q, and Q lasts. -/
theorem foldl_reaches {σ α : Type} {f : σ → α → σ} {P Q : σ → Prop} {a : α} {l : List α}
    (wait : ∀ s, ∀ x ∈ l, x ≠ a → P s → P (f s x)) (act : ∀ s, P s → Q (f s a)) (last : ∀ s, ∀ x ∈ l, Q s → Q (f s x)) (h : a ∈ l) {s : σ} (p : P s) : Q (l.foldl f s) := by
  induction l generalizing s with
  | nil => cases h
  | cons x l ih =>
    have last' : ∀ s, ∀ y ∈ l, Q s → Q (f s y) := fun s y hy => last s y (List.mem_cons_of_mem x hy)
    by_cases e : x = a
    · subst e
      exact List.foldlRecOn l f (act s p) (fun s q y hy => last' s y hy q)
    · exact ih (fun s y hy => wait s y (List.mem_cons_of_mem x hy)) last' ((List.mem_cons.mp h).resolve_left (Ne.symm e))
        (wait s x List.mem_cons_self e p)

end Sys2Proof

namespace Sys2Proof.Machine

/-! ## The rows that a tenant has a record of -/

@[simp] theorem RowKey.ofKey_key (k : RowKey) : RowKey.ofKey k.key = k := by
  obtain ⟨t, n⟩ := k
  have := n.isLt
  simp only [RowKey.ofKey, RowKey.key, RowKey.mk.injEq]
  constructor <;> apply BitVec.eq_of_toNat_eq <;> simp only [BitVec.toNat_ofNat] <;> omega

theorem State.mem_rowsOf {s : State} {t : BitVec 4} {k : RowKey} :
    k ∈ s.rowsOf t ↔ (∃ x ∈ s.rows, RowKey.ofKey x.1 = k) ∧ k.t = t := by
  simp [State.rowsOf]

/-- A row without a record stands at its reset values. -/
theorem State.row_unlisted {s : State} {k : RowKey} (h : k ∉ s.rowsOf k.t) : s.row k = Row.reset := by
  refine NMap.get_unlisted _ _ _ (fun x hx e => h (State.mem_rowsOf.mpr ⟨⟨x, hx, ?_⟩, rfl⟩))
  rw [e, RowKey.ofKey_key]

/-- The records of a tenant's rows changed by `f`, which leaves a row at reset alone. -/
theorem State.row_mapTenant (s : State) (t : BitVec 4) (f : Row → Row) (h : f Row.reset = Row.reset) (k : RowKey) :
    NMap.get Row.reset (s.rows.map (fun (j, r) => (j, if (RowKey.ofKey j).t == t then f r else r))) k.key =
      if k.t = t then f (s.row k) else s.row k := by
  have e := NMap.get_map Row.reset (fun j r => if (RowKey.ofKey j).t == t then f r else r) s.rows k.key (by simp [h])
  simpa [State.row] using e

theorem OnlyTen.setTen (s : State) (k : BitVec 4) (x : Tenant) : OnlyTen s (s.setTen k x) k x :=
  ⟨State.ten_setTen_same s k x, fun _ h => State.ten_setTen_other s x h, rfl⟩

/-- An access that its tenant's state does not permit sets its bit of VERR and VERRADDR (R390). -/
theorem State.writeError_only (s : State) (t : BitVec 4) (i : Nat) (addr : BitVec 64) :
    (s.writeError t i addr).rows = s.rows ∧ (s.writeError t i addr).hostErr = true ∧
      OnlyTen { s with hostErr := true } (s.writeError t i addr) t
        { s.ten t with verr := setBit (s.ten t).verr i true, verraddr := addr } :=
  ⟨rfl, rfl, OnlyTen.setTen { s with hostErr := true } t _⟩

/-! ## Commands to a row at whose boundary nothing is due (R90, R255) -/

/-- From s to t no other row than k has changed, no tenant's record, and no time has passed. -/
structure RowActs (s t : State) (k : RowKey) : Prop where
  row : ∀ j, j ≠ k → t.row j = s.row j
  tens : t.tens = s.tens
  time : t.time = s.time

theorem RowActs.refl (s : State) (k : RowKey) : RowActs s s k := ⟨fun _ _ => rfl, rfl, rfl⟩

theorem RowActs.setRow (s : State) (k : RowKey) (r : Row) : RowActs s (s.setRow k r) k :=
  ⟨fun _ h => State.row_setRow_other s r h, rfl, rfl⟩

theorem RowActs.trans {s t u : State} {k : RowKey} (a : RowActs s t k) (b : RowActs t u k) : RowActs s u k :=
  ⟨fun j h => (b.row j h).trans (a.row j h), b.tens.trans a.tens, b.time.trans a.time⟩

theorem RowActs.then_setRow {s t : State} {k : RowKey} (a : RowActs s t k) (r : Row) : RowActs s (t.setRow k r) k :=
  a.trans (.setRow t k r)

theorem RowActs.of_slots {s t : State} (h : SlotsOnly s t) (k : RowKey) : RowActs s t k :=
  ⟨fun j _ => h.row j, (congrArg State.tens h.rest :), (congrArg State.time h.rest :)⟩

theorem RowActs.of_moves {s t : State} (h : CacheMoves s t) (k : RowKey) : RowActs s t k := ⟨fun j _ => h.row j, h.tens, h.time⟩

theorem State.endWait_acts (s : State) (k : RowKey) : RowActs s (s.endWait k) k :=
  (RowActs.setRow s k _).trans ⟨fun _ _ => rfl, rfl, rfl⟩

@[simp] theorem State.endWait_row (s : State) (k : RowKey) : (s.endWait k).row k =
    { s.row k with waiton := 0, hold := 0, joinw := none, jobWait := none, fill := none, deadline := none } :=
  State.row_setRow_same s k _

/-- No fault is due at a boundary of the row. -/
def Row.faultless (r : Row) : Prop := r.deferred = [] ∧ r.faultedStore = none

/-- A row that is not open, or has no fault due, takes none at its boundary (R265). -/
theorem State.faultsFirst_idle {s : State} {k : RowKey} (h : (s.row k).st ≠ .open_ ∨ (s.row k).faultless) :
    s.faultsFirst k = some s := by
  unfold State.faultsFirst
  refine List.foldlRecOn (motive := (· = some s)) _ _ rfl (fun acc e _ _ => ?_)
  subst e
  obtain h | ⟨hd, hf⟩ := h
  · simp [h]
  · simp [hd, hf]

/-- A row that no STEPX awaits tells no one of its step (R334). -/
theorem State.tellStepper_none {s : State} {k : RowKey} (b : Bool) (h : (s.row k).stepper = none) : s.tellStepper k b = s := by
  simp only [State.tellStepper, h]

/-- A command from outside to a row that takes no fault first, and that no STEPX awaits, is the command (R90). -/
theorem State.outsideCommand_eq {s : State} {k : RowKey} {c : Cmd} (h : (s.row k).st ≠ .open_ ∨ (s.row k).faultless)
    (hs : ((s.command k c).row k).stepper = none) : s.outsideCommand k c = s.command k c := by
  simp only [State.outsideCommand, State.faultsFirst_idle h, ite_self, State.tellStepper_none _ hs]

/-! ## A stop (R273) -/

/-- What a STOP leaves in a row's record, whatever its state: its monitors, its STEPX, and the faults that are due. -/
structure Row.KeepsDues (r r' : Row) : Prop where
  mon : r'.mon = r.mon
  stepper : r'.stepper = r.stepper
  deferred : r'.deferred = r.deferred
  replay : r'.replay = r.replay

/-- STOP changes its row alone, leaves what is due there, and writes no DRAM (R90). -/
theorem State.command_stop (s : State) (k : RowKey) :
    RowActs s (s.command k .stop) k ∧ (s.row k).KeepsDues ((s.command k .stop).row k) ∧ (s.command k .stop).mem = s.mem := by
  have same : RowActs s s k ∧ (s.row k).KeepsDues (s.row k) ∧ s.mem = s.mem := ⟨.refl s k, ⟨rfl, rfl, rfl, rfl⟩, rfl⟩
  have set {u : State} (r : Row) (a : RowActs s u k) (d : (s.row k).KeepsDues r) (m : u.mem = s.mem) :
      RowActs s (u.setRow k r) k ∧ (s.row k).KeepsDues ((u.setRow k r).row k) ∧ (u.setRow k r).mem = s.mem :=
    ⟨a.then_setRow r, by rwa [State.row_setRow_same], m⟩
  unfold State.command
  dsimp only
  split
  case h_1 => exact set _ same.1 ⟨rfl, rfl, rfl, rfl⟩ rfl
  case h_2 => exact same
  case h_3 => exact same
  case h_4 => exact set _ same.1 ⟨rfl, rfl, rfl, rfl⟩ rfl
  case h_5 =>
    split
    · exact set _ same.1 ⟨rfl, rfl, rfl, rfl⟩ rfl
    · exact set _ (s.endWait_acts k) (by rw [State.endWait_row]; exact ⟨rfl, rfl, rfl, rfl⟩) rfl
  case h_6 =>
    split
    · exact set _ same.1 ⟨rfl, rfl, rfl, rfl⟩ rfl
    · have close := s.beginClose_slots k
      exact set _ (.of_slots close k) ⟨rfl, rfl, rfl, rfl⟩ (congrArg State.mem close.rest :)
  case h_7 => exact same
  case h_8 => exact same

/-- STOP of a READY row (R90). -/
theorem State.command_stop_ready {s : State} {k : RowKey} (h : (s.row k).st = .ready) :
    s.command k .stop = s.setRow k { s.row k with st := .stopped, waiton := 0, stepping := false } := by
  unfold State.command
  simp only [h]

/-- What a stop of the tenant makes of one of its rows: its monitors fire, and a live row is marked and takes a STOP (R273, R324). -/
def State.stopRow (s : State) (k : RowKey) : State :=
  let r := (s.row k).fireAll
  let s := s.setRow k r
  if r.st.live then (s.setRow k { r with stoppedByTenant := true }).outsideCommand k .stop else s

theorem State.stopTenant_eq (s : State) (t : BitVec 4) : s.stopTenant t =
    (s.rowsOf t).foldl State.stopRow (s.setTen t { s.ten t with st := .stopped, stopping := true }) := rfl

/-- A row at reset has no armed monitor. -/
@[simp] theorem Row.fireAll_reset : Row.reset.fireAll = Row.reset := by
  simp [Row.fireAll, Row.reset]

/-- Firing twice is firing once. -/
@[simp] theorem Row.fireAll_fireAll (r : Row) : r.fireAll.fireAll = r.fireAll := by
  simp [Row.fireAll, Function.comp_def]

/-- A fired monitor keeps its line (R324). -/
theorem Row.mon_fired {r r' : Row} (h : r'.mon = r.fireAll.mon) (i : Fin 4) : r'.mon[i] = ⟨r.mon[i].line, false⟩ := by
  simp [h, Row.fireAll]

/-- A row that a READY one has become by the stop of its tenant. -/
def Row.stoppedReady (r : Row) : Row := { r.fireAll with st := .stopped, waiton := 0, stepping := false, stoppedByTenant := true }

/-- What the stop takes of its rows: no STEPX is awaited, and no fault is due. -/
def Row.restful (r : Row) : Prop := r.stepper = none ∧ r.faultless

theorem Row.KeepsDues.restful {r r' : Row} (h : r.KeepsDues r') (hr : r.restful) : r'.restful :=
  ⟨h.stepper.trans hr.1, h.deferred.trans hr.2.1, by rw [Row.faultedStore, h.replay]; exact hr.2.2⟩

/-- The marked row of a stop, as it takes its STOP. -/
def Row.marked (r : Row) : Row := { r.fireAll with stoppedByTenant := true }

/-- What the stop does at a row that is live is a STOP of the marked row. -/
theorem State.stopRow_live {s : State} {k : RowKey} (h : (s.row k).restful) (hl : (s.row k).st.live = true) :
    ∃ u, RowActs s u k ∧ u.mem = s.mem ∧ u.row k = (s.row k).marked ∧ s.stopRow k = u.command k .stop := by
  let u := (s.setRow k (s.row k).fireAll).setRow k (s.row k).marked
  have hu : u.row k = (s.row k).marked := State.row_setRow_same _ k _
  have rest : (u.row k).restful := hu ▸ h
  have rest' := (u.command_stop k).2.1.restful rest
  have act : s.stopRow k = u.outsideCommand k .stop := if_pos hl
  exact ⟨u, (RowActs.setRow s k _).then_setRow _, rfl, hu, act.trans (State.outsideCommand_eq (.inr rest.2) rest'.1)⟩

/-- At any other row its monitors fire. -/
theorem State.stopRow_idle {s : State} {k : RowKey} (hl : (s.row k).st.live ≠ true) : s.stopRow k = s.setRow k (s.row k).fireAll :=
  if_neg hl

/-- The stop of a row changes that row alone: its monitors have fired, and nothing has become due there. -/
theorem State.stopRow_acts {s : State} {k : RowKey} (h : (s.row k).restful) :
    RowActs s (s.stopRow k) k ∧ (s.row k).fireAll.KeepsDues ((s.stopRow k).row k) ∧ (s.stopRow k).mem = s.mem := by
  by_cases hl : (s.row k).st.live = true
  · obtain ⟨u, hsu, hm, hu, e⟩ := State.stopRow_live h hl
    obtain ⟨act, keep, mem⟩ := u.command_stop k
    rw [hu] at keep
    rw [e]
    exact ⟨hsu.trans act, ⟨keep.mon, keep.stepper, keep.deferred, keep.replay⟩, mem.trans hm⟩
  · rw [State.stopRow_idle hl, State.row_setRow_same]
    exact ⟨.setRow s k _, ⟨rfl, rfl, rfl, rfl⟩, rfl⟩

/-- A READY row becomes STOPPED. -/
theorem State.stopRow_ready {s : State} {k : RowKey} (h : (s.row k).restful) (hr : (s.row k).st = .ready) :
    (s.stopRow k).row k = (s.row k).stoppedReady := by
  obtain ⟨u, -, -, hu, e⟩ := State.stopRow_live h (by rw [hr]; rfl)
  rw [e, State.command_stop_ready (hu ▸ hr), State.row_setRow_same, hu]
  rfl

@[simp] theorem Row.fireAll_stoppedReady (r : Row) : r.stoppedReady.fireAll = r.stoppedReady :=
  congrArg (fun x : Row => { x with st := .stopped, waiton := 0, stepping := false, stoppedByTenant := true }) r.fireAll_fireAll

/-- A row that has been stopped stays as it is. -/
theorem State.stopRow_again {s : State} {k : RowKey} {r : Row} (h : s.row k = r.stoppedReady) : (s.stopRow k).row k = r.stoppedReady := by
  rw [State.stopRow_idle (by rw [h]; exact Bool.false_ne_true), State.row_setRow_same, h, Row.fireAll_stoppedReady]

/-- No STEPX is awaited anywhere, and no fault is due in the rows of tenant t. -/
def State.restful (s : State) (t : BitVec 4) : Prop :=
  (∀ j, (s.row j).stepper = none) ∧ ∀ j : RowKey, j.t = t → (s.row j).faultless

theorem State.restful_row {s : State} {t : BitVec 4} (h : s.restful t) {k : RowKey} (hk : k.t = t) : (s.row k).restful :=
  ⟨h.1 k, h.2 k hk⟩

theorem State.stopRow_restful {s : State} {t : BitVec 4} {k : RowKey} (h : s.restful t) (hk : k.t = t) : (s.stopRow k).restful t := by
  obtain ⟨act, keep, -⟩ := State.stopRow_acts (State.restful_row h hk)
  have mine : ((s.stopRow k).row k).restful := keep.restful (State.restful_row h hk)
  constructor <;> intro j
  · by_cases e : j = k
    · subst e; exact mine.1
    · rw [act.row j e]; exact h.1 j
  · by_cases e : j = k
    · subst e; exact fun _ => mine.2
    · rw [act.row j e]; exact h.2 j

/-! ### The rows one after the other -/

/-- Rows of tenant t stopped one after the other: every other row, the tenants' records and DRAM are as before. -/
theorem State.stopRows_frame {s : State} {t : BitVec 4} (h : s.restful t) {l : List RowKey} (hl : ∀ k ∈ l, k.t = t) :
    (∀ j, j ∉ l → (l.foldl State.stopRow s).row j = s.row j) ∧ (l.foldl State.stopRow s).tens = s.tens ∧
      (l.foldl State.stopRow s).mem = s.mem := by
  have key : (l.foldl State.stopRow s).restful t ∧ (∀ j, j ∉ l → (l.foldl State.stopRow s).row j = s.row j) ∧
      (l.foldl State.stopRow s).tens = s.tens ∧ (l.foldl State.stopRow s).mem = s.mem := by
    refine List.foldlRecOn l State.stopRow (motive := fun u => u.restful t ∧ (∀ j, j ∉ l → u.row j = s.row j) ∧ u.tens = s.tens ∧
      u.mem = s.mem) ⟨h, fun _ _ => rfl, rfl, rfl⟩ ?_
    rintro u ⟨hu, row, tens, mem⟩ k hk
    obtain ⟨act, -, mem'⟩ := State.stopRow_acts (State.restful_row hu (hl k hk))
    exact ⟨State.stopRow_restful hu (hl k hk), fun j hj => (act.row j (fun e => hj (e ▸ hk))).trans (row j hj),
      act.tens.trans tens, mem'.trans mem⟩
  exact key.2

section StopRows

variable {s : State} {t : BitVec 4} (h : s.restful t) {l : List RowKey} (hl : ∀ k ∈ l, k.t = t) {j : RowKey} (hj : j ∈ l)
include h hl hj

/-- A READY row among those stopped is STOPPED. -/
theorem State.stopRows_ready (hr : (s.row j).st = .ready) : (l.foldl State.stopRow s).row j = (s.row j).stoppedReady := by
  have other (u : State) (k : RowKey) (hk : k ∈ l) (e : k ≠ j) (hu : u.restful t) : (u.stopRow k).row j = u.row j :=
    (State.stopRow_acts (State.restful_row hu (hl k hk))).1.row j e.symm
  refine (foldl_reaches (P := fun u : State => u.restful t ∧ u.row j = s.row j)
    (Q := fun u : State => u.restful t ∧ u.row j = (s.row j).stoppedReady)
    ?_ ?_ ?_ hj ⟨h, rfl⟩).2
  · rintro u k hk e ⟨hu, row⟩
    exact ⟨State.stopRow_restful hu (hl k hk), (other u k hk e hu).trans row⟩
  · rintro u ⟨hu, row⟩
    refine ⟨State.stopRow_restful hu (hl j hj), ?_⟩
    rw [State.stopRow_ready (State.restful_row hu (hl j hj)) (row ▸ hr), row]
  · rintro u k hk ⟨hu, row⟩
    refine ⟨State.stopRow_restful hu (hl k hk), ?_⟩
    by_cases e : k = j
    · subst e; exact State.stopRow_again row
    · exact (other u k hk e hu).trans row

/-- Every monitor of a row among those stopped has fired (R324). -/
theorem State.stopRows_mon : ((l.foldl State.stopRow s).row j).mon = (s.row j).fireAll.mon := by
  have step (u : State) (k : RowKey) (hk : k ∈ l) (hu : u.restful t) :
      ((u.stopRow k).row j).mon = if k = j then (u.row j).fireAll.mon else (u.row j).mon := by
    obtain ⟨act, keep, -⟩ := State.stopRow_acts (State.restful_row hu (hl k hk))
    split
    · rename_i e; subst e; exact keep.mon
    · rename_i e; rw [act.row j (Ne.symm e)]
  have fired {a b : Row} (e : a.mon = b.mon) : a.fireAll.mon = b.fireAll.mon := congrArg (Vector.map _) e
  refine (foldl_reaches (P := fun u : State => u.restful t ∧ (u.row j).mon = (s.row j).mon)
    (Q := fun u : State => u.restful t ∧ (u.row j).mon = (s.row j).fireAll.mon) ?_ ?_ ?_ hj ⟨h, rfl⟩).2
  · rintro u k hk e ⟨hu, mon⟩
    exact ⟨State.stopRow_restful hu (hl k hk), by rw [step u k hk hu, if_neg e, mon]⟩
  · rintro u ⟨hu, mon⟩
    exact ⟨State.stopRow_restful hu (hl j hj), by rw [step u j hj hu, if_pos rfl, fired mon]⟩
  · rintro u k hk ⟨hu, mon⟩
    refine ⟨State.stopRow_restful hu (hl k hk), ?_⟩
    rw [step u k hk hu]
    split
    · rw [fired mon, Row.fireAll_fireAll]
    · exact mon

end StopRows

/-- VCTL.STOP at an active tenant (R273, R324). -/
theorem State.stopTenant_spec {s : State} {t : BitVec 4} (h : s.restful t) :
    ((s.stopTenant t).ten t).st = .stopped ∧ ((s.stopTenant t).ten t).stopping = true ∧
      (∀ j, j.t = t → (s.row j).st = .ready → (s.stopTenant t).row j = (s.row j).stoppedReady) ∧
      (∀ j, j.t = t → ∀ i : Fin 4, ((s.stopTenant t).row j).mon[i] = ⟨(s.row j).mon[i].line, false⟩) ∧
      (∀ j, j.t ≠ t → (s.stopTenant t).row j = s.row j) ∧ (s.stopTenant t).mem = s.mem := by
  have hu : (s.setTen t { s.ten t with st := .stopped, stopping := true }).restful t := h
  have hl : ∀ k ∈ s.rowsOf t, k.t = t := fun k hk => (State.mem_rowsOf.mp hk).2
  obtain ⟨row, tens, mem⟩ := State.stopRows_frame hu hl
  have ten : (s.stopTenant t).ten t = { s.ten t with st := .stopped, stopping := true } := by
    rw [State.stopTenant_eq, State.ten, tens]; exact State.ten_setTen_same s t _
  have unlisted {j : RowKey} (hj : j.t = t) (hm : j ∉ s.rowsOf t) : s.row j = Row.reset := State.row_unlisted (hj ▸ hm)
  have mon (j : RowKey) (hj : j.t = t) : ((s.stopTenant t).row j).mon = (s.row j).fireAll.mon := by
    by_cases hm : j ∈ s.rowsOf t
    · exact State.stopRows_mon hu hl hm
    · rw [show (s.stopTenant t).row j = s.row j from row j hm, unlisted hj hm, Row.fireAll_reset]
  refine ⟨by rw [ten], by rw [ten], fun j hj hr => ?_, fun j hj => Row.mon_fired (mon j hj),
    fun j hj => row j (fun hm => hj (hl j hm)), mem⟩
  by_cases hm : j ∈ s.rowsOf t
  · exact State.stopRows_ready hu hl hm hr
  · rw [unlisted hj hm] at hr; cases hr

/-! ## A restart (R273) -/

/-- A row that the stop has stopped, and that takes its START at once. -/
def Row.restarted (r : Row) (now : Nat) : Row :=
  { r with st := .ready, readyAt := now, replayDue := !r.replay.isEmpty, stoppedByTenant := false }

/-- A row that the stop has not marked is left alone. -/
theorem State.restartRow_unmarked {s : State} {k : RowKey} (h : (s.row k).stoppedByTenant = false) : s.restartRow k = s := by
  simp [State.restartRow, h]

/-- START of a STOPPED row (R90). -/
theorem State.command_start_stopped {s : State} {k : RowKey} (h : (s.row k).st = .stopped) :
    s.command k .start = (s.setRow k { s.row k with replayDue := !(s.row k).replay.isEmpty }).makeReady k := by
  unfold State.command
  simp only [h]

/-- A marked row that no STEPX awaits loses its mark, and no other row changes. Where it is STOPPED and holds no command it becomes
READY. -/
theorem State.restartRow_marked {s : State} {k : RowKey} (hs : (s.row k).stepper = none) (hm : (s.row k).stoppedByTenant = true) :
    RowActs s (s.restartRow k) k ∧ ((s.restartRow k).row k).stoppedByTenant = false ∧ ((s.restartRow k).row k).stepper = none ∧
      ((s.row k).st = .stopped → (s.row k).held = [] → (s.restartRow k).row k = (s.row k).restarted s.time) := by
  let u := s.setRow k { s.row k with stoppedByTenant := false }
  have act : RowActs s u k := .setRow s k _
  have row : u.row k = { s.row k with stoppedByTenant := false } := State.row_setRow_same s k _
  by_cases hh : (s.row k).held = []
  · by_cases hst : (s.row k).st = .stopped
    · have cmd : u.command k .start = _ := State.command_start_stopped (by rw [row]; exact hst)
      have start : (u.command k .start).row k = (s.row k).restarted s.time := by
        rw [cmd, (State.makeReady_only _ k).1, State.row_setRow_same, row]; rfl
      have starts : RowActs u (u.command k .start) k := cmd ▸ (RowActs.setRow u k _).then_setRow _
      have out : u.outsideCommand k .start = u.command k .start :=
        State.outsideCommand_eq (.inl (by rw [row]; exact hst ▸ RowSt.noConfusion)) (start ▸ hs)
      have far := (u.command k .start).acquireFar_moves (u.siteOf k)
      have e : s.restartRow k = (u.command k .start).acquireFar (u.siteOf k) := by
        rw [← out]; simp [State.restartRow, hm, hh, hst, u]
      rw [e, far.row, start]
      exact ⟨(act.trans starts).trans (.of_moves far k), rfl, hs, fun _ _ => rfl⟩
    · have e : s.restartRow k = u := by simp [State.restartRow, hm, hh, hst, u]
      rw [e, row]
      exact ⟨act, rfl, hs, fun e => absurd e hst⟩
  · have e : s.restartRow k = u.setRow k { u.row k with held := (s.row k).held ++ [.start] } := by
      simp [State.restartRow, hm, hh, u]
    rw [e, State.row_setRow_same u, row]
    exact ⟨act.then_setRow _, rfl, hs, fun _ e => absurd e hh⟩

/-- No STEPX is awaited anywhere. -/
def State.stepless (s : State) : Prop := ∀ j, (s.row j).stepper = none

/-- A restart of a row changes that row alone. -/
theorem State.restartRow_acts {s : State} (h : s.stepless) (k : RowKey) : RowActs s (s.restartRow k) k ∧ (s.restartRow k).stepless := by
  cases hm : (s.row k).stoppedByTenant with
  | false => rw [State.restartRow_unmarked hm]; exact ⟨.refl s k, h⟩
  | true =>
    obtain ⟨act, -, stepper, -⟩ := State.restartRow_marked (h k) hm
    refine ⟨act, fun j => ?_⟩
    by_cases e : j = k
    · subst e; exact stepper
    · rw [act.row j e]; exact h j

/-- Rows restarted one after the other: every other row, each unmarked row, and the tenants' records are as before. -/
theorem State.restartRows_frame {s : State} (h : s.stepless) (l : List RowKey) :
    (∀ j, j ∉ l ∨ (s.row j).stoppedByTenant = false → (l.foldl State.restartRow s).row j = s.row j) ∧
      (l.foldl State.restartRow s).tens = s.tens := by
  have key : (l.foldl State.restartRow s).stepless ∧
      (∀ j, j ∉ l ∨ (s.row j).stoppedByTenant = false → (l.foldl State.restartRow s).row j = s.row j) ∧
      (l.foldl State.restartRow s).tens = s.tens := by
    refine List.foldlRecOn l State.restartRow (motive := fun u => u.stepless ∧
      (∀ j, j ∉ l ∨ (s.row j).stoppedByTenant = false → u.row j = s.row j) ∧ u.tens = s.tens) ⟨h, fun _ _ => rfl, rfl⟩ ?_
    rintro u ⟨hu, row, tens⟩ k hk
    obtain ⟨act, hu'⟩ := State.restartRow_acts hu k
    refine ⟨hu', fun j hj => ?_, act.tens.trans tens⟩
    by_cases e : j = k
    · subst e
      have unmarked : (u.row j).stoppedByTenant = false := row j hj ▸ hj.resolve_left (fun out => out hk)
      rw [State.restartRow_unmarked unmarked, row j hj]
    · rw [act.row j e, row j hj]
  exact key.2

/-- A marked row among those restarted that is STOPPED and holds no command is READY. -/
theorem State.restartRows_marked {s : State} (h : s.stepless) {l : List RowKey} {j : RowKey} (hj : j ∈ l) (hst : (s.row j).st = .stopped)
    (hm : (s.row j).stoppedByTenant = true) (hh : (s.row j).held = []) :
    (l.foldl State.restartRow s).row j = (s.row j).restarted s.time := by
  refine (foldl_reaches (P := fun u : State => u.stepless ∧ u.time = s.time ∧ u.row j = s.row j)
    (Q := fun u : State => u.stepless ∧ u.row j = (s.row j).restarted s.time) ?_ ?_ ?_ hj ⟨h, rfl, rfl⟩).2
  · rintro u k - e ⟨hu, time, row⟩
    obtain ⟨act, hu'⟩ := State.restartRow_acts hu k
    exact ⟨hu', act.time.trans time, (act.row j e.symm).trans row⟩
  · rintro u ⟨hu, time, row⟩
    rw [← row] at hst hm hh
    obtain ⟨-, -, -, restarted⟩ := State.restartRow_marked (hu j) hm
    exact ⟨(State.restartRow_acts hu j).2, by rw [restarted hst hh, row, time]⟩
  · rintro u k - ⟨hu, row⟩
    obtain ⟨act, hu'⟩ := State.restartRow_acts hu k
    refine ⟨hu', ?_⟩
    by_cases e : k = j
    · subst e
      have unmarked : (u.row k).stoppedByTenant = false := by rw [row]; rfl
      rw [State.restartRow_unmarked unmarked, row]
    · exact (act.row j (Ne.symm e)).trans row

/-- VCTL.START at a stopped tenant (R273). -/
theorem State.startTenant_spec {s : State} {t : BitVec 4} (h : s.stepless) :
    ((s.startTenant t).ten t).st = .active ∧ ((s.startTenant t).ten t).stopping = false ∧
      (∀ j, j.t = t → (s.row j).st = .stopped → (s.row j).stoppedByTenant = true → (s.row j).held = [] →
        (s.startTenant t).row j = (s.row j).restarted s.time) ∧
      (∀ j, j.t = t → (s.row j).stoppedByTenant = false → (s.startTenant t).row j = s.row j) ∧
      (∀ j, j.t ≠ t → (s.startTenant t).row j = s.row j) := by
  have hu : (s.setTen t { s.ten t with st := .active, stopping := false }).stepless := h
  obtain ⟨row, tens⟩ := State.restartRows_frame hu (s.rowsOf t)
  have ten : (s.startTenant t).ten t = { s.ten t with st := .active, stopping := false } :=
    (congrArg (fun m => NMap.get Tenant.reset m t.toNat) tens).trans (State.ten_setTen_same s t _)
  refine ⟨by rw [ten], by rw [ten], fun j hj hst hm hh => ?_, fun j _ hm => row j (.inr hm),
    fun j hj => row j (.inl (fun hm => hj (State.mem_rowsOf.mp hm).2))⟩
  by_cases hl : j ∈ s.rowsOf t
  · exact State.restartRows_marked hu hl hst hm hh
  · rw [State.row_unlisted (hj ▸ hl)] at hst; cases hst

/-! ## A tenant reset begins (R276) -/

@[simp] theorem Row.silence_reset : Row.reset.silence = Row.reset := rfl

/-- A row that was MOVING stands where its directory entry last recorded it (R276). -/
def State.endMove (s : State) (k : RowKey) : State := if (s.row k).st == .moving then s.setDir k { s.dir k with moving := false } else s

/-- The rows' moves at an end: no row and no tenant's record has changed. -/
theorem State.endMoves_frame (s : State) (l : List RowKey) :
    (l.foldl State.endMove s).rows = s.rows ∧ (l.foldl State.endMove s).tens = s.tens := by
  refine List.foldlRecOn l State.endMove (motive := fun u : State => u.rows = s.rows ∧ u.tens = s.tens) ⟨rfl, rfl⟩ (fun u h k _ => ?_)
  unfold State.endMove
  split <;> exact h

/-- The state in which the reset of a tenant ends the moves of its rows. -/
def State.resetting (s : State) (t : BitVec 4) : State :=
  s.setTen t { s.ten t with st := .resetting, resetStep := 3, stopping := false, partial_ := false }

theorem State.beginReset_tens (s : State) (t : BitVec 4) :
    (s.beginReset t).tens = (((s.resetting t).rowsOf t).foldl State.endMove (s.resetting t)).tens := rfl

theorem State.beginReset_rows (s : State) (t : BitVec 4) : (s.beginReset t).rows =
    (((s.resetting t).rowsOf t).foldl State.endMove (s.resetting t)).rows.map
      (fun (k, r) => (k, if (RowKey.ofKey k).t == t then r.silence else r)) := rfl

/-- The reset begins: the tenant is resetting, its rows fall silent, and no other row changes. -/
theorem State.beginReset_spec (s : State) (t : BitVec 4) :
    ((s.beginReset t).ten t).st = .resetting ∧ ((s.beginReset t).ten t).resetStep = 3 ∧
      (∀ j, j.t = t → (s.beginReset t).row j = (s.row j).silence) ∧ (∀ j, j.t ≠ t → (s.beginReset t).row j = s.row j) := by
  obtain ⟨rows, tens⟩ := (s.resetting t).endMoves_frame ((s.resetting t).rowsOf t)
  have ten : (s.beginReset t).ten t = { s.ten t with st := .resetting, resetStep := 3, stopping := false, partial_ := false } := by
    rw [State.ten, State.beginReset_tens, tens]
    exact State.ten_setTen_same s t _
  have row (j : RowKey) : (s.beginReset t).row j = if j.t = t then (s.row j).silence else s.row j := by
    rw [State.row, State.beginReset_rows, rows]
    exact s.row_mapTenant t Row.silence Row.silence_reset j
  exact ⟨by rw [ten], by rw [ten], fun j hj => by rw [row, if_pos hj], fun j hj => by rw [row, if_neg hj]⟩

/-! ## Its work in flight ends (R148, R160, R200, R242) -/

/-- From s to t no tenant's record has changed, and nothing has been sent to a row, to a home or to a row's place. -/
structure SendsNothing (s t : State) : Prop where
  tens : t.tens = s.tens
  outside : t.outside = s.outside
  homeOps : t.homeOps = s.homeOps
  spawns : t.spawns = s.spawns

namespace SendsNothing

theorem refl (s : State) : SendsNothing s s := ⟨rfl, rfl, rfl, rfl⟩

theorem trans {s t u : State} (a : SendsNothing s t) (b : SendsNothing t u) : SendsNothing s u :=
  ⟨b.tens.trans a.tens, b.outside.trans a.outside, b.homeOps.trans a.homeOps, b.spawns.trans a.spawns⟩

theorem of_moves {s t : State} (h : CacheMoves s t) : SendsNothing s t :=
  ⟨h.tens, (congrArg State.outside h.rest :), (congrArg State.homeOps h.rest :), (congrArg State.spawns h.rest :)⟩

theorem of_cols (s : State) (c : NMap Column) : SendsNothing s { s with cols := c } := ⟨rfl, rfl, rfl, rfl⟩

theorem foldl {α : Type} {f : State → α → State} (h : ∀ s x, SendsNothing s (f s x)) (l : List α) (s : State) :
    SendsNothing s (l.foldl f s) :=
  List.foldlRecOn l f (refl s) (fun u hu x _ => hu.trans (h u x))

end SendsNothing

theorem State.deviceWrite_sends (s : State) (pa : Nat) (data : List Byte) : SendsNothing s (s.deviceWrite pa data) :=
  .of_moves (s.deviceWrite_moves pa data)

theorem State.setSpan_sends (s : State) (i : Nat) (x : Span) : SendsNothing s (s.setSpan i x) := ⟨rfl, rfl, rfl, rfl⟩

theorem State.dropWalks_sends (s : State) (t : BitVec 4) (i : Nat) : SendsNothing s (s.dropWalks t i) := by
  unfold State.dropWalks
  dsimp only
  split
  · split
    · exact (s.setSpan_sends i _).trans (State.deviceWrite_sends _ _ _)
    · exact s.setSpan_sends i _
  · exact s.setSpan_sends i _

theorem State.freePlaces_sends (s : State) (t : BitVec 4) (i : Nat) : SendsNothing s (s.freePlaces t i) := by
  unfold State.freePlaces
  exact (s.setSpan_sends i _).trans (.foldl (fun u a => u.deviceWrite_sends a _) _ _)

theorem State.endPairing_sends (s : State) (i : Nat) : SendsNothing s (s.endPairing i) := by
  unfold State.endPairing
  split <;> exact ⟨rfl, rfl, rfl, rfl⟩

theorem State.unbindAt_sends (s : State) (t : BitVec 4) (l : BitVec 32) (site : BitVec 10) : SendsNothing s (s.unbindAt t l site) := by
  refine SendsNothing.foldl (fun u k => ?_) _ s
  dsimp only
  split <;> exact ⟨rfl, rfl, rfl, rfl⟩

theorem State.unbindAll_sends (s : State) (t : BitVec 4) (site : BitVec 10) : SendsNothing s (s.unbindAll t site) :=
  SendsNothing.foldl (fun u l => u.unbindAt_sends t l site) _ s

theorem State.dropFlights_tens (s : State) (t : BitVec 4) : (s.dropFlights t).tens = s.tens :=
  List.foldlRecOn (s.numbersOf t) State.performed (motive := fun u : State => u.tens = s.tens) rfl
    (fun u h n _ => (u.performed_moves n).tens.trans h)

/-- What is dropped: every access to a row of the tenant, every operation of it at a home, every message that spawns a row of it. -/
theorem State.dropFlights_sent (s : State) (t : BitVec 4) : (∀ m ∈ (s.dropFlights t).outside, m.row.t ≠ t) ∧
    (∀ m ∈ (s.dropFlights t).homeOps, m.row.t ≠ t) ∧ (∀ m ∈ (s.dropFlights t).spawns, m.tenant ≠ t) := by
  unfold State.dropFlights
  refine ⟨fun m h => ?_, fun m h => ?_, fun m h => ?_⟩ <;> exact bne_iff_ne.mp (List.mem_filter.mp h).2

/-- Behind what is dropped, nothing more of the end of the work sends anything. -/
theorem State.endWork_sends (s : State) (t : BitVec 4) :
    SendsNothing ((s.setTen t { s.ten t with partial_ := s.torn t }).dropFlights t) (s.endWork t) := by
  unfold State.endWork
  dsimp only
  refine SendsNothing.trans ?_ (.of_cols _ _)
  refine SendsNothing.trans ?_ (.foldl (fun u c => u.unbindAll_sends t c) _ _)
  refine SendsNothing.trans ?_ (.foldl (fun u (x : Nat × Link) => u.endPairing_sends x.1) _ _)
  exact .foldl (fun u i => (u.dropWalks_sends t i).trans (State.freePlaces_sends _ t i)) _ _

/-- The work of the tenant has ended: nothing of it is on its way to a row, at a home or to a row's place, and its state stands. -/
theorem State.endWork_spec (s : State) (t : BitVec 4) : ((s.endWork t).ten t).st = (s.ten t).st ∧
    (∀ m ∈ (s.endWork t).outside, m.row.t ≠ t) ∧ (∀ m ∈ (s.endWork t).homeOps, m.row.t ≠ t) ∧
      (∀ m ∈ (s.endWork t).spawns, m.tenant ≠ t) := by
  have sent := s.endWork_sends t
  have ten : (s.endWork t).ten t = { s.ten t with partial_ := s.torn t } := by
    rw [State.ten, sent.tens, State.dropFlights_tens]
    exact State.ten_setTen_same s t _
  rw [ten, sent.outside, sent.homeOps, sent.spawns]
  exact ⟨rfl, State.dropFlights_sent _ t⟩

/-! ## Its rows and registers read their reset values (R103, R277) -/

/-- What the reset leaves of a row's record: of one that has issued within the last 4 cycles, when it may issue again (R21). -/
def Row.cleared (r : Row) (now : Nat) : Row := if now < r.issueAt then { Row.reset with issueAt := r.issueAt } else Row.reset

@[simp] theorem Row.cleared_reset (now : Nat) : Row.reset.cleared now = Row.reset := if_neg (Nat.not_lt_zero now)

/-- The records m, in which the cycle from which row k may issue again stands where it is still to come (R21). -/
def State.keepIssue (s : State) (m : NMap Row) (k : RowKey) : NMap Row :=
  if s.time < (s.row k).issueAt then NMap.set m k.key { Row.reset with issueAt := (s.row k).issueAt } else m

theorem State.rowsWithout_eq (s : State) (t : BitVec 4) : s.rowsWithout t =
    (s.rowsOf t).foldl s.keepIssue (s.rows.filter (fun x => (RowKey.ofKey x.1).t != t)) := rfl

theorem State.keepIssue_other (s : State) (m : NMap Row) {j k : RowKey} (h : j ≠ k) :
    NMap.get Row.reset (s.keepIssue m k) j.key = NMap.get Row.reset m j.key := by
  unfold State.keepIssue
  split
  · exact NMap.get_set_other _ _ _ (fun e => h (RowKey.key_inj e))
  · rfl

/-- A record that was at reset, or as the reset leaves it, is as the reset leaves it. -/
theorem State.keepIssue_same {s : State} {m : NMap Row} {k : RowKey}
    (h : NMap.get Row.reset m k.key = Row.reset ∨ NMap.get Row.reset m k.key = (s.row k).cleared s.time) :
    NMap.get Row.reset (s.keepIssue m k) k.key = (s.row k).cleared s.time := by
  unfold State.keepIssue
  split
  · rename_i late
    rw [NMap.get_set_same, Row.cleared, if_pos late]
  · rename_i late
    have reset : (s.row k).cleared s.time = Row.reset := if_neg late
    exact h.elim (·.trans reset.symm) id

theorem State.keepIssues_other (s : State) (m : NMap Row) {l : List RowKey} {j : RowKey} (h : j ∉ l) :
    NMap.get Row.reset (l.foldl s.keepIssue m) j.key = NMap.get Row.reset m j.key :=
  List.foldlRecOn l s.keepIssue (motive := fun u => NMap.get Row.reset u j.key = NMap.get Row.reset m j.key) rfl
    (fun u e k hk => (s.keepIssue_other u (fun c => h (by rwa [c]))).trans e)

/-- The records of the tenant's rows as the reset leaves them, those of the others as they were. -/
theorem State.rowsWithout_get (s : State) (t : BitVec 4) (j : RowKey) :
    NMap.get Row.reset (s.rowsWithout t) j.key = if j.t = t then (s.row j).cleared s.time else s.row j := by
  have base : NMap.get Row.reset (s.rows.filter (fun x => (RowKey.ofKey x.1).t != t)) j.key = if j.t = t then Row.reset else s.row j := by
    rw [NMap.get_filter Row.reset (fun a => (RowKey.ofKey a).t != t), RowKey.ofKey_key]
    by_cases e : j.t = t <;> simp [e, State.row]
  rw [State.rowsWithout_eq]
  by_cases hj : j ∈ s.rowsOf t
  · have mine : j.t = t := (State.mem_rowsOf.mp hj).2
    rw [if_pos mine] at base ⊢
    exact foldl_reaches (P := fun m => NMap.get Row.reset m j.key = Row.reset)
      (Q := fun m => NMap.get Row.reset m j.key = (s.row j).cleared s.time)
      (fun m k _ e p => (s.keepIssue_other m e.symm).trans p) (fun m p => State.keepIssue_same (.inl p))
      (fun m k _ q => by
        by_cases e : k = j
        · subst e; exact State.keepIssue_same (.inr q)
        · exact (s.keepIssue_other m (Ne.symm e)).trans q) hj base
  · rw [s.keepIssues_other _ hj, base]
    split
    · rename_i mine
      rw [State.row_unlisted (mine ▸ hj), Row.cleared_reset]
    · rfl

/-- The scratchpad of a span zeroed (R129). -/
def State.zeroSpan (s : State) (i : Nat) : State := s.setSpan i { s.span i with scratch := [], bad := [] }

theorem State.zeroSpans_frame (s : State) (l : List Nat) :
    (l.foldl State.zeroSpan s).rows = s.rows ∧ (l.foldl State.zeroSpan s).tens = s.tens :=
  List.foldlRecOn l State.zeroSpan (motive := fun u : State => u.rows = s.rows ∧ u.tens = s.tens) ⟨rfl, rfl⟩ (fun _ h _ _ => h)

/-- Step 5 of the reset (R276): rows and registers. -/
theorem State.clearTenant_spec (s : State) (t : BitVec 4) :
    (s.clearTenant t).rows = s.rowsWithout t ∧ (s.clearTenant t).ten t = (s.ten t).clear := by
  have frame (c : NMap Column) (f : NMap Field) (w : List Comp) (l : List Nat) :=
    State.zeroSpans_frame { s with rows := s.rowsWithout t, cols := c, fields := f, wcomp := w } l
  unfold State.clearTenant
  dsimp only
  refine ⟨(frame _ _ _ _).1, (State.ten_setTen_same _ t _).trans (congrArg Tenant.clear ?_)⟩
  exact congrArg (fun m => NMap.get Tenant.reset m t.toNat) (frame _ _ _ _).2

/-- A ring emptied by the device moves bytes to their home. -/
theorem State.emptyRing_moves (s : State) (base : Nat) : CacheMoves s (s.emptyRing base) := by
  unfold State.emptyRing
  split
  · exact .refl s
  · exact (s.merge_moves _ _).trans (State.coreWrite_moves _ _ _)

/-- Step 6 of the reset (R276): the tenant is active; its record otherwise, and the rows, are as they were. -/
theorem State.endReset_spec (s : State) (t : BitVec 4) (torn : Bool) :
    (s.endReset t torn).rows = s.rows ∧ (s.endReset t torn).ten t = { s.ten t with st := .active } := by
  have emptied := (s.emptyRing_moves (s.ten t).cqbase.toNat).trans (State.emptyRing_moves _ (s.ten t).fqbase.toNat)
  obtain ⟨u, posted, e⟩ : ∃ u, CacheMoves s u ∧ s.endReset t torn = u.setTen t { u.ten t with st := .active } := by
    unfold State.endReset
    dsimp only
    split
    · exact ⟨_, emptied, rfl⟩
    · exact ⟨_, emptied.trans ((State.coreWrite_moves _ _ _).trans (State.coreWrite_moves _ _ _)), rfl⟩
  rw [e, State.ten_setTen_same, posted.ten]
  exact ⟨posted.rows, rfl⟩

/-! ## The events -/

theorem exec_vctlStop (s : State) : exec .vctlStop s = execVctlStop s := rfl
theorem exec_vctlStart (s : State) : exec .vctlStart s = execVctlStart s := rfl
theorem exec_vctlReset (s : State) : exec .vctlReset s = execVctlReset s := rfl
theorem exec_functionLevelReset (s : State) : exec .functionLevelReset s = execFunctionLevelReset s := rfl
theorem exec_tenantStopDrain (s : State) : exec .tenantStopDrain s = execTenantStopDrain s := rfl
theorem exec_tenantResetDrain (s : State) : exec .tenantResetDrain s = execTenantResetDrain s := rfl

/-- What an access to VCTL that its tenant's state does not permit leaves: bit b of VERR and VERRADDR (R390). -/
def SetsVerr (s : State) (b : Nat) (t : State) : Prop :=
  t.rows = s.rows ∧ t.hostErr = true ∧ OnlyTen { s with hostErr := true } t s.sel.t
    { s.ten s.sel.t with verr := setBit (s.ten s.sel.t).verr b true, verraddr := 4 }

/-- An event that sets the bit of VERR is refused so. -/
theorem Makes.refused {s : State} {i : Instr} {b : Nat} (h : exec i s = .next (s.writeError s.sel.t b 4)) : Makes s i (SetsVerr s b) :=
  ⟨_, h, s.writeError_only s.sel.t b 4⟩

/-- A device whose boot has halted takes no access to VCTL (R404). -/
theorem vctl_halted {s : State} (h : s.bootLock = false) : Idles s .vctlStop ∧ Idles s .vctlStart ∧ Idles s .vctlReset := by
  simp [Idles, exec_vctlStop, exec_vctlStart, exec_vctlReset, execVctlStop, execVctlStart, execVctlReset, h]

section Vctl

variable {s : State} (hb : s.bootLock = true)
include hb

theorem exec_vctlStop_active (hx : (s.ten s.sel.t).st = .active) : exec .vctlStop s = .next (s.stopTenant s.sel.t) := by
  simp [exec_vctlStop, execVctlStop, hb, hx]

theorem exec_vctlStart_stopped (hx : (s.ten s.sel.t).st = .stopped) : exec .vctlStart s = .next (s.startTenant s.sel.t) := by
  simp [exec_vctlStart, execVctlStart, hb, hx]

theorem exec_vctlReset_begins (hx : (s.ten s.sel.t).st = .active ∨ (s.ten s.sel.t).st = .stopped) :
    exec .vctlReset s = .next (s.beginReset s.sel.t) := by
  obtain hx | hx := hx <;> simp [exec_vctlReset, execVctlReset, hb, hx]

/-- During a reset, VERR.RESET (R390). -/
theorem vctl_resetting (hx : (s.ten s.sel.t).st = .resetting) :
    Makes s .vctlStop (SetsVerr s 3) ∧ Makes s .vctlStart (SetsVerr s 3) ∧ Makes s .vctlReset (SetsVerr s 3) :=
  ⟨.refused (by simp [exec_vctlStop, execVctlStop, hb, hx]), .refused (by simp [exec_vctlStart, execVctlStart, hb, hx]),
    .refused (by simp [exec_vctlReset, execVctlReset, hb, hx])⟩

/-- Where the tenant is not there, VERR.STATE (R390). -/
theorem vctl_away (hx : (s.ten s.sel.t).st = .absent ∨ (s.ten s.sel.t).st = .swapped) :
    Makes s .vctlStop (SetsVerr s 2) ∧ Makes s .vctlStart (SetsVerr s 2) ∧ Makes s .vctlReset (SetsVerr s 2) := by
  obtain hx | hx := hx <;>
  exact ⟨.refused (by simp [exec_vctlStop, execVctlStop, hb, hx]), .refused (by simp [exec_vctlStart, execVctlStart, hb, hx]),
    .refused (by simp [exec_vctlReset, execVctlReset, hb, hx])⟩

theorem vctlStop_stopped (hx : (s.ten s.sel.t).st = .stopped) : Makes s .vctlStop (SetsVerr s 2) :=
  .refused (by simp [exec_vctlStop, execVctlStop, hb, hx])

theorem vctlStart_active (hx : (s.ten s.sel.t).st = .active) : Makes s .vctlStart (SetsVerr s 2) :=
  .refused (by simp [exec_vctlStart, execVctlStart, hb, hx])

end Vctl

theorem exec_functionLevelReset_begins {s : State} (hx : (s.ten s.sel.t).st = .active ∨ (s.ten s.sel.t).st = .stopped) :
    exec .functionLevelReset s = .next (s.beginReset s.sel.t) := by
  obtain hx | hx := hx <;> simp [exec_functionLevelReset, execFunctionLevelReset, hx]

theorem functionLevelReset_idles {s : State} (ha : (s.ten s.sel.t).st ≠ .active) (hs : (s.ten s.sel.t).st ≠ .stopped) :
    Idles s .functionLevelReset := by
  unfold Idles
  rw [exec_functionLevelReset, execFunctionLevelReset]
  split
  · contradiction
  · contradiction
  · rfl

/-- The stop has ended once nothing of the tenant is in flight (R273). -/
theorem exec_tenantStopDrain_ends {s : State} (hx : (s.ten s.sel.t).st = .stopped) (hs : (s.ten s.sel.t).stopping = true)
    (hb : s.tenantBusy s.sel.t = false) :
    exec .tenantStopDrain s = .next (s.setTen s.sel.t { s.ten s.sel.t with stopping := false }) := by
  simp [exec_tenantStopDrain, execTenantStopDrain, hx, hs, hb]

theorem tenantStopDrain_idles {s : State} (hb : s.tenantBusy s.sel.t = true) : Idles s .tenantStopDrain := by
  simp [Idles, exec_tenantStopDrain, execTenantStopDrain, hb]

theorem tenantResetDrain_idles {s : State} (hx : (s.ten s.sel.t).st ≠ .resetting) : Idles s .tenantResetDrain := by
  simp [Idles, exec_tenantResetDrain, execTenantResetDrain, hx]

section Resetting

variable {s : State} (hx : (s.ten s.sel.t).st = .resetting)
include hx

/-- A job that may not end yet holds the reset up (R148). -/
theorem tenantResetDrain_waitsJobs (h3 : (s.ten s.sel.t).resetStep = 3) (hj : s.endJobs s.sel.t = none) : Idles s .tenantResetDrain := by
  simp [Idles, exec_tenantResetDrain, execTenantResetDrain, hx, h3, hj]

theorem exec_tenantResetDrain_work {u : State} (h3 : (s.ten s.sel.t).resetStep = 3) (hj : s.endJobs s.sel.t = some u) :
    exec .tenantResetDrain s =
      .next ((u.endWork s.sel.t).setTen s.sel.t { (u.endWork s.sel.t).ten s.sel.t with resetStep := 4 }) := by
  simp [exec_tenantResetDrain, execTenantResetDrain, hx, h3, hj]

/-- A row in a slot holds the reset up (R276). -/
theorem tenantResetDrain_waitsSlots (h3 : (s.ten s.sel.t).resetStep ≠ 3) (hs : s.slotsOf s.sel.t = true) : Idles s .tenantResetDrain := by
  have later : ¬(s.ten s.sel.t).resetStep = 3#3 := h3
  simp [Idles, exec_tenantResetDrain, execTenantResetDrain, hx, later, hs]

theorem exec_tenantResetDrain_ends (h3 : (s.ten s.sel.t).resetStep ≠ 3) (hs : s.slotsOf s.sel.t = false)
    (hr : (s.ten s.sel.t).removing = false) :
    exec .tenantResetDrain s = .next ((s.clearTenant s.sel.t).endReset s.sel.t (s.ten s.sel.t).partial_) := by
  have later : ¬(s.ten s.sel.t).resetStep = 3#3 := h3
  simp [exec_tenantResetDrain, execTenantResetDrain, hx, later, hs, hr]

end Resetting

/-- The end of a tenant reset (R103, R276, R277): its rows as the reset leaves them, its registers at their reset values, what the
management cores hold of it as it was. -/
theorem State.resetEnds_spec (s : State) (t : BitVec 4) (torn : Bool) :
    (∀ j : RowKey, ((s.clearTenant t).endReset t torn).row j = if j.t = t then (s.row j).cleared s.time else s.row j) ∧
      ((s.clearTenant t).endReset t torn).ten t = { (s.ten t).clear with st := .active } := by
  obtain ⟨rows, ten⟩ := s.clearTenant_spec t
  obtain ⟨rows', ten'⟩ := (s.clearTenant t).endReset_spec t torn
  refine ⟨fun j => ?_, by rw [ten', ten]⟩
  rw [State.row, rows', rows, State.rowsWithout_get]

/-- Settles O56: a stop, a start and a reset row by row, from what each makes of one row of the tenant. -/
theorem tenantEvents : Obligations.TenantEvents := by
  unfold Obligations.TenantEvents
  refine ⟨fun s => ⟨vctl_halted, fun hb steppers => ⟨fun hx faults => ?stop, fun hx => ?start⟩,
      fun hb => ⟨vctl_resetting hb, vctl_away hb, vctlStop_stopped hb, vctlStart_active hb⟩, fun hx hs hq => ?drained,
      tenantStopDrain_idles⟩,
    fun s => ⟨fun hx => ?begins, functionLevelReset_idles, tenantResetDrain_idles, tenantResetDrain_waitsJobs, fun u hx h3 hj => ?work,
      tenantResetDrain_waitsSlots, fun hx h3 hs hr => ?ends⟩⟩
  case stop => exact ⟨_, exec_vctlStop_active hb hx, State.stopTenant_spec ⟨steppers, faults⟩⟩
  case start => exact ⟨_, exec_vctlStart_stopped hb hx, State.startTenant_spec steppers⟩
  case drained => exact ⟨_, exec_tenantStopDrain_ends hx hs hq, .setTen s _ _⟩
  case begins =>
    have begun := s.beginReset_spec s.sel.t
    exact ⟨fun hb => ⟨_, exec_vctlReset_begins hb hx, begun⟩, ⟨_, exec_functionLevelReset_begins hx, begun⟩⟩
  case work =>
    obtain ⟨st, sent⟩ := u.endWork_spec s.sel.t
    refine ⟨_, exec_tenantResetDrain_work hx h3 hj, ?_⟩
    simp only [State.ten_setTen_same, State.setTen_outside, State.setTen_homeOps, State.setTen_spawns]
    exact ⟨trivial, st, sent⟩
  case ends =>
    obtain ⟨row, ten⟩ := s.resetEnds_spec s.sel.t (s.ten s.sel.t).partial_
    refine ⟨_, exec_tenantResetDrain_ends hx h3 hs hr, ?_, fun j hj => ?_, fun j hj => ?_, ?_⟩
    · rw [ten]
    · rw [row, if_pos hj]; rfl
    · rw [row, if_neg hj]
    · rw [ten]
      exact ⟨rfl, rfl, rfl, rfl, rfl, rfl, rfl, rfl, rfl, rfl, rfl, rfl, rfl⟩

end Sys2Proof.Machine
end

section
/-! SUPPORT. A launch that is placed and the rows that its launch units allocate, write and start (R41, R136, R205, R233, R248, R249). -/

namespace Sys2Proof.Machine

/-! ## What placing a launch changes (R136, R171, R205) -/

/-- From s to t at most columns and fields have changed. -/
def TablesOnly (s t : State) : Prop := { t with cols := s.cols, fields := s.fields } = s

namespace TablesOnly

variable {s t u : State}

theorem refl (s : State) : TablesOnly s s := rfl

theorem trans (a : TablesOnly s t) (b : TablesOnly t u) : TablesOnly s u := by
  unfold TablesOnly at *
  rw [← b] at a
  exact a

theorem setCol (s : State) (i : Nat) (c : Column) : TablesOnly s (s.setCol i c) := rfl

theorem setField (s : State) (i : Nat) (x : Field) : TablesOnly s (s.setField i x) := rfl

theorem of_slots (h : SlotsOnly s t) : TablesOnly s t := by
  have rest := h.rest
  have fields : t.fields = s.fields := (congrArg State.fields rest :)
  unfold TablesOnly
  rw [← fields]
  exact rest

/-- A fold of changes that stay within the relation stays within it. -/
theorem foldl {α : Type} {f : State → α → State} (h : ∀ s x, TablesOnly s (f s x)) (l : List α) (s : State) :
    TablesOnly s (l.foldl f s) :=
  List.foldlRecOn l f (refl s) (fun u hu x _ => hu.trans (h u x))

theorem rows (h : TablesOnly s t) : t.rows = s.rows := (congrArg State.rows h :)
theorem mem (h : TablesOnly s t) : t.mem = s.mem := (congrArg State.mem h :)
theorem wcomp (h : TablesOnly s t) : t.wcomp = s.wcomp := (congrArg State.wcomp h :)
theorem ten (h : TablesOnly s t) (k : BitVec 4) : t.ten k = s.ten k := (congrArg (fun u => State.ten u k) h :)
theorem serviceCount (h : TablesOnly s t) : t.serviceCount = s.serviceCount := (congrArg State.serviceCount h :)

end TablesOnly

/-! ### The entries of fields and columns -/

/-- The completion entry of a launch in a field, which counts the field's columns of the plan (R205). -/
def State.enterField (s : State) (t : BitVec 4) (l : Launch) (plan : List Cell) (f : Nat) : State :=
  let k := ((planSites plan).filter (fun x => fieldOfSite x.toNat == f)).length
  s.setField f { s.field f with comp := (s.field f).comp ++ [⟨t, l.id, BitVec.ofNat 18 k, false⟩] }

/-- A column with the completion entry of a launch, which counts its cells of the plan there, and the launch's pipes bound (R136,
R205). -/
def Column.entered (c : Column) (t : BitVec 4) (l : Launch) (plan : List Cell) (site : BitVec 10) : Column :=
  { c with
    comp := c.comp ++ [⟨t, l.id, BitVec.ofNat 18 (plan.filter (fun y => y.site == site)).length, false⟩]
    chans := Vector.ofFn (fun (i : Fin 16) => if (recPipes l.record).contains i then boundChan l.id else c.chans[i]) }

/-- The column of a site entered. -/
def State.enterColumn (s : State) (t : BitVec 4) (l : Launch) (plan : List Cell) (site : BitVec 10) : State :=
  s.setCol site.toNat ((s.col site.toNat).entered t l plan site)

/-- The wafer's completion entry of a launch, which counts the fields of the plan (R205). -/
def waferEntry (t : BitVec 4) (l : Launch) (plan : List Cell) : Comp :=
  ⟨t, l.id, BitVec.ofNat 18 (((planSites plan).map (fun c => fieldOfSite c.toNat)).eraseDups).length, false⟩

/-- The wafer and every field of the plan entered. -/
def State.enterFields (s : State) (t : BitVec 4) (l : Launch) (plan : List Cell) : State :=
  (((planSites plan).map (fun c => fieldOfSite c.toNat)).eraseDups).foldl (fun s f => s.enterField t l plan f)
    { s with wcomp := s.wcomp ++ [waferEntry t l plan] }

/-- Columns entered one after the other. -/
def State.enterColumns (s : State) (t : BitVec 4) (l : Launch) (plan : List Cell) (sites : List (BitVec 10)) : State :=
  sites.foldl (fun s site => s.enterColumn t l plan site) s

/-- Everything of a placement but the launch's own record. -/
def State.enterPlan (s : State) (t : BitVec 4) (l : Launch) (plan : List Cell) : State :=
  ((s.enterFields t l plan).enterColumns t l plan (planSites plan)).bindPlan t l plan

theorem State.placeLaunch_eq (s : State) (t : BitVec 4) (l : Launch) (plan : List Cell) :
    s.placeLaunch t l plan =
      let u := s.enterPlan t l plan
      u.setTen t ((u.ten t).modLaunch l.id
        (fun y => { y with phase := .placed, grid := (u.ten t).cols, wcols := u.serviceCount, todo := plan })) := rfl

/-- Bind records are all that the binding of a plan writes (R171). -/
theorem State.bindPlan_slots (s : State) (t : BitVec 4) (l : Launch) (plan : List Cell) : SlotsOnly s (s.bindPlan t l plan) := by
  refine List.foldlRecOn plan _ (.refl s) (fun u hu c _ => ?_)
  dsimp only
  split
  · exact hu
  · exact hu.trans (u.setExecutor_slots _ _ _)

theorem State.enterPlan_tables (s : State) (t : BitVec 4) (l : Launch) (plan : List Cell) :
    TablesOnly { s with wcomp := s.wcomp ++ [waferEntry t l plan] } (s.enterPlan t l plan) :=
  ((TablesOnly.foldl (fun u f => TablesOnly.setField u f _) _ _).trans (.foldl (fun u _ => .setCol u _ _) _ _)).trans
    (.of_slots (State.bindPlan_slots _ t l plan))

theorem nodup_eraseDups {α : Type} [BEq α] [LawfulBEq α] : ∀ l : List α, l.eraseDups.Nodup
  | [] => by simp
  | a :: l => by
    rw [List.eraseDups_cons, List.nodup_cons]
    exact ⟨by simp, nodup_eraseDups _⟩
  termination_by l => l.length
  decreasing_by exact Nat.lt_succ_of_le (List.length_filter_le _ _)

/-- Columns entered one after the other, each once: those listed carry their entry, any other is as before. -/
theorem State.col_enterColumns (s : State) (t : BitVec 4) (l : Launch) (plan : List Cell) {sites : List (BitVec 10)}
    (distinct : sites.Nodup) (c : BitVec 10) :
    (s.enterColumns t l plan sites).col c.toNat =
      if c ∈ sites then (s.col c.toNat).entered t l plan c else s.col c.toNat := by
  induction sites generalizing s with
  | nil => simp [State.enterColumns]
  | cons x sites ih =>
    obtain ⟨hx, distinct⟩ := List.nodup_cons.mp distinct
    have first : s.enterColumns t l plan (x :: sites) = (s.enterColumn t l plan x).enterColumns t l plan sites := rfl
    rw [first, ih _ distinct]
    by_cases e : c = x
    · subst e
      simp [hx, State.enterColumn]
    · have other : (s.enterColumn t l plan x).col c.toNat = s.col c.toNat :=
        State.col_setCol_other s _ (fun h => e (BitVec.eq_of_toNat_eq h))
      simp [other, e]

theorem planSites_nodup (plan : List Cell) : (planSites plan).Nodup := nodup_eraseDups _

/-- SHARE of a column of the plan counts its cells there (R205). -/
theorem State.enterPlan_comp (s : State) (t : BitVec 4) (l : Launch) (plan : List Cell) {c : BitVec 10} (hc : c ∈ planSites plan) :
    ((s.enterPlan t l plan).col c.toNat).comp = (s.col c.toNat).comp ++
      [⟨t, l.id, BitVec.ofNat 18 (plan.filter (fun y => y.site == c)).length, false⟩] := by
  let u := s.enterFields t l plan
  let v := u.enterColumns t l plan (planSites plan)
  have fields : u.cols = s.cols := List.foldlRecOn _ _ (motive := fun w : State => w.cols = s.cols) rfl (fun _ h _ _ => h)
  have entered : v.col c.toNat = (u.col c.toNat).entered t l plan c := by
    rw [State.col_enterColumns u t l plan (planSites_nodup plan), if_pos hc]
  calc ((s.enterPlan t l plan).col c.toNat).comp
      = (v.col c.toNat).comp := (congrArg Column.comp ((v.bindPlan_slots t l plan).col c.toNat) :)
    _ = ((s.col c.toNat).entered t l plan c).comp := by rw [entered, State.col, fields]; rfl

/-! ### The placement -/

theorem exec_launchPlacement (s : State) : exec .launchPlacement s = execLaunchPlacement s := rfl

section Placement

variable {s : State} {l : Launch} (hl : (s.ten s.sel.t).launches.find? (fun y => y.phase == .waiting) = some l)
include hl

/-- The tenant is not active, a LOAD of it is at work, or one of its columns is due to retire (R2, R273, R276, R401). -/
theorem launchPlacement_barred
    (h : (s.ten s.sel.t).st ≠ .active ∨ (s.ten s.sel.t).loading ≠ none ∨ s.retirementDue s.sel.t = true) :
    Idles s .launchPlacement := by
  have barred : ((s.ten s.sel.t).st != .active || (s.ten s.sel.t).loading.isSome || s.retirementDue s.sel.t) = true := by
    simpa [or_assoc, Option.isSome_iff_ne_none] using h
  simp only [Idles, exec_launchPlacement, execLaunchPlacement, hl, barred, if_true]

theorem launchPlacement_planless (h : s.plan s.sel.t l = none) : Idles s .launchPlacement := by
  simp [Idles, exec_launchPlacement, execLaunchPlacement, hl, h]

theorem launchPlacement_roomless {p : List Cell} (hp : s.plan s.sel.t l = some p) (h : s.planFits l p = false) :
    Idles s .launchPlacement := by
  simp [Idles, exec_launchPlacement, execLaunchPlacement, hl, hp, h]

theorem exec_launchPlacement_places {p : List Cell} (ha : (s.ten s.sel.t).st = .active) (hn : (s.ten s.sel.t).loading = none)
    (hr : s.retirementDue s.sel.t = false) (hp : s.plan s.sel.t l = some p) (hf : s.planFits l p = true) :
    exec .launchPlacement s = .next (s.placeLaunch s.sel.t l p) := by
  simp [exec_launchPlacement, execLaunchPlacement, hl, ha, hn, hr, hp, hf]

end Placement

/-- A placed launch has the grid of its tenant and the columns in service of that moment (R248, R297). -/
theorem State.placeLaunch_launches (s : State) (t : BitVec 4) (l : Launch) (plan : List Cell) :
    ((s.placeLaunch t l plan).ten t).launches = (s.ten t).launches.map (fun y =>
      if y.id = l.id then { y with phase := .placed, grid := (s.ten t).cols, wcols := s.serviceCount, todo := plan } else y) := by
  have tables := s.enterPlan_tables t l plan
  have ten : (s.enterPlan t l plan).ten t = s.ten t := tables.ten t
  have service : (s.enterPlan t l plan).serviceCount = s.serviceCount := tables.serviceCount
  simp [State.placeLaunch_eq, Tenant.modLaunch, ten, service]

/-! ## The rows that a launch unit allocates (R173, R249) -/

theorem State.mem_freeIds {s : State} {t : BitVec 4} {site : BitVec 10} {bank : BitVec 3} {n : BitVec 32}
    (h : n ∈ s.freeIds t site bank) :
    (s.row ⟨t, n⟩).st = .free ∧ (s.dir ⟨t, n⟩).site = site ∧ (s.dir ⟨t, n⟩).bank = bank := by
  obtain ⟨-, ⟨hsite, hbank⟩, hst⟩ : _ ∧ (_ ∧ _) ∧ _ := by simpa [State.freeIds] using h
  exact ⟨hst, hsite, hbank⟩

/-- An id that is allotted is FREE in the bank and not taken already. -/
theorem State.allotId_some {s : State} {t : BitVec 4} {site : BitVec 10} {bank : BitVec 3} {group : Option (BitVec 4)}
    {owed : List Cell} {taken : List (BitVec 32)} {n : BitVec 32} (h : s.allotId t site bank group owed taken = some n) :
    n ∈ s.freeIds t site bank ∧ n ∉ taken := by
  have untaken (hn : n ∈ (s.freeIds t site bank).filter (fun n => !taken.contains n)) :
      n ∈ s.freeIds t site bank ∧ n ∉ taken := by simpa using hn
  unfold State.allotId at h
  dsimp only at h
  split at h
  · cases h
  · rename_i m low
    obtain ⟨-, rfl⟩ : _ ∧ m = n := by simpa using h
    cases group with
    | none => exact untaken (List.mem_of_head? low)
    | some g => exact untaken (List.mem_of_find?_eq_some low)

/-- Rows allotted to cells: one for each cell in cell order, all different, each FREE in its cell's bank. -/
structure State.Allots (s : State) (t : BitVec 4) (cells : List Cell) (rows : List (Cell × BitVec 32)) : Prop where
  cells : rows.map (·.1) = cells
  distinct : (rows.map (·.2)).Nodup
  free : ∀ d ∈ rows, d.2 ∈ s.freeIds t d.1.site d.1.bank

/-- The last cell takes its row behind those of the cells before it. -/
theorem State.allotCells_concat {s : State} {t : BitVec 4} {id : BitVec 32} {cells : List Cell} {c : Cell}
    {rows : List (Cell × BitVec 32)} (h : s.allotCells t id (cells ++ [c]) = some rows) :
    ∃ l n owed, s.allotCells t id cells = some l ∧ s.allotId t c.site c.bank c.group owed (l.map (·.2)) = some n ∧
      rows = l ++ [(c, n)] := by
  unfold State.allotCells at h ⊢
  simp only [List.foldl_append, List.foldl_cons, List.foldl_nil] at h
  split at h
  · cases h
  · rename_i l before
    obtain ⟨n, allot, e⟩ := Option.map_eq_some_iff.mp h
    exact ⟨l, n, _, before, allot, e.symm⟩

theorem State.allotCells_allots {s : State} {t : BitVec 4} {id : BitVec 32} {cells : List Cell} {rows : List (Cell × BitVec 32)}
    (h : s.allotCells t id cells = some rows) : s.Allots t cells rows := by
  rw [← cells.reverse_reverse] at h ⊢
  generalize cells.reverse = last at h ⊢
  induction last generalizing rows with
  | nil =>
    obtain rfl : [] = rows := Option.some.inj h
    exact ⟨rfl, List.nodup_nil, nofun⟩
  | cons c last ih =>
    rw [List.reverse_cons] at h ⊢
    obtain ⟨l, n, owed, before, allot, rfl⟩ := State.allotCells_concat h
    obtain ⟨hcells, distinct, free⟩ := ih before
    obtain ⟨mine, untaken⟩ := State.allotId_some allot
    refine ⟨?_, ?_, fun d hd => ?_⟩
    · rw [List.map_append, hcells]
      rfl
    · rw [List.map_append, List.nodup_append]
      refine ⟨distinct, List.nodup_cons.mpr ⟨List.not_mem_nil, List.nodup_nil⟩, fun m hm m' hm' e => untaken ?_⟩
      obtain rfl : m' = n := List.mem_singleton.mp hm'
      exact e ▸ hm
    · obtain hd | hd := List.mem_append.mp hd
      · exact free d hd
      · rw [List.mem_singleton.mp hd]
        exact mine

/-! ## The rows that it writes and starts (R41, R233, R249) -/

/-- Writes of g registers change nothing but the registers. -/
theorem Row.foldl_wg_rest {α : Type} (n : α → BitVec 6) (v : α → DWord) (l : List α) (r : Row) :
    { l.foldl (fun x i => x.wg (n i) (v i)) r with g := r.g } = r := by
  refine List.foldlRecOn l _ (motive := fun x : Row => { x with g := r.g } = r) rfl (fun x hx i _ => ?_)
  have rest := congrArg (fun y : Row => { y with g := r.g }) (x.wg_rest (n i) (v i))
  exact rest.trans hx

/-- The row of a cell but for its arguments: at ENTRY, with its coordinates, its piece of each extent, and BUD at CAP (R41, R249). -/
def Launch.entryRow (l : Launch) (c : Cell) (n : BitVec 32) (cap : BitVec 16) : Row :=
  let w := recField l.record 0 2
  let h := recField l.record 2 2
  let e0 := recField l.record 4 4
  let e1 := recField l.record 8 4
  { Row.reset with
    rowid := n, pc := BitVec.ofNat 32 (recField l.record 0x0C 4), launch := l.id, predid := l.predid, countCol := c.site
    lx := BitVec.ofNat 16 (c.c % w), ly := BitVec.ofNat 16 (c.c / w), gridw := BitVec.ofNat 16 w, gridh := BitVec.ofNat 16 h
    base0 := BitVec.ofNat 32 (c.c % w * pieceOf e0 w), ext0 := BitVec.ofNat 32 (extOf e0 w (c.c % w))
    base1 := BitVec.ofNat 32 (c.c / w * pieceOf e1 h), ext1 := BitVec.ofNat 32 (extOf e1 h (c.c / w))
    pri := BitVec.ofNat 2 (recField l.record 0x11 1), bud := cap.setWidth 32 }

theorem launchRow_entry (l : Launch) (c : Cell) (n : BitVec 32) (cap : BitVec 16) :
    { launchRow l c n cap with g := Row.reset.g } = l.entryRow c n cap :=
  Row.foldl_wg_rest _ _ _ (l.entryRow c n cap)

/-- A FREE row as it was written, and READY by its START: its cycles of readiness and issue and its dependencies are the launch's. -/
def Row.Started (r r' : Row) : Prop :=
  { r' with st := r.st, readyAt := r.readyAt, issueAt := r.issueAt, dv := r.dv, ahead := r.ahead } = r ∧ r'.st = .ready

/-- START of a FREE row (R90): it is READY now, and its bind record counts it. -/
theorem State.command_start_free {s : State} {k : RowKey} (h : (s.row k).st = .free) :
    RowActs s (s.command k .start) k ∧ (s.command k .start).row k = { s.row k with st := .ready, readyAt := s.time } := by
  have cmd : s.command k .start = (s.makeReady k).countBound k true := by
    unfold State.command
    simp only [h]
  have counted := (s.makeReady k).countBound_slots k true
  rw [cmd]
  exact ⟨(RowActs.setRow s k _).trans (.of_slots counted k), (counted.row k).trans (s.makeReady_only k).1⟩

/-- The acquire of a row that is resumed (R233): the vector joins the row's own, and no load has fixed its value before it. -/
theorem State.resumeAcquire_acts (s : State) (k : RowKey) (v : Vector (BitVec 32) 12) :
    RowActs s (s.resumeAcquire k v) k ∧
      (s.resumeAcquire k v).row k = { s.row k with dv := joinVec (s.row k).dv v, ahead := [] } := by
  have far := (s.joinDv k v).acquireFar_moves (s.siteOf k)
  exact ⟨(RowActs.setRow s k _).trans (.of_moves far k), (far.row k).trans (s.row_setRow_same k _)⟩

/-- A launch unit that starts a row changes that row alone, and the row is as it was written, READY (R233, R249). -/
theorem State.startRow_acts (s : State) (k : RowKey) (r : Row) (vec : Vector (BitVec 32) 12) (h : r.st = .free) :
    RowActs s (s.startRow k r vec) k ∧ r.Started ((s.startRow k r vec).row k) := by
  let u := s.setRow k { r with issueAt := (s.row k).issueAt }
  have row : u.row k = { r with issueAt := (s.row k).issueAt } := s.row_setRow_same k _
  obtain ⟨starts, ready⟩ := State.command_start_free (s := u) (k := k) (by rw [row]; exact h)
  obtain ⟨acquires, acquired⟩ := (u.command k .start).resumeAcquire_acts k vec
  have started : (s.startRow k r vec).row k = _ := acquired
  refine ⟨((RowActs.setRow s k _).trans starts).trans acquires, ?_⟩
  rw [started, ready, row]
  exact ⟨rfl, rfl⟩

/-- The rows of a launch written and started one after the other (R249). -/
def State.startCells (s : State) (t : BitVec 4) (l : Launch) (cap : BitVec 16) (rows : List (Cell × BitVec 32)) : State :=
  rows.foldl (fun s d => s.startRow ⟨t, d.2⟩ (launchRow l d.1 d.2 cap) l.vec) s

theorem launchRow_free (l : Launch) (c : Cell) (n : BitVec 32) (cap : BitVec 16) : (launchRow l c n cap).st = .free :=
  (congrArg Row.st (launchRow_entry l c n cap) :)

/-- Entries of a list that `f` keeps apart are the same where `f` takes them to the same value. -/
theorem eq_of_nodup_map {α β : Type} {f : α → β} {l : List α} (distinct : (l.map f).Nodup) {a b : α} (ha : a ∈ l) (hb : b ∈ l)
    (e : f a = f b) : a = b := by
  induction l with
  | nil => cases ha
  | cons x l ih =>
    rw [List.map_cons, List.nodup_cons] at distinct
    obtain ⟨hx, distinct⟩ := distinct
    have apart {y : α} (hy : y ∈ l) : f x ≠ f y := fun h => hx (h ▸ List.mem_map_of_mem hy)
    cases ha with
    | head =>
      cases hb with
      | head => rfl
      | tail _ hb => exact absurd e (apart hb)
    | tail _ ha =>
      cases hb with
      | head => exact absurd e.symm (apart ha)
      | tail _ hb => exact ih distinct ha hb

section StartCells

variable (s : State) (t : BitVec 4) (l : Launch) (cap : BitVec 16) {rows : List (Cell × BitVec 32)}

/-- Every other row is as before. -/
theorem State.startCells_other {j : RowKey} (hj : ∀ d ∈ rows, j ≠ ⟨t, d.2⟩) : (s.startCells t l cap rows).row j = s.row j := by
  refine List.foldlRecOn rows _ (motive := fun u : State => u.row j = s.row j) rfl (fun u hu d hd => ?_)
  exact ((u.startRow_acts _ _ l.vec (launchRow_free l d.1 d.2 cap)).1.row j (hj d hd)).trans hu

/-- Where the rows are all different, each is the row written for its cell, started. -/
theorem State.startCells_started (distinct : (rows.map (·.2)).Nodup) {c : Cell} {n : BitVec 32} (hd : (c, n) ∈ rows) :
    (launchRow l c n cap).Started ((s.startCells t l cap rows).row ⟨t, n⟩) := by
  refine foldl_reaches (P := fun _ => True) (Q := fun u : State => (launchRow l c n cap).Started (u.row ⟨t, n⟩))
    (fun _ _ _ _ _ => trivial) (fun u _ => ?_) (fun u d hd' hu => ?_) hd trivial
  · exact (u.startRow_acts _ _ l.vec (launchRow_free l c n cap)).2
  · obtain ⟨acts, started⟩ := u.startRow_acts ⟨t, d.2⟩ _ l.vec (launchRow_free l d.1 d.2 cap)
    by_cases e : d.2 = n
    · obtain rfl : d = (c, n) := eq_of_nodup_map distinct hd' hd e
      exact started
    · rw [acts.row ⟨t, n⟩ (fun h => e (congrArg RowKey.n h).symm)]
      exact hu

end StartCells

/-! ### The launch unit -/

theorem exec_launchRowStart (s : State) : exec .launchRowStart s = execLaunchRowStart s := rfl

/-- While its tenant is not active a launch unit starts no row (R273, R276). -/
theorem launchRowStart_inactive {s : State} (h : (s.ten s.sel.t).st ≠ .active) : Idles s .launchRowStart := by
  unfold Idles
  rw [exec_launchRowStart, execLaunchRowStart]
  split
  · rfl
  · simp [h]

section Start

variable {s : State} {l : Launch} {c : Cell} (ha : (s.ten s.sel.t).st = .active)
  (hc : c ∈ l.todo.filter (fun d => d.site == s.sel.site)) (hv : covers (s.field (fieldOfSite s.sel.site.toNat)).fav l.vec = true)
include ha hc hv

/-- Nothing bars the start of the cells that are placed at the launch unit's column. -/
theorem launchRowStart_open : ((s.ten s.sel.t).st != .active || (l.todo.filter (fun d => d.site == s.sel.site)).isEmpty ||
    !covers (s.field (fieldOfSite s.sel.site.toNat)).fav l.vec) = false := by
  simp [ha, hv, List.isEmpty_eq_false_iff.mpr (List.ne_nil_of_mem hc)]

variable (hl : (s.ten s.sel.t).launch s.sel.lnch = some l)
include hl

/-- While a row is lacking, the launch unit waits (R249). -/
theorem launchRowStart_waits (h : s.allotCells s.sel.t l.id (l.todo.filter (fun d => d.site == s.sel.site)) = none) :
    Idles s .launchRowStart := by
  simp only [Idles, exec_launchRowStart, execLaunchRowStart, hl, launchRowStart_open ha hc hv, h, Bool.false_eq_true, if_false]

theorem exec_launchRowStart_starts {rows : List (Cell × BitVec 32)} (hk : l.cancelled = false)
    (h : s.allotCells s.sel.t l.id (l.todo.filter (fun d => d.site == s.sel.site)) = some rows) :
    ∃ x, exec .launchRowStart s = .next ((s.setTen s.sel.t x).startCells s.sel.t l (s.col s.sel.site.toNat).bcap rows) := by
  simp only [exec_launchRowStart, execLaunchRowStart, hl, launchRowStart_open ha hc hv, h, hk, Bool.false_eq_true, if_false]
  exact ⟨_, rfl⟩

end Start

/-! ## The events -/

/-- Settles O51: a placement by what its entries change, a start row by row. -/
theorem launchEvents : Obligations.LaunchEvents := by
  unfold Obligations.LaunchEvents
  refine ⟨fun s l hl => ⟨launchPlacement_barred hl, launchPlacement_planless hl, fun p => launchPlacement_roomless hl,
      fun p ha hn hr hp hf => ?placed⟩,
    fun s l c n rows => ⟨launchRowStart_inactive, fun ha hl hc hv => ⟨launchRowStart_waits ha hc hv hl, fun h hd => ?allotted,
      fun h hd hk => ?started⟩⟩⟩
  case placed =>
    have tables := s.enterPlan_tables s.sel.t l p
    exact ⟨_, exec_launchPlacement_places hl ha hn hr hp hf, tables.wcomp, fun c hc => s.enterPlan_comp s.sel.t l p hc,
      s.placeLaunch_launches s.sel.t l p, tables.rows, tables.mem⟩
  case allotted =>
    obtain ⟨cells, distinct, free⟩ := State.allotCells_allots h
    exact ⟨cells, distinct, State.mem_freeIds (free _ hd)⟩
  case started =>
    obtain ⟨x, starts⟩ := exec_launchRowStart_starts ha hc hv hl hk h
    let u := s.setTen s.sel.t x
    let cap := (s.col s.sel.site.toNat).bcap
    obtain ⟨written, ready⟩ := u.startCells_started s.sel.t l cap (State.allotCells_allots h).distinct hd
    have entry := (congrArg (fun r : Row => { r with g := Row.reset.g }) written).trans (launchRow_entry l c n cap)
    refine ⟨_, starts, ready, ?_⟩
    exact ⟨congrArg Row.pc entry, congrArg Row.launch entry, congrArg Row.rowid entry, congrArg Row.priv entry,
      congrArg Row.predid entry, congrArg Row.bud entry, congrArg Row.lx entry, congrArg Row.ly entry, congrArg Row.gridw entry,
      congrArg Row.gridh entry, congrArg Row.base0 entry, congrArg Row.base1 entry, congrArg Row.ext0 entry,
      congrArg Row.ext1 entry, fun j hj => u.startCells_other s.sel.t l cap hj⟩

end Sys2Proof.Machine
end

section
/-! SUPPORT. The lanes and the flags of a packed result (R65, R72, R77), and what a scalar floating word sets (R80, R359, R360). -/

namespace Sys2Proof

/-! ## Flags ORed together (R65, R77) -/

theorem Flags.toBits_or (a b : Flags) : (a.or b).toBits = a.toBits ||| b.toBits := by
  unfold toBits
  rw [BitVec.or_append]
  simp only [BitVec.or_append, BitVec.ofBool_or_ofBool, Flags.or]

theorem Flags.toBits_foldl_or (l : List Flags) (a : Flags) (b : Nat) :
    (l.foldl or a).toBits.getLsbD b = (a.toBits.getLsbD b || l.any (fun x => x.toBits.getLsbD b)) := by
  induction l generalizing a with
  | nil => simp
  | cons x l ih => rw [List.foldl_cons, ih, toBits_or, BitVec.getLsbD_or, List.any_cons, Bool.or_assoc]

/-- A flag of the OR of a list stands where some result of the list raises it. -/
theorem Flags.toBits_orAll (l : List Flags) (b : Nat) :
    (orAll l).toBits.getLsbD b = l.any (fun x => x.toBits.getLsbD b) := by
  have zero : Flags.none.toBits = 0 := by decide
  rw [orAll, toBits_foldl_or, zero, BitVec.ofNat_eq_ofNat, BitVec.getLsbD_zero, Bool.false_or]

end Sys2Proof

namespace Sys2Proof.Machine

/-! ## Packed lanes (R72) -/

/-- The low `w` bits of each result, the first lowest, as one number: what `packLanes` packs. -/
def packNat (w : Nat) (l : List Nat) : Nat := l.foldr (fun v acc => v % 2 ^ w + 2 ^ w * acc) 0

theorem packNat_cons (w v : Nat) (l : List Nat) : packNat w (v :: l) = v % 2 ^ w + 2 ^ w * packNat w l := rfl

theorem packLanes_eq_ofNat (w : Nat) (l : List Nat) : packLanes w l = BitVec.ofNat 128 (packNat w l) := rfl

/-- Divided by `2 ^ w`, the number packs the lanes above the first. -/
theorem packNat_cons_div (w v : Nat) (l : List Nat) : packNat w (v :: l) / 2 ^ w = packNat w l := by
  have pos : 0 < 2 ^ w := Nat.two_pow_pos w
  rw [packNat_cons, Nat.add_mul_div_left _ _ pos, Nat.div_eq_of_lt (Nat.mod_lt v pos), Nat.zero_add]

theorem packNat_lt (w : Nat) (l : List Nat) : packNat w l < 2 ^ (w * l.length) := by
  induction l with
  | nil => exact Nat.two_pow_pos _
  | cons v l ih =>
    rw [← packNat_cons_div w v l] at ih
    rw [List.length_cons, Nat.mul_succ, Nat.pow_add]
    exact (Nat.div_lt_iff_lt_mul (Nat.two_pow_pos w)).mp ih

theorem packNat_lane (w : Nat) {l : List Nat} {i : Nat} (hi : i < l.length) :
    packNat w l / 2 ^ (w * i) % 2 ^ w = l[i] % 2 ^ w := by
  induction l generalizing i with
  | nil => cases hi
  | cons v l ih =>
    cases i with
    | zero => rw [Nat.mul_zero, Nat.pow_zero, Nat.div_one, packNat_cons, Nat.add_mul_mod_self_left, Nat.mod_mod,
        List.getElem_cons_zero]
    | succ i =>
      rw [Nat.mul_succ, Nat.add_comm, Nat.pow_add, ← Nat.div_div_eq_div_mul, packNat_cons_div, List.getElem_cons_succ]
      exact ih (Nat.lt_of_succ_lt_succ hi)

section PackLanes

variable {w : Nat} {l : List Nat} (fits : w * l.length ≤ 128)
include fits

theorem packLanes_toNat : (packLanes w l).toNat = packNat w l := by
  have bound : packNat w l < 2 ^ 128 := Nat.lt_of_lt_of_le (packNat_lt w l) (Nat.pow_le_pow_right Nat.two_pos fits)
  rw [packLanes_eq_ofNat, BitVec.toNat_ofNat, Nat.mod_eq_of_lt bound]

/-- A lane of packed values that fit in 128 bits holds the low bits of its own value. -/
theorem vlane_packLanes {i : Nat} (hi : i < l.length) : vlane (packLanes w l) w i = l[i] % 2 ^ w := by
  rw [vlane, packLanes_toNat fits, packNat_lane w hi]

/-- The bits above the packed lanes are 0. -/
theorem packLanes_above {j : Nat} (hj : w * l.length ≤ j) : (packLanes w l).getLsbD j = false := by
  have bound : packNat w l < 2 ^ j := Nat.lt_of_lt_of_le (packNat_lt w l) (Nat.pow_le_pow_right Nat.two_pos hj)
  rw [BitVec.getLsbD, packLanes_toNat fits, Nat.testBit_lt_two_pow bound]

end PackLanes

/-- Settles O32: the packed number divided by `2 ^ w` is that of the lanes above the first. -/
theorem laneResults : Obligations.LaneResults := by
  unfold Obligations.LaneResults
  intro w n f fits
  have fits : w * (((List.range n).map f).map (·.1)).length ≤ 128 := by simpa using fits
  refine ⟨fun i hi => ?lanes, fun j hj => ?above, fun b => ?flags⟩
  case lanes =>
    have lane := vlane_packLanes fits (i := i) (by simpa using hi)
    simpa [lanewise] using lane
  case above => exact packLanes_above fits (by simpa using hj)
  case flags =>
    rw [lanewise, Flags.toBits_orAll, List.any_map, List.any_map]
    rfl

/-! ## Scalar floating words (R80, R359, R360) -/

theorem scalarFmt_eq (w : BitVec 1) : scalarFmt w = if w = 1 then .f32 else .f64 := by simp [scalarFmt]

section Scalar

variable (d a b : BitVec 6) (w : BitVec 1) (q p : BitVec 3) (s : State)

theorem exec_fadd : exec (.fadd d a b w p) s =
    fscalar (fun fm c a b _ => fAdd fm c (fm.read a) (fm.read b)) d a b w p s := rfl
theorem exec_fsub : exec (.fsub d a b w p) s =
    fscalar (fun fm c a b _ => fSub fm c (fm.read a) (fm.read b)) d a b w p s := rfl
theorem exec_fmul : exec (.fmul d a b w p) s =
    fscalar (fun fm c a b _ => fMul fm c (fm.read a) (fm.read b)) d a b w p s := rfl
theorem exec_ffma : exec (.ffma d a b w p) s =
    fscalar (fun fm c a b d => fusedSum fm c [fm.read d] [(fm.read a, fm.read b)]) d a b w p s := rfl
theorem exec_fdiv : exec (.fdiv d a b w p) s =
    fscalar (fun fm c a b _ => fDiv fm c (fm.read a) (fm.read b)) d a b w p s := rfl
theorem exec_fsqrt : exec (.fsqrt d a w p) s = fscalar (fun fm c a _ _ => fSqrt fm c (fm.read a)) d a 0 w p s := rfl
theorem exec_fmin : exec (.fmin d a b w p) s = fscalar (fun fm _ a b _ => fMinMax fm false false a b) d a b w p s := rfl
theorem exec_fmax : exec (.fmax d a b w p) s = fscalar (fun fm _ a b _ => fMinMax fm true false a b) d a b w p s := rfl
theorem exec_fcmpeq : exec (.fcmpeq q a b w p) s = fcmp .eq q a b w p s := rfl
theorem exec_fcmplt : exec (.fcmplt q a b w p) s = fcmp .lt q a b w p s := rfl
theorem exec_fcmple : exec (.fcmple q a b w p) s = fcmp .le q a b w p s := rfl
theorem exec_fcvt (x y : BitVec 3) : exec (.fcvt d a x y p) s = execFcvt d a x y p s := rfl

variable {d a b w q p s} (h : Executes s p) {i : Instr}
include h

/-- An F-R word sets its destination to the encoding of its result and ORs its flags into EXC (R359). -/
theorem sets_fscalar {f : FFmt → RoundCtl → Nat → Nat → Nat → Nat × Flags} {z : Nat × Flags}
    (runs : exec i s = fscalar f d a b w p s)
    (result : f (scalarFmt w) s.sctl (s.me.rg a).toNat (s.me.rg b).toNat (s.me.rg d).toNat = z) :
    Sets s i ((s.me.wg d (BitVec.ofNat 64 z.1)).raise z.2.toBits) := by
  subst result
  exact sets_finish (runs.trans (word_executes h _)) (by simp)

/-- An F-CMP word sets its predicate to whether its condition holds and ORs its flags into EXC (R360). -/
theorem sets_fcmp {c : CmpCond} (runs : exec i s = fcmp c q a b w p s) {z : Bool × Flags}
    (result : fCompare c ((scalarFmt w).read (s.me.rg a).toNat) ((scalarFmt w).read (s.me.rg b).toNat) = z) :
    Sets s i ((s.me.wp q z.1).raise z.2.toBits) := by
  subst result
  exact sets_finish (runs.trans (word_executes h _)) (by simp)

theorem sets_fcvt {x y : BitVec 3} {z : DWord × Flags} (result : fcvt x y s.mode (s.me.rg a) = z) :
    Sets s (.fcvt d a x y p) ((s.me.wg d z.1).raise z.2.toBits) := by
  subst result
  exact sets_finish ((exec_fcvt ..).trans (word_executes h _)) (by simp)

end Scalar

/-- Settles O37, word by word from what an F-R, an F-CMP and a conversion word set. -/
theorem scalarFloatResults : Obligations.ScalarFloatResults := by
  unfold Obligations.ScalarFloatResults
  intro d a b w x y q p s h
  simp only [← scalarFmt_eq]
  exact ⟨sets_fscalar h (exec_fadd ..) rfl, sets_fscalar h (exec_fsub ..) rfl, sets_fscalar h (exec_fmul ..) rfl,
    sets_fscalar h (exec_ffma ..) rfl, sets_fscalar h (exec_fdiv ..) rfl, sets_fscalar h (exec_fsqrt ..) rfl,
    sets_fscalar h (exec_fmin ..) rfl, sets_fscalar h (exec_fmax ..) rfl, sets_fcmp h (exec_fcmpeq ..) rfl,
    sets_fcmp h (exec_fcmplt ..) rfl, sets_fcmp h (exec_fcmple ..) rfl, sets_fcvt h rfl⟩

end Sys2Proof.Machine
end

section
/-! SUPPORT. The stages of a request in a span's walker (R198, R199): what the grant of a lock and the writes of the walker leave of the
walkers' queues. -/

namespace Sys2Proof.Machine

/-! ## The writes of a walker (R197, R199) -/

/-- From s to t no row's record, no tenant's record and no request of a walker has changed. -/
structure KeepsWalkers (s t : State) : Prop where
  rows : t.rows = s.rows
  tens : t.tens = s.tens
  wq : ∀ i, (t.span i).wq = (s.span i).wq
  wcur : ∀ i, (t.span i).wcur = (s.span i).wcur

namespace KeepsWalkers

variable {s t u : State}

theorem refl (s : State) : KeepsWalkers s s := ⟨rfl, rfl, fun _ => rfl, fun _ => rfl⟩

theorem trans (a : KeepsWalkers s t) (b : KeepsWalkers t u) : KeepsWalkers s u :=
  ⟨b.rows.trans a.rows, b.tens.trans a.tens, fun i => (b.wq i).trans (a.wq i), fun i => (b.wcur i).trans (a.wcur i)⟩

theorem of_moves (a : CacheMoves s t) : KeepsWalkers s t :=
  ⟨a.rows, a.tens, fun i => (congrArg Span.wq (a.span i) :), fun i => (congrArg Span.wcur (a.span i) :)⟩

theorem foldl {α : Type} {f : State → α → State} (h : ∀ s x, KeepsWalkers s (f s x)) (l : List α) (s : State) :
    KeepsWalkers s (l.foldl f s) :=
  List.foldlRecOn l f (.refl s) (fun _ kept x _ => kept.trans (h _ x))

end KeepsWalkers

/-- The words of a record leave for their row. -/
theorem State.recordOut_keepsWalkers (s : State) (f : Nat) (sup : Bool) (k : RowKey) (rcb : Bool) (off : Nat) (data : List Byte)
    (vec : Option (Vector (BitVec 32) 12)) : KeepsWalkers s (s.recordOut f sup k rcb off data vec) := by
  refine KeepsWalkers.foldl (fun u j => ?_) _ s
  exact (KeepsWalkers.of_moves (u.depart_moves f (fieldOfSite (u.dir k).site.toNat) false)).trans ⟨rfl, rfl, fun _ => rfl, fun _ => rfl⟩

/-- A walker's writes change DRAM and host memory, and send words to rows. -/
theorem State.treeWrite_keepsWalkers (s : State) (f : Nat) (sup : Bool) (l : List ((Loc × Keep) × List Byte)) :
    KeepsWalkers s (s.treeWrite f sup l) := by
  refine KeepsWalkers.foldl (fun u w => ?_) l s
  obtain ⟨⟨a, keep⟩, bs⟩ := w
  cases a with
  | dram pa =>
    exact .of_moves ((u.recall_moves _ none).trans ((State.homeWrite_moves _ pa bs true).trans
      ((State.keepLine_moves _ pa keep).trans (State.depart_moves _ f (homeField pa) true))))
  | host h => exact ⟨rfl, rfl, fun _ => rfl, fun _ => rfl⟩
  | rcb k o => exact u.recordOut_keepsWalkers f sup k true o bs none
  | rowSpace k o => exact u.recordOut_keepsWalkers f sup k false o bs none
  | _ => exact .refl u

theorem State.treeRelease_keepsWalkers (s : State) (f : Nat) (sup : Bool) (a : Loc × Keep) (bs : List Byte)
    (v : Vector (BitVec 32) 12) : KeepsWalkers s (s.treeRelease f sup a bs v) := by
  unfold State.treeRelease
  split
  · exact (s.treeWrite_keepsWalkers f sup _).trans (.of_moves (State.carry_moves _ _ _ v))
  · exact s.recordOut_keepsWalkers f sup _ true _ bs (some v)
  · exact s.recordOut_keepsWalkers f sup _ false _ bs (some v)
  · exact s.treeWrite_keepsWalkers f sup _

/-! ## The request is taken (R198) -/

theorem exec_walkerRequestStart (s : State) : exec .walkerRequestStart s = execWalkerRequestStart s := rfl

/-- Taking a request asks for its lock, and may have written WWAIT before. -/
theorem exec_walkerRequestStart_takes {s : State} {q : WReq} {l : List WReq} (hc : (s.span s.sel.span.toNat).wcur = none)
    (hq : (s.span s.sel.span.toNat).wq = q :: l) (hv : covers (s.field (s.sel.span.toNat / 8)).fav q.vec = true) :
    ∃ u, CacheMoves (s.setSpan s.sel.span.toNat { s.span s.sel.span.toNat with wq := l, wcur := some { q with asked := s.time } }) u ∧
      exec .walkerRequestStart s = .next { u with locks := u.locks ++ [⟨u.sel.span, q.pa, q.op != .kwalk⟩] } := by
  simp only [exec_walkerRequestStart, execWalkerRequestStart, hc, hq, hv, Bool.not_true, Bool.false_eq_true, if_false]
  refine ⟨_, ?_, rfl⟩
  split
  · exact State.setTlock_moves _ _ _
  · exact .refl _

theorem walkerRequestStart_takes {s : State} {q : WReq} {l : List WReq} (hc : (s.span s.sel.span.toNat).wcur = none)
    (hq : (s.span s.sel.span.toNat).wq = q :: l) (hv : covers (s.field (s.sel.span.toNat / 8)).fav q.vec = true) :
    Makes s .walkerRequestStart (fun t => (t.span s.sel.span.toNat).wq = l ∧
      (t.span s.sel.span.toNat).wcur = some { q with asked := s.time } ∧ t.rows = s.rows ∧
      t.locks = s.locks ++ [⟨s.sel.span, q.pa, q.op != .kwalk⟩]) := by
  obtain ⟨u, moves, runs⟩ := exec_walkerRequestStart_takes hc hq hv
  have kept := KeepsWalkers.of_moves moves
  have locks : u.locks = s.locks := (congrArg State.locks moves.rest :)
  have sel : u.sel = s.sel := (congrArg State.sel moves.rest :)
  refine ⟨_, runs, (kept.wq _).trans ?_, (kept.wcur _).trans ?_, kept.rows, ?_⟩
  · rw [State.span_setSpan_same]
  · rw [State.span_setSpan_same]
  · rw [locks, sel]

theorem walkerRequestStart_idle {s : State} (h : (s.span s.sel.span.toNat).wcur ≠ none ∨ (s.span s.sel.span.toNat).wq = [] ∨
    ∃ q l, (s.span s.sel.span.toNat).wq = q :: l ∧ covers (s.field (s.sel.span.toNat / 8)).fav q.vec = false) :
    Idles s .walkerRequestStart := by
  rw [Idles, exec_walkerRequestStart, execWalkerRequestStart]
  dsimp only
  split
  · rename_i q l hc hq
    obtain h | h | ⟨q', l', h, hv⟩ := h
    · exact absurd hc h
    · exact absurd (hq.symm.trans h) (List.cons_ne_nil q l)
    · obtain ⟨rfl, -⟩ := List.cons.inj (hq.symm.trans h)
      simp [hv]
  · rfl

/-! ## The lock is granted (R198) -/

/-- z is request q but for the lock that it may hold and the vector that it has followed. -/
def WReq.SameTask (q z : WReq) : Prop := { z with granted := q.granted, vec := q.vec } = q

theorem WReq.SameTask.refl (q : WReq) : q.SameTask q := rfl

theorem WReq.SameTask.grant {q z : WReq} (h : q.SameTask z) (v : Vector (BitVec 32) 12) :
    q.SameTask { z with granted := true, vec := v } := h

/-- The walker of span j serves request q, perhaps granted its lock. -/
def State.Serves (s : State) (j : Nat) (q : WReq) : Prop := ∃ z, (s.span j).wcur = some z ∧ q.SameTask z

/-- The walker of span j serves request q, which holds its lock. -/
def State.ServesGranted (s : State) (j : Nat) (q : WReq) : Prop :=
  ∃ z, (s.span j).wcur = some z ∧ q.SameTask z ∧ z.granted = true

@[simp] theorem State.modStat_span (s : State) (t : BitVec 4) (i : Nat) (f : WStats → WStats) (j : Nat) :
    (s.modStat t i f).span j = s.span j := rfl

/-- A grant changes the walker's request and its tenant's statistics only. -/
theorem State.lockGranted_only (s : State) (i pa : Nat) :
    { s.lockGranted i pa with tens := s.tens, spans := s.spans } = s := by
  unfold State.lockGranted
  dsimp only
  split <;> rfl

theorem State.lockGranted_other (s : State) {i j : Nat} (pa : Nat) (h : j ≠ i) : (s.lockGranted i pa).span j = s.span j := by
  unfold State.lockGranted
  dsimp only
  split
  · rfl
  · rw [State.span_setSpan_other _ _ h, State.modStat_span]

/-- The request that is served holds its lock from now on. -/
theorem State.lockGranted_grants {s : State} {i : Nat} {q : WReq} (pa : Nat) (h : s.Serves i q) :
    (s.lockGranted i pa).ServesGranted i q := by
  obtain ⟨z, hz, same⟩ := h
  simp only [State.ServesGranted, State.lockGranted, hz, State.span_setSpan_same]
  exact ⟨_, rfl, same.grant _, rfl⟩

theorem State.ServesGranted.serves {s : State} {j : Nat} {q : WReq} (h : s.ServesGranted j q) : s.Serves j q :=
  let ⟨z, hz, same, _⟩ := h
  ⟨z, hz, same⟩

theorem State.lockGranted_serves {s : State} {j : Nat} {q : WReq} (i pa : Nat) (h : s.Serves j q) :
    (s.lockGranted i pa).Serves j q := by
  by_cases e : j = i
  · subst e
    exact (State.lockGranted_grants pa h).serves
  · rwa [State.Serves, s.lockGranted_other pa e]

theorem State.lockGranted_servesGranted {s : State} {j : Nat} {q : WReq} (i pa : Nat) (h : s.ServesGranted j q) :
    (s.lockGranted i pa).ServesGranted j q := by
  by_cases e : j = i
  · subst e
    exact State.lockGranted_grants pa h.serves
  · rwa [State.ServesGranted, s.lockGranted_other pa e]

/-- A run of waiting requests granted, one after the other. -/
def State.grantRun (s : State) (run : List LockReq) : State := run.foldl (fun s y => s.lockGranted y.span.toNat y.pa) s

theorem State.grantRun_only (s : State) (run : List LockReq) :
    { s.grantRun run with tens := s.tens, spans := s.spans } = s := by
  refine List.foldlRecOn run _ (motive := fun u : State => { u with tens := s.tens, spans := s.spans } = s) rfl (fun u h y _ => ?_)
  rw [← u.lockGranted_only y.span.toNat y.pa] at h
  exact h

/-- Every walker whose request is in the run holds its lock when the run has been granted. -/
theorem State.grantRun_grants {s : State} {run : List LockReq} {y : LockReq} (hy : y ∈ run) {q : WReq}
    (h : s.Serves y.span.toNat q) : (s.grantRun run).ServesGranted y.span.toNat q := by
  unfold State.grantRun
  refine foldl_reaches (P := fun u : State => u.Serves y.span.toNat q) (Q := fun u : State => u.ServesGranted y.span.toNat q)
    (fun u x _ _ serves => ?_) (fun u serves => ?_) (fun u x _ granted => ?_) hy h
  · exact State.lockGranted_serves _ x.pa serves
  · exact State.lockGranted_grants y.pa serves
  · exact State.lockGranted_servesGranted _ x.pa granted

/-- The waiting requests that a grant at the queue of request r serves together: the walks at its front, or its first request (R198). -/
def State.lockRun (s : State) (r : LockReq) : List LockReq :=
  let mine := s.locks.filter (fun y => y.pa == r.pa)
  let front := mine.takeWhile (fun y => !y.exclusive)
  if front = [] then mine.take 1 else front

/-- Is the grant at the queue of request r an exclusive one: is no walk at its front? -/
def State.lockAlone (s : State) (r : LockReq) : Bool :=
  decide ((s.locks.filter (fun y => y.pa == r.pa)).takeWhile (fun y => !y.exclusive) = [])

theorem exec_tlockGrant (s : State) : exec .tlockGrant s = execTlockGrant s := rfl

theorem tlockGrant_none {s : State} (h : s.locks[s.sel.k]? = none) : Idles s .tlockGrant := by
  simp only [Idles, exec_tlockGrant, execTlockGrant, h]

theorem tlockGrant_waits {s : State} {r : LockReq} (h : s.locks[s.sel.k]? = some r)
    (hf : lockFree (s.tlock r.pa) (s.lockAlone r) = false) : Idles s .tlockGrant := by
  simp only [State.lockAlone, ← List.isEmpty_iff, Bool.decide_eq_true] at hf
  simp only [Idles, exec_tlockGrant, execTlockGrant, h, hf, Bool.not_false, if_true]

theorem exec_tlockGrant_grants {s : State} {r : LockReq} (h : s.locks[s.sel.k]? = some r)
    (hf : lockFree (s.tlock r.pa) (s.lockAlone r) = true) :
    ∃ u, CacheMoves { s with locks := s.locks.filter (fun y => !(s.lockRun r).contains y) } u ∧
      exec .tlockGrant s = .next (u.grantRun (s.lockRun r)) := by
  simp only [State.lockAlone, ← List.isEmpty_iff, Bool.decide_eq_true] at hf
  simp only [exec_tlockGrant, execTlockGrant, h, hf, Bool.not_true, Bool.false_eq_true, if_false, State.lockRun,
    ← List.isEmpty_iff]
  exact ⟨_, State.setTlock_moves _ _ _, rfl⟩

theorem tlockGrant_grants {s : State} {r : LockReq} (h : s.locks[s.sel.k]? = some r)
    (hf : lockFree (s.tlock r.pa) (s.lockAlone r) = true) :
    Makes s .tlockGrant (fun t => t.rows = s.rows ∧ t.locks = s.locks.filter (fun y => !(s.lockRun r).contains y) ∧
      ∀ y ∈ s.lockRun r, ∀ q, (s.span y.span.toNat).wcur = some q → t.ServesGranted y.span.toNat q) := by
  obtain ⟨u, moves, runs⟩ := exec_tlockGrant_grants h hf
  have kept := KeepsWalkers.of_moves moves
  have only := u.grantRun_only (s.lockRun r)
  have rows : (u.grantRun (s.lockRun r)).rows = u.rows := (congrArg State.rows only :)
  have locks : (u.grantRun (s.lockRun r)).locks = u.locks := (congrArg State.locks only :)
  refine ⟨_, runs, rows.trans kept.rows, locks.trans (congrArg State.locks moves.rest :), ?_⟩
  intro y hy q hq
  exact State.grantRun_grants hy ⟨q, (kept.wcur _).trans hq, .refl q⟩

/-! ## The request is served (R193-R199) -/

theorem exec_walkerRequestComplete (s : State) : exec .walkerRequestComplete s = execWalkerRequestComplete s := rfl

theorem walkerRequestComplete_none {s : State} (h : (s.span s.sel.span.toNat).wcur = none) : Idles s .walkerRequestComplete := by
  simp only [Idles, exec_walkerRequestComplete, execWalkerRequestComplete, h]

/-- A request that is served keeps its place in the walker, with its STATUS still to come. -/
theorem State.serveAll_finishes (s : State) (i : Nat) (q : WReq) :
    ∃ (u : State) (f : WFin), s.serveAll i q = u.setSpan i { u.span i with wcur := some { q with fin := some f } } ∧ u.rows = s.rows ∧
      (u.span i).wq = (s.span i).wq ∧ f.word = (s.serve q).1.word := by
  have tree := s.treeWrite_keepsWalkers (i / 8) q.sup (s.serve q).1.tree
  unfold State.serveAll
  dsimp only
  split
  · exact ⟨_, _, rfl, tree.rows, tree.wq i, rfl⟩
  · exact ⟨_, _, rfl, tree.rows, tree.wq i, rfl⟩
  · rename_i ws _
    have record := State.treeWrite_keepsWalkers (((s.treeWrite (i / 8) q.sup (s.serve q).1.tree).modStat q.row.t i (s.serve q).2))
      (i / 8) q.sup ws
    exact ⟨_, _, rfl, record.rows.trans tree.rows, (record.wq i).trans (tree.wq i), rfl⟩

/-- Is the vector of the release known at the field of the descriptor's home, and at that of the record's last write (R199, R225)? -/
def State.releasesKnown (s : State) (i : Nat) (q : WReq) (f : WFin) : Bool :=
  (homeField q.pa :: f.pa.toList.flatMap (fun y => s.recordField y.1)).all
    (fun g => covers (s.field g).fav (s.unitVec (i / 8) q.vec))

section Complete

variable {s : State} {q : WReq} (hc : (s.span s.sel.span.toNat).wcur = some q)
include hc

theorem walkerRequestComplete_waits (h : q.granted = false ∨ s.departRoom (s.sel.span.toNat / 8) = false) :
    Idles s .walkerRequestComplete := by
  have barred : (!q.granted || !s.departRoom (s.sel.span.toNat / 8)) = true := by
    obtain h | h := h <;> simp [h]
  simp only [Idles, exec_walkerRequestComplete, execWalkerRequestComplete, hc, barred, if_true]

variable (hg : q.granted = true) (hr : s.departRoom (s.sel.span.toNat / 8) = true)
include hg hr

theorem walkerRequestComplete_serves (hf : q.fin = none) :
    Makes s .walkerRequestComplete (fun t => t.rows = s.rows ∧ (t.span s.sel.span.toNat).wq = (s.span s.sel.span.toNat).wq ∧
      ∃ f, (t.span s.sel.span.toNat).wcur = some { q with fin := some f } ∧ f.word = (s.serve q).1.word) := by
  have runs : exec .walkerRequestComplete s = .next (s.serveAll s.sel.span.toNat q) := by
    simp only [exec_walkerRequestComplete, execWalkerRequestComplete, hc, hg, hr, hf, Bool.not_true, Bool.or_self,
      Bool.false_eq_true, if_false]
  obtain ⟨u, f, served, rows, wq, word⟩ := s.serveAll_finishes s.sel.span.toNat q
  have mine := State.span_setSpan_same u s.sel.span.toNat
  rw [served] at runs
  exact ⟨_, runs, rows, (congrArg Span.wq (mine _)).trans wq, f, congrArg Span.wcur (mine _), word⟩

variable {f : WFin} (hf : q.fin = some f)
include hf

/-- The last write of a request, which waits while its release may not become visible or a word of a record is on its way. -/
theorem exec_walkerRequestComplete_last :
    ∃ t, (∃ u : State, CacheMoves s u ∧
        KeepsWalkers (u.setSpan s.sel.span.toNat { u.span s.sel.span.toNat with wcur := none }) t) ∧
      exec .walkerRequestComplete s =
        if (s.recordSent q.row.t || !s.releasesKnown s.sel.span.toNat q f) = true then .next s else .next t := by
  have moves (w : BitVec 32) (v : Vector (BitVec 32) 12) : CacheMoves s
      { s.setTlock q.pa w with relvec := NMap.set (s.setTlock q.pa w).relvec ((q.pa + 0x40) / 4) v } :=
    (s.setTlock_moves q.pa w).trans (.of_mem _ _ _ _ _ id)
  rw [exec_walkerRequestComplete, execWalkerRequestComplete, State.releasesKnown]
  obtain ⟨pa, word⟩ := f
  cases pa with
  | none =>
    simp only [hc, hg, hr, hf, Bool.not_true, Bool.or_self, Bool.false_eq_true, if_false, Option.toList_none, List.flatMap_nil]
    exact ⟨_, ⟨_, moves _ _, .refl _⟩, rfl⟩
  | some a =>
    simp only [hc, hg, hr, hf, Bool.not_true, Bool.or_self, Bool.false_eq_true, if_false, Option.toList_some, List.flatMap_singleton]
    exact ⟨_, ⟨_, moves _ _, State.treeRelease_keepsWalkers _ _ _ _ _ _⟩, rfl⟩

theorem walkerRequestComplete_holds
    (h : s.releasesKnown s.sel.span.toNat q f = false ∨ s.recordSent q.row.t = true) : Idles s .walkerRequestComplete := by
  obtain ⟨t, -, runs⟩ := exec_walkerRequestComplete_last hc hg hr hf
  refine runs.trans (if_pos ?_)
  obtain h | h := h <;> simp [h]

theorem walkerRequestComplete_releases (hk : s.releasesKnown s.sel.span.toNat q f = true) (hs : s.recordSent q.row.t = false) :
    Makes s .walkerRequestComplete (fun t => (t.span s.sel.span.toNat).wcur = none ∧
      (t.span s.sel.span.toNat).wq = (s.span s.sel.span.toNat).wq ∧ t.rows = s.rows ∧ t.tens = s.tens) := by
  obtain ⟨t, ⟨u, moves, kept⟩, runs⟩ := exec_walkerRequestComplete_last hc hg hr hf
  have before := KeepsWalkers.of_moves moves
  refine ⟨t, runs.trans (if_neg (by simp [hk, hs])), (kept.wcur _).trans ?_, (kept.wq _).trans ?_, kept.rows.trans before.rows,
    kept.tens.trans before.tens⟩
  · rw [State.span_setSpan_same]
  · rw [State.span_setSpan_same]
    exact before.wq _

end Complete

/-- A grant leaves of a request all but its lock and its vector. -/
theorem State.ServesGranted.fields {s : State} {j : Nat} {q : WReq} (h : s.ServesGranted j q) :
    ∃ z, (s.span j).wcur = some z ∧ z.granted = true ∧ z.op = q.op ∧ z.row = q.row ∧ z.pa = q.pa ∧ z.fin = q.fin :=
  let ⟨z, hz, same, granted⟩ := h
  ⟨z, hz, granted, (congrArg WReq.op same :), (congrArg WReq.row same :), (congrArg WReq.pa same :), (congrArg WReq.fin same :)⟩

/-! ## The stages -/

/-- Settles O60, stage by stage: the request is taken, its lock is granted, it is served, and its lock is released. -/
theorem walkerStages : Obligations.WalkerStages := by
  unfold Obligations.WalkerStages
  intro s
  refine ⟨fun q l => walkerRequestStart_takes, walkerRequestStart_idle, fun r hr => ⟨tlockGrant_waits hr, fun hf => ?granted⟩,
    tlockGrant_none, walkerRequestComplete_none, fun q hc => ⟨walkerRequestComplete_waits hc, walkerRequestComplete_serves hc,
      fun f hg hr hf => ⟨walkerRequestComplete_releases hc hg hr hf, walkerRequestComplete_holds hc hg hr hf⟩⟩⟩
  obtain ⟨t, runs, rows, locks, serve⟩ := tlockGrant_grants hr hf
  exact ⟨t, runs, rows, locks, fun y hy q hq => (serve y hy q hq).fields⟩

end Sys2Proof.Machine
end

section
/-! SUPPORT. The returning atomics and the queued reductions of the issuing row, from their checks on (R210, R302, R311-R314). -/

namespace Sys2Proof.Machine

theorem widthSize_eq (w : BitVec 1) : widthSize w = if w = 1 then 4 else 8 := by
  simp only [widthSize, beq_iff_eq]

/-- What goes before a release at a scope is what a state released has written back (R223). -/
theorem State.scopeFar_eq_released (s : State) (rel : Bool) (scope : Nat) :
    (if rel = true then s.scopeFar scope else s) = released s rel scope := by
  cases rel <;> simp [State.scopeFar, released]

/-! ## Returning atomics (R311, R312) -/

/-- A returning atomic that may be performed at once is performed. -/
theorem State.atomic_free {s s1 : State} {d a : BitVec 6} {o : BitVec 2} {size pa : Nat} {attr : Attr}
    (h : AtomFree s s1 ((s.me).rg a) size o pa attr) (op : AOp) (f32 : Bool) (new : DWord) :
    s.atomic op size f32 d a o new = atomDone s s1 op size f32 d o new pa attr := by
  obtain ⟨access, early, busy, acquires, sound, owes, releases⟩ := h
  have free : (bit o 0 && s1.releasing s1.cur) = false := by
    cases e : bit o 0
    · rfl
    · exact acquires e
  have visible : (bit o 1 && !(released s1 (bit o 1) (s.scope 3)).mayRelease (homeSpan pa / 8)
      (if bit o 1 = true then (released s1 (bit o 1) (s.scope 3)).scopeVec (s.scope 3) else none)) = false := by
    cases e : bit o 1
    · rfl
    · simpa [e] using releases e
  simp only [State.atomic, access, Res.bind, early, busy, free, Bool.or_self, Bool.false_eq_true, if_false, State.ends_ok, sound,
    owes, State.scopeFar_eq_released, visible, atomDone]

/-- A word of an atomic that may be performed at once. -/
theorem word_atomic {s s1 : State} {d a : BitVec 6} {o : BitVec 2} {p : BitVec 3} {size pa : Nat} {attr : Attr} (he : Executes s p)
    (free : AtomFree s s1 ((s.me).rg a) size o pa attr) (op : AOp) (f32 : Bool) (new : State → DWord) :
    word s p (fun u => u.atomic op size f32 d a o (new u)) = .next (atomDone s s1 op size f32 d o (new s) pa attr) := by
  rw [word_executes he, State.atomic_free free]

theorem exec_acas (d a : BitVec 6) (o : BitVec 2) (w : BitVec 1) (p : BitVec 3) (s : State) :
    exec (.acas d a o w p) s = word s p (fun u => u.atomic .cas (widthSize w) false d a o ((u.me).rg (d + 1))) := rfl

theorem exec_afadd (d a : BitVec 6) (o : BitVec 2) (w : BitVec 1) (p : BitVec 3) (s : State) :
    exec (.afadd d a o w p) s = word s p (fun u => u.atomic .fadd (widthSize w) (w == 1) d a o 0) := rfl

/-! ## Queued reductions (R210, R302, R313, R314) -/

/-- One element of a reduction translated and checked behind those before it. -/
def checkElem (size : Nat) (before : Res (List (Loc × Attr × DWord))) (e : DWord × DWord) : Res (List (Loc × Attr × DWord)) :=
  before.bind fun ls s => (s.access s.who .atom e.1 size).bind fun x s =>
    if s.earlyMeets s.cur e.1 size || s.parkedAt s.cur x.1 size then .stall else .ok (ls ++ [(x.1, x.2, e.2)]) s

/-- Does a reduction leave before its walk ends? -/
def State.reducesEarly (s : State) (size : Nat) (scalar : Bool) (es : List (DWord × DWord)) : Bool :=
  scalar && es.all (fun e => aligned e.1.toNat size && s.leavesEarly e.1 && !s.earlyMeets s.cur e.1 size)

/-- PEND counts `n` reductions more, and the row goes on behind the group (R210). -/
def State.pendFinish (s : State) (n : Nat) : State := s.finish { s.me with pend := (s.me).pend + BitVec.ofNat 7 n }

/-- A reduction by its three ends: PEND would pass 64, it leaves early, or its elements are checked and sent. -/
theorem State.reduce_eq (s : State) (op : AOp) (size : Nat) (rel scalar : Bool) (es : List (DWord × DWord)) :
    s.reduce op size rel scalar es =
      if 64 < (s.me).pend.toNat + es.length then s.abandonGroup
      else if s.reducesEarly size scalar es then
        (es.foldl (fun u e => u.storeEarly (.reduce op rel (s.scope 3)) u.cache e.1 (toBytes size e.2)) s).pendFinish es.length
      else s.ends (es.foldl (checkElem size) (.ok [] s)) fun ls t =>
        let u := released t rel (s.scope 3)
        (ls.foldl (fun x e => x.sendRed x.cur x.here op size e.1 e.2.2 rel (if rel then u.scopeVec (s.scope 3) else none) (u.ops + 1)
          es.length (keepOf e.2.1 t.cache)) u).pendFinish es.length := by
  simp only [← State.scopeFar_eq_released]
  rfl

theorem ElemsAt.length_eq {size : Nat} {es : List (DWord × DWord)} {ls : List (Loc × Attr × DWord)} {s t : State}
    (h : ElemsAt size es ls s t) : ls.length = es.length := by
  induction es generalizing ls s with
  | nil => exact congrArg List.length h.1
  | cons e es ih =>
    obtain ⟨l, attr, u, rest, -, -, -, rfl, later⟩ := h
    simp only [List.length_cons, ih later]

/-- Elements that pass their checks are all found, in their order. -/
theorem ElemsAt.foldl_checkElem {size : Nat} {es : List (DWord × DWord)} {ls : List (Loc × Attr × DWord)} {s t : State}
    (h : ElemsAt size es ls s t) (before : List (Loc × Attr × DWord)) :
    es.foldl (checkElem size) (.ok before s) = .ok (before ++ ls) t := by
  induction es generalizing ls s before with
  | nil =>
    obtain ⟨rfl, rfl⟩ := h
    simp
  | cons e es ih =>
    obtain ⟨l, attr, u, rest, access, early, parked, rfl, later⟩ := h
    have first : checkElem size (.ok before s) e = .ok (before ++ [(l, attr, e.2)]) u := by
      simp [checkElem, Res.bind, access, early, parked]
    rw [List.foldl_cons, first, ih later, List.append_assoc, List.singleton_append]

section Reduce

variable {s : State} {size : Nat} {es : List (DWord × DWord)} (op : AOp) (rel : Bool) {scalar : Bool}

/-- PEND never passes 64 (R210). -/
theorem State.reduce_full (h : 64 < (s.me).pend.toNat + es.length) : s.reduce op size rel scalar es = s.abandonGroup := by
  rw [State.reduce_eq, if_pos h]

/-- Elements that pass their checks are all sent (R314). -/
theorem State.reduce_sends {ls : List (Loc × Attr × DWord)} {t : State} (room : (s.me).pend.toNat + es.length ≤ 64)
    (walks : s.reducesEarly size scalar es = false) (h : ElemsAt size es ls s t) :
    s.reduce op size rel scalar es = redsSent t op size rel (s.scope 3) ls := by
  rw [State.reduce_eq, if_neg (Nat.not_lt.mpr room), walks, h.foldl_checkElem, ← h.length_eq]
  rfl

/-- A scalar reduction whose translation misses may leave before its walk ends (R302). -/
theorem State.reduce_leaves {va v : DWord} (room : (s.me).pend.toNat + 1 ≤ 64) (al : aligned va.toNat size = true)
    (leaves : s.leavesEarly va = true) (meets : s.earlyMeets s.cur va size = false) :
    s.reduce op size rel true [(va, v)] =
      (s.storeEarly (.reduce op rel (s.scope 3)) s.cache va (toBytes size v)).pendFinish 1 := by
  have early : s.reducesEarly size true [(va, v)] = true := by simp [State.reducesEarly, al, leaves, meets]
  have room : (s.me).pend.toNat + [(va, v)].length ≤ 64 := room
  rw [State.reduce_eq, if_neg (Nat.not_lt.mpr room), early]
  rfl

end Reduce

/-! ## The words -/

/-- The elements of a scatter form (R300, R313). -/
def Row.scatterElems (r : Row) (n : Nat) (v : BitVec 5) (a : BitVec 6) (i : BitVec 5) : List (DWord × DWord) :=
  (List.range (16 / n)).map (fun j =>
    (r.rg a + (bits (r.rv i) (8 * n * j) (8 * n)).signExtend 64 * BitVec.ofNat 64 n, (bits (r.rv v) (8 * n * j) (8 * n)).setWidth 64))

section Words

variable {s t : State} {p : BitVec 3} {ls : List (Loc × Attr × DWord)} (he : Executes s p) (op : AOp) (n : Nat) (r : BitVec 1)
  (a : BitVec 6)
include he

/-- A reduction of one element. -/
theorem redScalar_results (g : BitVec 6) :
    (s.leavesEarly ((s.me).rg a) = false →
      ((s.me).pend.toNat + 1 ≤ 64 → ElemsAt n [((s.me).rg a, (s.me).rg g)] ls s t →
        redScalar op n r a g p s = .next (redsSent t op n (decide (r = 1)) (s.scope 3) ls)) ∧
      (64 < (s.me).pend.toNat + 1 → redScalar op n r a g p s = .next s.abandonGroup)) ∧
    ((s.me).pend.toNat + 1 ≤ 64 → aligned ((s.me).rg a).toNat n = true → s.leavesEarly ((s.me).rg a) = true →
      s.earlyMeets s.cur ((s.me).rg a) n = false →
      redScalar op n r a g p s = .next ((s.storeEarly (.reduce op (decide (r = 1)) (s.scope 3)) s.cache ((s.me).rg a)
        (toBytes n ((s.me).rg g))).pendFinish 1)) := by
  have runs : redScalar op n r a g p s = .next (s.reduce op n (decide (r = 1)) true [((s.me).rg a, (s.me).rg g)]) :=
    word_executes he _
  rw [runs]
  refine ⟨fun stays => ⟨fun room h => ?_, fun full => ?_⟩, fun room al leaves meets => ?_⟩
  · have walks : s.reducesEarly n true [((s.me).rg a, (s.me).rg g)] = false := by simp [State.reducesEarly, stays]
    rw [State.reduce_sends op _ room walks h]
  · rw [State.reduce_full op _ full]
  · rw [State.reduce_leaves op _ room al leaves meets]

/-- A reduction of the lanes of a register. -/
theorem redScatter_results (v i : BitVec 5) :
    ((s.me).pend.toNat + ((s.me).scatterElems n v a i).length ≤ 64 → ElemsAt n ((s.me).scatterElems n v a i) ls s t →
      redScatter op n v r a i p s = .next (redsSent t op n (decide (r = 1)) (s.scope 3) ls)) ∧
    (64 < (s.me).pend.toNat + ((s.me).scatterElems n v a i).length → redScatter op n v r a i p s = .next s.abandonGroup) := by
  have runs : redScatter op n v r a i p s = .next (s.reduce op n (decide (r = 1)) false ((s.me).scatterElems n v a i)) :=
    word_executes he _
  rw [runs]
  refine ⟨fun room h => ?_, fun full => ?_⟩
  · rw [State.reduce_sends op _ room rfl h]
  · rw [State.reduce_full op _ full]

end Words

/-- Settles O18: an atomic that may be performed is performed, and a reduction leaves early, is sent, or is issued again. -/
theorem atomicResults : Obligations.AtomicResults := by
  unfold Obligations.AtomicResults
  refine ⟨fun d a o w p s s1 pa attr he => ?atomics, fun a g v i r w p s t ls he => ?reductions⟩
  case atomics =>
    rw [← widthSize_eq]
    intro size free
    have whole (op : AOp) : atomW op d a o w p s = .next (atomDone s s1 op size false d o 0 pa attr) :=
      word_atomic he free op false (fun _ => 0)
    exact ⟨whole .add, whole .min, whole .max, whole .and, whole .or, whole .xor, whole .swap,
      (exec_acas d a o w p s).trans (word_atomic he free .cas false (fun u => (u.me).rg (d + 1))),
      (exec_afadd d a o w p s).trans (word_atomic he free .fadd (w == 1) (fun _ => 0))⟩
  case reductions =>
    rw [← widthSize_eq]
    have one (op : AOp) (n : Nat) := redScalar_results (t := t) (ls := ls) he op n r a g
    have many (op : AOp) (n : Nat) := redScatter_results (t := t) (ls := ls) he op n r a v i
    exact ⟨one .add _, one .min _, one .max _, one .and _, one .or _, one .xor _, one .fadd _, one .bf16add 2,
      many .add _, many .min _, many .max _, many .and _, many .or _, many .xor _, many .fadd _, many .bf16add 2⟩

end Sys2Proof.Machine
end

section
/-! SUPPORT. SPAWN, MIGR and STEPX of the issuing row (R210, R258, R330, R332, R334). -/

namespace Sys2Proof.Machine

/-! ## What leaves the issuing row as it stands -/

/-- From s to t the issuing row is the same, with the same record and the same hints behind it. -/
structure SameIssuer (s t : State) : Prop where
  cur : t.cur = s.cur
  run : t.run = s.run
  me : t.me = s.me

namespace SameIssuer

variable {s t u : State}

theorem trans (a : SameIssuer s t) (b : SameIssuer t u) : SameIssuer s u :=
  ⟨b.cur.trans a.cur, b.run.trans a.run, b.me.trans a.me⟩

theorem of_moves (h : CacheMoves s t) : SameIssuer s t := ⟨h.cur, h.run, h.me⟩

theorem setRow (s : State) {k : RowKey} (r : Row) (h : k ≠ s.cur) : SameIssuer s (s.setRow k r) :=
  ⟨rfl, rfl, State.row_setRow_other s r h.symm⟩

theorem after (h : SameIssuer s t) : t.after = s.after := by
  simp only [State.after, State.target, State.group, h.me, h.run]

end SameIssuer

/-- A row that awaits an answer goes on behind its group when it comes (R254, R255). -/
@[simp] theorem State.me_awaitAnswer (s : State) : s.awaitAnswer.me = { s.me with await := some s.after } := s.me_setMe _

theorem State.row_awaitAnswer_other (s : State) {k : RowKey} (h : k ≠ s.cur) : s.awaitAnswer.row k = s.row k :=
  s.row_setMe_other _ h

/-! ## SPAWN (R330) -/

/-- A spawn sends one message, and the row awaits its answer. -/
theorem State.sendSpawn_sends (s : State) (q : BitVec 3) (pc : BitVec 32) (target : BitVec 10) :
    ∃ m, (s.sendSpawn q pc 0 target).spawns = s.spawns ++ [m] ∧ m.pc = pc &&& ~~~3#32 ∧ m.target = target ∧ m.tenant = s.cur.t ∧
      m.lnch = (s.me).launch ∧ m.ccol = (s.me).countCol ∧ m.join = 0 ∧ m.args = [1, 2, 3, 4, 5, 6, 7, 8].map (s.me).rg ∧
      (s.sendSpawn q pc 0 target).me.await = some s.after ∧ (s.sendSpawn q pc 0 target).me.g = (s.me).g := by
  have far := s.releaseFar_moves s.here
  have same := SameIssuer.of_moves far
  have spawns : (s.releaseFar s.here).spawns = s.spawns := (congrArg State.spawns far.rest :)
  refine ⟨_, congrArg (· ++ [_]) spawns, rfl, rfl, congrArg RowKey.t same.cur, congrArg Row.launch same.me,
    congrArg Row.countCol same.me, rfl, congrArg Row.spawnArgs same.me, ?_, ?_⟩
  · rw [State.sendSpawn, State.me_awaitAnswer]
    exact congrArg some same.after
  · rw [State.sendSpawn, State.me_awaitAnswer]
    exact (congrArg Row.g same.me :)

/-- SPAWN without a join word, by the column that it names. -/
theorem exec_spawn {s : State} {p : BitVec 3} (he : Executes s p) (q : BitVec 3) (c : BitVec 6) :
    exec (.spawn q c 0 p) s = .next (
      if bit ((s.me).rg c) 48 then s.sendSpawn q (bits ((s.me).rg c) 0 32) 0 s.seat.site
      else if (s.gridOf s.cur).length ≤ (bits ((s.me).rg c) 32 16).toNat then s.finish ((s.me).wp q false)
      else s.sendSpawn q (bits ((s.me).rg c) 0 32) 0 ((s.gridOf s.cur).getD (bits ((s.me).rg c) 32 16).toNat 0)) :=
  word_executes he _

/-! ## MIGR (R258, R332) -/

/-- Nothing in flight and no job: a move need not wait. -/
theorem State.moveWaits_idle {s : State} (pend : s.me.pend = 0) (early : s.me.early = []) (jobs : s.me.jobRunning = false)
    (flight : s.inFlight s.cur = []) : s.moveWaits = false := by
  simp [State.moveWaits, pend, early, jobs, flight]

theorem State.startMove_waits {s : State} (h : s.moveWaits = true) (site : Nat) (pc : BitVec 32) :
    s.startMove site pc = s.abandonGroup := if_pos h

@[simp] theorem State.me_dropRun (s : State) : s.dropRun.me = s.me := rfl

/-- The record of a row that has begun to move: MOVING, its monitors fired, with PC where it goes on (R258). -/
def Row.movingTo (r : Row) (site : Nat) (pc : BitVec 32) : Row :=
  { r.fireAll with
    st := .moving, waiton := 0, pc := pc &&& ~~~3#32, move := some (BitVec.ofNat 10 site), stepping := r.stepping && pc == r.pc
    held := if r.stepping && pc != r.pc then r.held ++ [.stop] else r.held }

theorem State.startMove_me {s : State} (h : s.moveWaits = false) (site : Nat) (pc : BitVec 32) :
    (s.startMove site pc).me = (s.me).movingTo site pc := by
  let u := (s.releaseFar s.here).beginClose (s.releaseFar s.here).cur
  have moves : s.startMove site pc =
      ((u.setDir u.cur { u.dir u.cur with moving := true }).setMe ((s.me).movingTo site pc)).dropRun := if_neg (by simp [h])
  rw [moves, State.me_dropRun, State.me_setMe]

/-- MIGR to an address of DRAM, by the column that holds it. -/
theorem exec_migr {s s1 : State} {p : BitVec 3} {a : BitVec 6} {pa : Nat} {attr : Attr} (he : Executes s p)
    (h : s.check s.who .load ((s.me).rg a) 1 = .ok (.dram pa, attr) s1) :
    exec (.migr a p) s = .next (
      if paSlot pa = s1.here then (if s1.me.pend = 0 then s1.advance else s1.abandonGroup) else s1.startMove (paSlot pa) s1.after) := by
  have runs : exec (.migr a p) s = _ := word_executes he _
  rw [runs]
  simp only [h, State.ends_ok, dramOnly, beq_iff_eq]

/-! ## STEPX (R334) -/

/-- The result word holds PC, the state above it, and STEPPED. -/
theorem stepResult_idle (r : Row) : stepResult r false = BitVec.ofNat 64 (r.pc.toNat + 2 ^ 32 * r.st.code) := by
  have code : r.st.code < 8 := by cases r.st <;> decide
  have pc := r.pc.isLt
  apply BitVec.eq_of_toNat_eq
  rw [stepResult, BitVec.toNat_setWidth, BitVec.toNat_append, ← Nat.shiftLeft_add_eq_or_of_lt pc, BitVec.toNat_append,
    BitVec.toNat_ofNat, BitVec.toNat_ofNat, BitVec.toNat_ofBool, Bool.toNat_false, Nat.zero_shiftLeft, Nat.zero_or, Nat.shiftLeft_eq]
  omega

/-- STEP of a STOPPED row (R90). -/
theorem State.command_step_stopped {s : State} {k : RowKey} (h : (s.row k).st = .stopped) :
    s.command k .step = (s.setRow k { s.row k with stepping := true, replayDue := !(s.row k).replay.isEmpty }).makeReady k := by
  unfold State.command
  simp only [h]

/-- The STEP of another row changes nothing of the issuing one. -/
theorem State.command_step_issuer {s : State} {k : RowKey} (h : (s.row k).st = .stopped) (hk : k ≠ s.cur) :
    SameIssuer s (s.command k .step) := by
  rw [State.command_step_stopped h]
  exact (SameIssuer.setRow s _ hk).trans (.setRow _ _ hk)

section Stepx

variable {s : State} {p : BitVec 3} {d g : BitVec 6} (he : Executes s p)
include he

/-- STEPX of an id that the row directory does not hold. -/
theorem exec_stepx_unheld (h : s.held ⟨s.cur.t, bits ((s.me).rg g) 0 32⟩ = false) :
    exec (.stepx d g p) s = .next (s.raise (Flt.page 3 ((bits ((s.me).rg g) 0 32).setWidth 64) false)) := by
  have runs : exec (.stepx d g p) s = _ := word_executes he _
  rw [runs]
  simp only [h, Bool.not_false, if_true]

variable {k : RowKey} (hk : k = ⟨s.cur.t, bits ((s.me).rg g) 0 32⟩) (held : s.held k = true) (sent : s.sending = false)
  (still : s.inTransit k = false) (alone : (s.row k).stepper = none)
include hk held sent still alone

/-- STEPX of a row that is neither STOPPED nor MOVING. -/
theorem exec_stepx_answers (stopped : (s.row k).st ≠ .stopped) (moving : (s.row k).st ≠ .moving) :
    exec (.stepx d g p) s = .next (s.finish ((s.me).wg d (stepResult (s.row k) false))) := by
  have runs : exec (.stepx d g p) s = _ := word_executes he _
  rw [runs]
  simp only [← hk, held, sent, still, alone, beq_false_of_ne stopped, beq_false_of_ne moving, Bool.not_true, Option.isSome_none,
    Bool.or_self, Bool.false_eq_true, if_false]

/-- The state in which the STEP of a STEPX reaches a STOPPED row: the issuing row's release has been joined there (R233). -/
def State.joinedFor (s : State) (k : RowKey) : State :=
  let u := s.releaseFar s.here
  u.resumeAcquire k (u.releaseVec u.cur u.myField)

/-- STEPX of a STOPPED row. -/
theorem exec_stepx_steps (stopped : (s.row k).st = .stopped) :
    exec (.stepx d g p) s = .next (
      let v := (s.joinedFor k).command k .step
      (v.setRow k { v.row k with stepper := some (v.cur, d) }).awaitAnswer) := by
  have runs : exec (.stepx d g p) s = _ := word_executes he _
  rw [runs]
  simp only [← hk, held, sent, still, alone, stopped, beq_self_eq_true, Bool.not_true, Option.isSome_none, Bool.or_self,
    Bool.false_eq_true, if_false, if_true]
  rfl

end Stepx

/-- What has been joined for the STEP of another row leaves the issuing row as it stands, and the other STOPPED. -/
theorem State.joinedFor_spec {s : State} {k : RowKey} (hk : k ≠ s.cur) :
    SameIssuer s (s.joinedFor k) ∧ ((s.joinedFor k).row k).st = (s.row k).st := by
  let u := s.releaseFar s.here
  have far := s.releaseFar_moves s.here
  let vec := u.releaseVec u.cur u.myField
  have hk' : k ≠ u.cur := far.cur ▸ hk
  have drops := (u.joinDv k vec).acquireFar_moves (u.siteOf k)
  refine ⟨((SameIssuer.of_moves far).trans (.setRow u _ hk')).trans (.of_moves drops), ?_⟩
  exact (congrArg Row.st (u.resumeAcquire_acts k vec).2).trans (congrArg Row.st (far.row k) :)

/-- A STOPPED row that another steps is READY for one group, and the other row awaits the answer (R334). -/
theorem State.stepx_steps {s : State} {k : RowKey} (d : BitVec 6) (hk : k ≠ s.cur) (stopped : (s.row k).st = .stopped) :
    let v := (s.joinedFor k).command k .step
    let t := (v.setRow k { v.row k with stepper := some (v.cur, d) }).awaitAnswer
    (t.row k).st = .ready ∧ (t.row k).stepping = true ∧ (t.row k).stepper = some (s.cur, d) ∧ t.me.await = some s.after := by
  intro v t
  obtain ⟨joined, st⟩ := State.joinedFor_spec hk
  have stopped' : ((s.joinedFor k).row k).st = .stopped := st.trans stopped
  have hk' : k ≠ (s.joinedFor k).cur := joined.cur ▸ hk
  have same : SameIssuer s v := joined.trans (State.command_step_issuer stopped' hk')
  have hkv : k ≠ v.cur := same.cur ▸ hk
  have ready : (v.row k).st = .ready ∧ (v.row k).stepping = true := by
    have steps : v = _ := State.command_step_stopped stopped'
    rw [steps, (State.makeReady_only _ k).1, State.row_setRow_same]
    exact ⟨rfl, rfl⟩
  have row : t.row k = { v.row k with stepper := some (v.cur, d) } :=
    (State.row_awaitAnswer_other (v.setRow k _) hkv).trans (State.row_setRow_same v k _)
  have awaits := same.trans (SameIssuer.setRow v { v.row k with stepper := some (v.cur, d) } hkv)
  rw [row, ← same.cur, ← awaits.after]
  exact ⟨ready.1, ready.2, rfl, congrArg Row.await (State.me_awaitAnswer _)⟩

/-! ## The words -/

/-- Settles O24, word by word: by the column a spawn names, the column an address lies in, and the state of the row stepped. -/
theorem spawnResults : Obligations.SpawnResults := by
  unfold Obligations.SpawnResults
  refine ⟨fun q p c s he => ?spawn, fun a p s s1 pa attr he h => ?migr, fun d g p s he => ?stepx⟩
  case spawn =>
    have runs := exec_spawn he q c
    refine ⟨fun own => ?_, fun far inside => ?_, fun far outside => ?_⟩
    · obtain ⟨m, sends⟩ := s.sendSpawn_sends q (bits ((s.me).rg c) 0 32) s.seat.site
      rw [own] at runs
      exact ⟨_, m, runs, sends⟩
    · obtain ⟨m, sends⟩ := s.sendSpawn_sends q (bits ((s.me).rg c) 0 32)
        ((s.gridOf s.cur).getD (bits ((s.me).rg c) 32 16).toNat 0)
      rw [far, if_neg Bool.false_ne_true, if_neg (Nat.not_le.mpr inside)] at runs
      exact ⟨_, m, runs, sends⟩
    · rw [far, if_neg Bool.false_ne_true, if_pos outside] at runs
      exact sets_finish runs ((s.me).wp_pc q false)
  case migr =>
    have runs := exec_migr he h
    refine ⟨fun own => ⟨fun done => ?_, fun pend => ?_⟩, State.moveWaits_idle, fun far waits => ?_, fun far free => ?_⟩
    · exact ⟨_, runs.trans (by rw [if_pos own, if_pos done]), onlyRow_advance s1⟩
    · rw [runs, if_pos own, if_neg pend]
    · rw [runs, if_neg far, State.startMove_waits waits]
    · have me := State.startMove_me free (paSlot pa) s1.after
      refine ⟨_, runs.trans (by rw [if_neg far]), congrArg Row.st me, congrArg Row.pc me, congrArg Row.move me, fun i => ?_⟩
      exact congrArg Mon.armed (Row.mon_fired (r := s1.me) (congrArg Row.mon me :) i)
  case stepx =>
    refine ⟨exec_stepx_unheld he, fun held sent still alone => ⟨fun stopped moving => ?_, fun stopped other => ?_⟩⟩
    · rw [← stepResult_idle]
      exact sets_finish (exec_stepx_answers he rfl held sent still alone stopped moving) ((s.me).wg_pc d _)
    · exact ⟨_, exec_stepx_steps he rfl held sent still alone stopped, State.stepx_steps d other stopped⟩

end Sys2Proof.Machine
end

section
/-! SUPPORT. A launch counted to its end: the retirements, the reports of columns and fields, the end of the launch and its successor
(R205, R207, R208, R210, R212, R259). -/

namespace Sys2Proof.Machine

/-! ## A retirement (R205, R208, R210, R212) -/

theorem exec_retirementCount (s : State) : exec .retirementCount s = execRetirementCount s := rfl

theorem CacheMoves.comp {s t : State} (h : CacheMoves s t) (i : Nat) : (t.col i).comp = (s.col i).comp :=
  (congrArg Column.comp (h.col i) :)

/-- A unit's reduction is the last of those on their way: a release of 8 bytes, which no row's PEND counts (R141, R208). -/
theorem State.unitRed_sends (s : State) (k : RowKey) (site : Nat) (x : Nat × Keep) (v : DWord)
    (vec : Option (Vector (BitVec 32) 12)) :
    ∃ u y, CacheMoves s u ∧ s.unitRed k site x v vec = { u with reds := s.reds ++ [y], ops := u.ops + 1 } ∧
      y.row = k ∧ y.op = .add ∧ y.size = 8 ∧ y.pa = x.1 ∧ y.val = v ∧ y.rel = true ∧ y.vec = vec := by
  have moves := s.depart_moves (fieldOfSite site) (homeField x.1) false
  have reds : (s.depart (fieldOfSite site) (homeField x.1) false).1.reds = s.reds := (congrArg State.reds moves.rest :)
  rw [← reds]
  exact ⟨_, _, moves, rfl, rfl, rfl, rfl, rfl, rfl, rfl, rfl⟩

/-- Retirement `sel.k` counted in its column (R205). -/
def State.countRetired (s : State) (x : Retire) : State :=
  let u : State := { s with retires := s.retires.eraseIdx s.sel.k }
  u.setCol x.site.toNat { s.col x.site.toNat with comp := compStep (s.col x.site.toNat).comp x.row.t x.lnch false }

theorem State.countRetired_comp (s : State) (x : Retire) :
    ((s.countRetired x).col x.site.toNat).comp = compStep (s.col x.site.toNat).comp x.row.t x.lnch false :=
  congrArg Column.comp (State.col_setCol_same _ _ _)

section Retirement

variable {s u : State} {x : Retire} (hx : s.retires[s.sel.k]? = some x) (hu : u = s.releaseFar (s.siteOf x.row))
include hx hu

theorem retirementCount_waits (h : u.settled x.row = false ∨
    u.departRoom (fieldOfSite (s.siteOf x.row)) = false) :
    exec .retirementCount s = .next u := by
  have barred : (!u.settled x.row ||
      !u.departRoom (fieldOfSite (s.siteOf x.row))) = true := by
    obtain h | h := h <;> simp [h]
  simp only [exec_retirementCount, execRetirementCount, hx, ← hu, barred, if_true]

variable (settled : u.settled x.row = true)
  (room : u.departRoom (fieldOfSite (s.siteOf x.row)) = true)
include settled room

/-- A row without a join word is only counted. -/
theorem exec_retirementCount_counts (hj : x.join = 0) :
    exec .retirementCount s = .next (u.countRetired x) := by
  simp only [exec_retirementCount, execRetirementCount, hx, ← hu, settled, room, hj, beq_self_eq_true, Bool.not_true, Bool.or_self,
    Bool.false_eq_true, if_false, if_true]
  rfl

/-- The join word of a row goes down by a release before the row is counted (R208). -/
theorem exec_retirementCount_joins (hj : x.join ≠ 0) {pa : Nat} {attr : Attr} {v : State}
    (h : u.check ⟨x.row.t, x.sup, s.siteOf x.row, true, none⟩ .atom (addr48 x.join) 8 =
      .ok (.dram pa, attr) v) :
    exec .retirementCount s = .next ((v.unitRed x.row (s.siteOf x.row) (pa, keepOf attr CacheHint.none) (BitVec.allOnes 64)
      (some (u.releaseVec x.row (fieldOfSite (s.siteOf x.row))))).countRetired x) := by
  simp only [exec_retirementCount, execRetirementCount, hx, ← hu, settled, room, beq_false_of_ne hj, h, Bool.not_true, Bool.or_self,
    Bool.false_eq_true, if_false]
  rfl

theorem retirementCount_counts (hj : x.join = 0) : Makes s .retirementCount (fun t =>
    t.retires = s.retires.eraseIdx s.sel.k ∧ t.rows = s.rows ∧ t.reds = s.reds ∧
    (t.col x.site.toNat).comp = compStep (s.col x.site.toNat).comp x.row.t x.lnch false) := by
  have far : CacheMoves s u := hu ▸ s.releaseFar_moves (s.siteOf x.row)
  have reds : u.reds = s.reds := (congrArg State.reds far.rest :)
  have retires : u.retires = s.retires := (congrArg State.retires far.rest :)
  have sel : u.sel = s.sel := (congrArg State.sel far.rest :)
  refine ⟨_, exec_retirementCount_counts hx hu settled room hj, ?_, far.rows, reds, ?_⟩
  · rw [← retires, ← sel]
    rfl
  · rw [State.countRetired_comp, far.comp]

theorem retirementCount_joins (hj : x.join ≠ 0) {pa : Nat} {attr : Attr} {v : State}
    (h : u.check ⟨x.row.t, x.sup, s.siteOf x.row, true, none⟩ .atom (addr48 x.join) 8 =
      .ok (.dram pa, attr) v) :
    Makes s .retirementCount (fun t => t.retires = v.retires.eraseIdx v.sel.k ∧ t.rows = v.rows ∧
      (∃ y, t.reds = v.reds ++ [y] ∧ y.row = x.row ∧ y.op = .add ∧ y.size = 8 ∧ y.pa = pa ∧ y.val = BitVec.allOnes 64 ∧
        y.rel = true ∧ y.vec = some (u.releaseVec x.row (fieldOfSite (s.siteOf x.row)))) ∧
      (t.col x.site.toNat).comp = compStep (v.col x.site.toNat).comp x.row.t x.lnch false) := by
  have runs := exec_retirementCount_joins hx hu settled room hj h
  obtain ⟨w, y, moves, sends, made⟩ := v.unitRed_sends x.row (s.siteOf x.row) (pa, keepOf attr CacheHint.none) (BitVec.allOnes 64)
    (some (u.releaseVec x.row (fieldOfSite (s.siteOf x.row))))
  have retires : w.retires = v.retires := (congrArg State.retires moves.rest :)
  have sel : w.sel = v.sel := (congrArg State.sel moves.rest :)
  rw [sends] at runs
  refine ⟨_, runs, ?_, moves.rows, ⟨y, rfl, made⟩, ?_⟩
  · rw [← retires, ← sel]
    rfl
  · rw [State.countRetired_comp, ← moves.comp]
    rfl

end Retirement

/-! ## The report of a column (R205) -/

theorem exec_columnReport (s : State) : exec .columnReport s = execColumnReport s := rfl

/-- The entries of a field or the wafer behind the report of an entry below: one less, and marked with it where it is (R205, R207). -/
def reported (e : Comp) (t : BitVec 4) (id : BitVec 32) (l : List Comp) : List Comp :=
  if e.cancelled then markCancelled t id (compStep l t id false) else compStep l t id false

/-- A completion table without the entry of a launch. -/
def withoutComp (t : BitVec 4) (id : BitVec 32) (l : List Comp) : List Comp := l.filter (fun y => !(y.t == t && y.lnch == id))

@[simp] theorem State.field_fieldEvent (s : State) (kind : BitVec 8) (t : BitVec 4) (site : BitVec 10) (id : BitVec 32) :
    (s.fieldEvent kind t site id).field (fieldOfSite site.toNat) = { s.field (fieldOfSite site.toNat) with
      evWait := (s.field (fieldOfSite site.toNat)).evWait ++ [⟨kind, t, site, id⟩] } :=
  State.field_setField_same _ _ _

/-- A state in which the entry of launch `sel.lnch` has left column `sel.site`, with event 1, and the field's has gone down. -/
def State.columnReported (s : State) (e : Comp) : State :=
  let c := s.col s.sel.site.toNat
  let u := (s.setCol s.sel.site.toNat { c with comp := withoutComp s.sel.t s.sel.lnch c.comp }).fieldEvent 1 s.sel.t s.sel.site s.sel.lnch
  let x := u.field (fieldOfSite s.sel.site.toNat)
  u.setField (fieldOfSite s.sel.site.toNat) { x with comp := reported e s.sel.t s.sel.lnch x.comp }

section ColumnReport

variable {s : State} {e : Comp} (he : compOf (s.col s.sel.site.toNat).comp s.sel.t s.sel.lnch = some e)
include he

theorem columnReport_waits (h : e.count ≠ 0) : Idles s .columnReport := by
  simp only [Idles, exec_columnReport, execColumnReport, he, bne_iff_ne, ne_eq, h, not_false_eq_true, if_true]

theorem exec_columnReport_reports (h : e.count = 0) : exec .columnReport s = .next (s.columnReported e) := by
  simp only [exec_columnReport, execColumnReport, he, h, bne_self_eq_false, Bool.false_eq_true, if_false]
  rfl

theorem columnReport_reports (h : e.count = 0) : Makes s .columnReport (fun t =>
    (t.col s.sel.site.toNat).comp = withoutComp s.sel.t s.sel.lnch (s.col s.sel.site.toNat).comp ∧
    (t.field (fieldOfSite s.sel.site.toNat)).evWait =
      (s.field (fieldOfSite s.sel.site.toNat)).evWait ++ [⟨1, s.sel.t, s.sel.site, s.sel.lnch⟩] ∧
    (t.field (fieldOfSite s.sel.site.toNat)).comp = reported e s.sel.t s.sel.lnch (s.field (fieldOfSite s.sel.site.toNat)).comp ∧
    t.rows = s.rows ∧ t.mem = s.mem) := by
  refine ⟨_, exec_columnReport_reports he h, congrArg Column.comp (State.col_setCol_same s _ _), ?_, ?_, rfl, rfl⟩
  · rw [State.columnReported, State.field_setField_same, State.field_fieldEvent]
    rfl
  · rw [State.columnReported, State.field_setField_same, State.field_fieldEvent]
    rfl

end ColumnReport

/-! ## The end of a launch (R205, R245, R259) -/

theorem State.complete_keeps (s : State) (t : BitVec 4) (cpl : BitVec 64) (status reason : BitVec 8) (ctag : BitVec 16)
    (result : BitVec 32) : (s.complete t cpl status reason ctag result).rows = s.rows ∧
      (s.complete t cpl status reason ctag result).tens = s.tens := by
  unfold State.complete
  dsimp only
  split
  · exact ⟨rfl, rfl⟩
  · split
    · have recalls := s.recall_moves (cpl.toNat / 256) none
      have writes := (s.recall (cpl.toNat / 256) none).homeWrite_moves cpl.toNat (toBytes 8 (result ++ ctag ++ reason ++ status)) true
      exact ⟨writes.rows.trans recalls.rows, writes.tens.trans recalls.tens⟩
    · split <;> exact ⟨rfl, rfl⟩

/-- The counters that go down leave the rows and the launches of the tenant alone. -/
theorem State.ctrDown_keeps (t : BitVec 4) (fuel : Nat) (s : State) (level : BitVec 2) (id : BitVec 32) :
    (s.ctrDown t fuel level id).rows = s.rows ∧ ((s.ctrDown t fuel level id).ten t).launches = (s.ten t).launches := by
  induction fuel generalizing s level id with
  | zero => exact ⟨rfl, rfl⟩
  | succ fuel ih =>
    unfold State.ctrDown
    split
    · exact ⟨rfl, rfl⟩
    · rename_i c _
      dsimp only
      split
      · refine ⟨rfl, ?_⟩
        rw [State.ten_setTen_same]
      · let u := s.setTen t { s.ten t with ctrs := (s.ten t).ctrs.filter (fun y => !(y.level == level && y.id == id)) }
        obtain ⟨rows, tens⟩ := u.complete_keeps t c.watch 1 0 c.ctag c.id
        obtain ⟨rows', launches⟩ := ih (u.complete t c.watch 1 0 c.ctag c.id) (level + 1) c.parent
        refine ⟨rows'.trans rows, launches.trans ?_⟩
        rw [State.ten, tens]
        exact (congrArg Tenant.launches (State.ten_setTen_same s t _) :)

theorem State.unbindAt_tables (s : State) (t : BitVec 4) (l : BitVec 32) (site : BitVec 10) : TablesOnly s (s.unbindAt t l site) := by
  refine TablesOnly.foldl (fun u k => ?_) _ s
  dsimp only
  split <;> rfl

/-- A state in which the RETIRED rows of a launch are FREE, and the bind records that it leaves behind have ended (R171, R245). -/
def State.rowsFreed (s : State) (t : BitVec 4) (id : BitVec 32) (l : Launch) : State :=
  { s with
    rows := s.rows.map (fun x =>
      (x.1, if (RowKey.ofKey x.1).t == t && x.2.launch == id && x.2.st == .retired then { x.2 with st := .free } else x.2))
    cols := s.cols.map (fun x => (x.1, { x.2 with execs := x.2.execs.map (fun e => { e with
      binds := e.binds.filter (fun b => !(b.tenant == t && b.lnch == id && (l.cancelled || b.nbound == 0))) }) })) }

/-- The channels of a launch unbound in every column of its tenant (R136). -/
def State.unbindLaunch (s : State) (t : BitVec 4) (id : BitVec 32) : State :=
  (s.cols.filter (fun x => x.2.owner == some t)).foldl (fun u x => u.unbindAt t id (BitVec.ofNat 10 x.1)) s

/-- The tenant of a launch that has ended, which stays listed while its successor is still to be issued (R259). -/
def Tenant.past (x : Tenant) (l : Launch) (id : BitVec 32) : Tenant :=
  if l.succ == 0 || l.succIssued then { x with launches := x.launches.filter (fun y => y.id != id) }
  else x.modLaunch id (fun y => { y with phase := .complete, todo := [] })

/-- A state in which the launch is listed as ended, but for the counter above it. -/
def State.launchPast (s : State) (t : BitVec 4) (id : BitVec 32) (l : Launch) : State :=
  let u := (s.rowsFreed t id l).unbindLaunch t id
  u.setTen t ((u.ten t).past l id)

theorem State.launchDone_eq {s : State} {t : BitVec 4} {id : BitVec 32} {l : Launch} (h : (s.ten t).launch id = some l) :
    s.launchDone t id =
      if l.graph == 0 then s.launchPast t id l else (s.launchPast t id l).ctrDown t 3 1 l.graph := by
  unfold State.launchDone
  rw [h]
  rfl

theorem State.row_rowsFreed (s : State) (t : BitVec 4) (id : BitVec 32) (l : Launch) (j : RowKey) :
    (s.rowsFreed t id l).row j =
      if j.t = t ∧ (s.row j).launch = id ∧ (s.row j).st = .retired then { s.row j with st := .free } else s.row j := by
  have read := NMap.get_map Row.reset (fun n r =>
    if (RowKey.ofKey n).t == t && r.launch == id && r.st == .retired then { r with st := .free } else r) s.rows j.key
    (if_neg (by simp [Row.reset]))
  have row : (s.rowsFreed t id l).row j = _ := read
  rw [row]
  simp only [RowKey.ofKey_key, Bool.and_eq_true, beq_iff_eq, and_assoc]
  rfl

theorem State.unbindLaunch_tables (s : State) (t : BitVec 4) (id : BitVec 32) : TablesOnly s (s.unbindLaunch t id) :=
  .foldl (fun u _ => u.unbindAt_tables t id _) _ s

/-- The end of a launch frees its RETIRED rows, changes no other row, and leaves it listed as ended. -/
theorem State.launchDone_spec {s : State} {t : BitVec 4} {id : BitVec 32} {l : Launch} (h : (s.ten t).launch id = some l) :
    (s.launchDone t id).rows = (s.rowsFreed t id l).rows ∧
      ((s.launchDone t id).ten t).launches = ((s.ten t).past l id).launches := by
  have tables := (s.rowsFreed t id l).unbindLaunch_tables t id
  have rows : (s.launchPast t id l).rows = (s.rowsFreed t id l).rows := tables.rows
  have launches : ((s.launchPast t id l).ten t).launches = ((s.ten t).past l id).launches := by
    rw [State.launchPast, State.ten_setTen_same, tables.ten]
    rfl
  rw [State.launchDone_eq h]
  split
  · exact ⟨rows, launches⟩
  · obtain ⟨rows', launches'⟩ := State.ctrDown_keeps t 3 (s.launchPast t id l) 1 l.graph
    exact ⟨rows'.trans rows, launches'.trans launches⟩

/-- A launch that has ended is live no more. -/
theorem Tenant.past_ended (x : Tenant) (l : Launch) (id : BitVec 32) :
    (x.past l id).launches.any (fun y => y.id == id && y.phase != .complete) = false := by
  unfold Tenant.past
  split
  · simp only [List.any_filter, List.any_eq_false]
    intro y _
    cases e : y.id == id <;> simp [bne, e]
  · simp only [Tenant.modLaunch, List.any_map, List.any_eq_false, Function.comp_apply]
    intro y _
    cases e : y.id == id <;> simp [e]

/-- Nor is it listed where no successor of it is still to be issued. -/
theorem Tenant.past_unlisted (x : Tenant) {l : Launch} (h : l.succ = 0 ∨ l.succIssued = true) (id : BitVec 32) :
    (x.past l id).launch id = none := by
  have last : (l.succ == 0 || l.succIssued) = true := by rwa [Bool.or_eq_true, beq_iff_eq]
  rw [Tenant.past, last, if_pos rfl]
  simp [Tenant.launch]

/-! ## The report of a field (R205) -/

theorem exec_fieldReport (s : State) : exec .fieldReport s = execFieldReport s := rfl

/-- A state in which the entry of launch `sel.lnch` has left field `sel.field`. -/
def State.withoutFieldEntry (s : State) : State :=
  let x := s.field s.sel.field.toNat
  s.setField s.sel.field.toNat { x with comp := withoutComp s.sel.t s.sel.lnch x.comp }

section FieldReport

variable {s : State} {e w : Comp} (he : compOf (s.field s.sel.field.toNat).comp s.sel.t s.sel.lnch = some e) (h : e.count = 0)
  (hw : compOf (reported e s.sel.t s.sel.lnch s.wcomp) s.sel.t s.sel.lnch = some w)
include he h hw

/-- FIELDS goes down. -/
theorem exec_fieldReport_counts (hc : w.count ≠ 0) :
    exec .fieldReport s = .next { s.withoutFieldEntry with wcomp := reported e s.sel.t s.sel.lnch s.wcomp } := by
  unfold reported at hw ⊢
  simp only [exec_fieldReport, execFieldReport, he, h, bne_self_eq_false, Bool.false_eq_true, if_false, State.setField_wcomp, hw,
    beq_false_of_ne hc]
  rfl

/-- Where it comes to 0, the launch is complete. -/
theorem exec_fieldReport_completes (hc : w.count = 0) :
    exec .fieldReport s = .next (State.launchDone { s.withoutFieldEntry with
      wcomp := withoutComp s.sel.t s.sel.lnch (reported e s.sel.t s.sel.lnch s.wcomp) } s.sel.t s.sel.lnch) := by
  unfold reported at hw ⊢
  simp only [exec_fieldReport, execFieldReport, he, h, bne_self_eq_false, Bool.false_eq_true, if_false, State.setField_wcomp, hw,
    hc, beq_self_eq_true, if_true]
  rfl

theorem fieldReport_reports (hc : w.count ≠ 0) : Makes s .fieldReport (fun t =>
    t.wcomp = reported e s.sel.t s.sel.lnch s.wcomp ∧ t.rows = s.rows ∧
    (t.field s.sel.field.toNat).comp = withoutComp s.sel.t s.sel.lnch (s.field s.sel.field.toNat).comp) := by
  exact ⟨_, exec_fieldReport_counts he h hw hc, rfl, rfl, congrArg Field.comp (State.field_setField_same s _ _)⟩

theorem fieldReport_completes (hc : w.count = 0) {l : Launch} (hl : (s.ten s.sel.t).launch s.sel.lnch = some l) :
    Makes s .fieldReport (fun t =>
      (∀ j : RowKey, t.row j =
        if j.t = s.sel.t ∧ (s.row j).launch = s.sel.lnch ∧ (s.row j).st = .retired then { s.row j with st := .free } else s.row j) ∧
      t.liveLaunch s.sel.t s.sel.lnch = false ∧
      (l.succ = 0 ∨ l.succIssued = true → (t.ten s.sel.t).launch s.sel.lnch = none)) := by
  let u : State := { s.withoutFieldEntry with wcomp := withoutComp s.sel.t s.sel.lnch (reported e s.sel.t s.sel.lnch s.wcomp) }
  obtain ⟨rows, launches⟩ := State.launchDone_spec (s := u) hl
  refine ⟨_, exec_fieldReport_completes he h hw hc, fun j => ?_, ?_, fun hs => ?_⟩
  · exact (congrArg (fun m => NMap.get Row.reset m j.key) rows).trans (u.row_rowsFreed s.sel.t s.sel.lnch l j)
  · rw [State.liveLaunch, launches]
    exact Tenant.past_ended _ l _
  · rw [Tenant.launch, launches]
    exact Tenant.past_unlisted _ hs _

end FieldReport

/-! ## The successor (R259) -/

theorem exec_successorIssue (s : State) : exec .successorIssue s = execSuccessorIssue s := rfl

/-- A record that is read and accepted is issued once: its launch leaves where it is complete, and is marked where it has hinted. -/
theorem successorIssue_issues {s v t' : State} {l : Launch} {record : List Byte} {new : BitVec 32}
    (hl : (s.ten s.sel.t).launch s.sel.lnch = some l) (names : l.succ ≠ 0) (due : l.succIssued = false)
    (ready : l.hinted = true ∨ l.phase = .complete)
    (reads : s.recordAt ⟨s.sel.t, l.sup, ((s.ten s.sel.t).cols.headD 0).toNat, true, none⟩ (addr48 l.succ) = .ok record v)
    (accepts : v.submit s.sel.t record l.sup l.id l.vec = .ok (new, t')) :
    Makes s .successorIssue (fun t => OnlyTen t' t s.sel.t { t'.ten s.sel.t with
      launches := if l.phase = .complete then (t'.ten s.sel.t).launches.filter (fun z => z.id != l.id)
        else (t'.ten s.sel.t).launches.map (fun z => if z.id == l.id then { z with succIssued := true } else z) }) := by
  have open_ : (l.succ == 0 || l.succIssued || !(l.hinted || l.phase == .complete)) = false := by
    rw [beq_false_of_ne names, due]
    obtain h | h := ready <;> simp [h]
  refine ⟨_, ?_, OnlyTen.setTen t' _ _⟩
  simp only [exec_successorIssue, execSuccessorIssue, hl, open_, reads, accepts, Bool.false_eq_true, if_false, Tenant.modLaunch,
    beq_iff_eq]
  split <;> rfl

/-! ## The events -/

/-- Settles O52, from the retirement of a row up to the end of its launch and the issue of its successor. -/
theorem completionEvents : Obligations.CompletionEvents := by
  unfold Obligations.CompletionEvents
  intro s x l
  refine ⟨fun hx => ⟨retirementCount_waits hx rfl, retirementCount_counts hx rfl, fun pa attr v settled room hj =>
      retirementCount_joins hx rfl settled room hj⟩, fun e he => columnReport_reports he, fun e he => columnReport_waits he,
    fun e w he h hw => ⟨fieldReport_reports he h hw, fun hc hl => fieldReport_completes he h hw hc hl⟩,
    fun hl names due ready record v new t' => successorIssue_issues hl names due ready⟩

end Sys2Proof.Machine
end
